-- ==== Sys2Proof/Word.lean ====
section
/-! DEFINITION. The word types of the part and the one sparse table that State is built from: a list of
key and value pairs with strictly rising keys. -/

namespace Sys2Proof

/-- A frame slot, a register, an address as computed (R49, R51). -/
abbrev Word := BitVec 64

/-- One byte (R5). -/
abbrev Byte := BitVec 8

/-- A sparse table: key and value pairs, keys strictly rising. -/
abbrev Tab (α : Type) := List (Nat × α)

/-- The value at key `k`, or `d` where the table lists none. -/
def tabGet {α : Type} (d : α) : Tab α → Nat → α
  | [], _ => d
  | (j, v) :: r, k => if k < j then d else if k = j then v else tabGet d r k

/-- The value at key `k`, if the table lists one. -/
def tabFind {α : Type} : Tab α → Nat → Option α
  | [], _ => none
  | (j, v) :: r, k => if k < j then none else if k = j then some v else tabFind r k

/-- The table with `v` at key `k`. -/
def tabSet {α : Type} (t : Tab α) (k : Nat) (v : α) : Tab α :=
  match t with
  | [] => [(k, v)]
  | (j, u) :: r =>
    if k < j then (k, v) :: (j, u) :: r
    else if k = j then (k, v) :: r
    else (j, u) :: tabSet r k v

/-- The table with nothing at key `k`. -/
def tabDel {α : Type} (t : Tab α) (k : Nat) : Tab α :=
  match t with
  | [] => []
  | (j, u) :: r =>
    if k < j then (j, u) :: r
    else if k = j then r
    else (j, u) :: tabDel r k

/-- The canonical write: a value equal to what an unlisted key reads as is not listed. -/
def tabPut {α : Type} [DecidableEq α] (d : α) (t : Tab α) (k : Nat) (v : α) : Tab α :=
  if v = d then tabDel t k else tabSet t k v

/-- Keys strictly rise from a lower bound. -/
def tabAbove {α : Type} (n : Nat) : Tab α → Bool
  | [] => true
  | (j, _) :: r => decide (n ≤ j) && tabAbove (j + 1) r

/-- No listed value is the default. -/
def tabNoDefault {α : Type} [DecidableEq α] (d : α) : Tab α → Bool
  | [] => true
  | (_, v) :: r => decide (v ≠ d) && tabNoDefault d r

/-- The canonical form: keys strictly rising, no entry equal to the default. -/
def tabWf {α : Type} [DecidableEq α] (d : α) (t : Tab α) : Bool :=
  tabAbove 0 t && tabNoDefault d t

/-- `n` taken as an `n`-bit two's complement value (R8, sext), as an integer. -/
def sextInt (v : Nat) (n : Nat) : Int :=
  if n = 0 then 0
  else
    let u := v % 2 ^ n
    if u < 2 ^ (n - 1) then (u : Int) else (u : Int) - (2 : Int) ^ n

/-- An integer as an n-bit pattern. -/
def toBits (n : Nat) (v : Int) : Nat := (v % (2 : Int) ^ n).toNat

/-- R8, sat. -/
def satInt (v lo hi : Int) : Int := if v < lo then lo else if hi < v then hi else v

/-- Field [hi:lo] of v, right-aligned (R8, bits). -/
def bitsNat (v hi lo : Nat) : Nat := (v / 2 ^ lo) % 2 ^ (hi + 1 - lo)

end Sys2Proof
end

