-- ==== Sys2Proof/Syntax.lean ====
section
/-! DEFINITION. The steps of the part: one constructor for each row of the opcode table. The handler
forms carry their decoded operand fields (R49 to R67, R168, R176); the steps that are no instruction word
(events of engines, queues, links, the host and the module) carry what the event brings. -/

namespace Sys2Proof

/-! ## Field types -/

/-- W of the integer HR forms (R56). -/
inductive Width | w64 | w32 | w16 | w8
  deriving DecidableEq, Repr

/-- Floating types (R56: 0b101 to 0b111). -/
inductive FTy | fp16 | bf16 | fp32
  deriving DecidableEq, Repr

/-- Integer lane types (R56: 0b000 to 0b100). -/
inductive ITy | int8 | int16 | int32 | uint8 | uint16
  deriving DecidableEq, Repr

/-- Any lane type (R56). -/
inductive LTy | int (t : ITy) | flt (t : FTy)
  deriving DecidableEq, Repr

/-- The integer type field of CVTIF and CVTFI (R66). -/
inductive CTy | int8 | int16 | int32 | uint8 | uint16 | int64 | uint32 | uint64
  deriving DecidableEq, Repr

/-- Scopes (R56). -/
inductive Scope | firing | tile | quad | sector | stack | device | plane | system
  deriving DecidableEq, Repr

/-- Orders of the HM ordered forms (R56). -/
inductive Order | rlx | acq | rel | ar | sc
  deriving DecidableEq, Repr

/-- Access sizes of the HM ordered forms (R56). -/
inductive Size | b | h | w | d
  deriving DecidableEq, Repr

/-- The wave fields of a wave member (R58). -/
structure Wave where
  seq  : BitVec 6
  pred : BitVec 6
  succ : BitVec 6
  deriving DecidableEq, Repr

/-! ## Operand bundles. `g` is the guard field, `a` the stream marker of an integer form. -/

structure HR3 where
  a : Bool
  g : BitVec 4
  d : BitVec 10
  s : BitVec 10
  t : BitVec 10
  w : Width
  deriving DecidableEq, Repr
structure HR2 where
  a : Bool
  g : BitVec 4
  d : BitVec 10
  s : BitVec 10
  w : Width
  deriving DecidableEq, Repr
structure HK where
  a : Bool
  g : BitVec 4
  d : BitVec 10
  s : BitVec 10
  imm : BitVec 19
  deriving DecidableEq, Repr
structure HI where
  a : Bool
  g : BitVec 4
  d : BitVec 10
  imm : BitVec 29
  deriving DecidableEq, Repr
/-- BFX, BFXS: position and length − 1 (R97). -/
structure BF where
  a : Bool
  g : BitVec 4
  d : BitVec 10
  s : BitVec 10
  pos : BitVec 6
  len1 : BitVec 6
  deriving DecidableEq, Repr
structure BFIo where
  a : Bool
  g : BitVec 4
  d : BitVec 10
  s : BitVec 10
  t : BitVec 10
  pos : BitVec 6
  len1 : BitVec 6
  deriving DecidableEq, Repr
structure SELo where
  a : Bool
  g : BitVec 4
  d : BitVec 10
  s : BitVec 10
  t : BitVec 10
  p : BitVec 3
  deriving DecidableEq, Repr
structure CMPo where
  a : Bool
  g : BitVec 4
  p : BitVec 3
  s : BitVec 10
  t : BitVec 10
  w : Width
  deriving DecidableEq, Repr
structure CMPIo where
  a : Bool
  g : BitVec 4
  p : BitVec 3
  s : BitVec 10
  imm : BitVec 19
  deriving DecidableEq, Repr
structure PP3 where
  a : Bool
  g : BitVec 4
  p : BitVec 3
  s : BitVec 3
  t : BitVec 3
  deriving DecidableEq, Repr
structure PP2 where
  a : Bool
  g : BitVec 4
  p : BitVec 3
  s : BitVec 3
  deriving DecidableEq, Repr
structure PSETo where
  a : Bool
  g : BitVec 4
  p : BitVec 3
  v : Bool
  deriving DecidableEq, Repr
structure PLDo where
  a : Bool
  g : BitVec 4
  p : BitVec 3
  s : BitVec 10
  bit : BitVec 6
  deriving DecidableEq, Repr
/-- AGEN: shape octet and dimensions − 1 (R101). -/
structure AGENo where
  g : BitVec 4
  d : BitVec 10
  s : BitVec 10
  q : BitVec 7
  m1 : BitVec 3
  deriving DecidableEq, Repr
structure AINCo where
  g : BitVec 4
  d : BitVec 10
  q : BitVec 7
  k : BitVec 3
  deriving DecidableEq, Repr
structure ACHKo where
  g : BitVec 4
  p : BitVec 3
  s : BitVec 10
  q : BitVec 7
  m1 : BitVec 3
  deriving DecidableEq, Repr
/-- BR and CALL. -/
structure HJ where
  g : BitVec 4
  off : BitVec 29
  deriving DecidableEq, Repr
/-- One source slot: JR, EXITR. -/
structure OneS where
  g : BitVec 4
  s : BitVec 10
  deriving DecidableEq, Repr
/-- One destination slot: TQRY, MSTAT, CYC. -/
structure OneD where
  g : BitVec 4
  d : BitVec 10
  deriving DecidableEq, Repr
/-- Destination and source slot: WQRY, CQRY, LAUNCH, MMRD and the request forms of OP 0x39. -/
structure DS where
  g : BitVec 4
  d : BitVec 10
  s : BitVec 10
  deriving DecidableEq, Repr
/-- Three slots: CTXCTL. -/
structure DST where
  g : BitVec 4
  d : BitVec 10
  s : BitVec 10
  t : BitVec 10
  deriving DecidableEq, Repr
structure LOOPo where
  g : BitVec 4
  lc : BitVec 2
  s : BitVec 10
  len : BitVec 12
  deriving DecidableEq, Repr
structure LOOPIo where
  g : BitVec 4
  lc : BitVec 2
  count : BitVec 20
  len : BitVec 12
  deriving DecidableEq, Repr
structure LOOPSo where
  g : BitVec 4
  lc : BitVec 2
  s : BitVec 10
  dim : BitVec 3
  len : BitVec 12
  deriving DecidableEq, Repr
structure LCo where
  g : BitVec 4
  lc : BitVec 2
  deriving DecidableEq, Repr
/-- A 16-bit mask or code: WAITP, TEN, TDIS, TPSET, TPCLR, TRAP, BRK. -/
structure M16 where
  g : BitVec 4
  m : BitVec 16
  deriving DecidableEq, Repr
structure NOPo where
  g : BitVec 4
  wave : Option Wave
  deriving DecidableEq, Repr
structure SENDo where
  g : BitVec 4
  port : BitVec 3
  q : BitVec 7
  steer : BitVec 3
  stv : Bool
  last : Bool
  pri : BitVec 2
  bytes : BitVec 7
  deriving DecidableEq, Repr
structure SENDVo where
  g : BitVec 4
  port : BitVec 3
  q : BitVec 7
  t : BitVec 10
  steer : BitVec 3
  stv : Bool
  last : Bool
  pri : BitVec 2
  deriving DecidableEq, Repr
structure SENDDo where
  g : BitVec 4
  q : BitVec 7
  t : BitVec 10
  steer : BitVec 3
  stv : Bool
  last : Bool
  bytes : BitVec 7
  deriving DecidableEq, Repr
/-- REQ (count) and RECONF (depth): a port and nine bits. -/
structure PORT9 where
  g : BitVec 4
  port : BitVec 3
  n : BitVec 9
  deriving DecidableEq, Repr
structure RECVo where
  g : BitVec 4
  q : BitVec 7
  port : BitVec 3
  deriving DecidableEq, Repr
structure STEERTo where
  g : BitVec 4
  port : BitVec 3
  stv : Bool
  steer : BitVec 3
  deriving DecidableEq, Repr
structure F3 where
  g : BitVec 4
  d : BitVec 10
  s : BitVec 10
  t : BitVec 10
  ty : FTy
  deriving DecidableEq, Repr
structure F2 where
  g : BitVec 4
  d : BitVec 10
  s : BitVec 10
  ty : FTy
  deriving DecidableEq, Repr
structure FCMPo where
  g : BitVec 4
  p : BitVec 3
  s : BitVec 10
  t : BitVec 10
  ty : FTy
  deriving DecidableEq, Repr
structure CVTI where
  g : BitVec 4
  d : BitVec 10
  s : BitVec 10
  fty : FTy
  ity : CTy
  deriving DecidableEq, Repr
structure CVTFFo where
  g : BitVec 4
  d : BitVec 10
  s : BitVec 10
  tgt : FTy
  src : FTy
  deriving DecidableEq, Repr
structure CVT8 where
  g : BitVec 4
  d : BitVec 10
  s : BitVec 10
  fty : FTy
  e5m2 : Bool
  deriving DecidableEq, Repr
/-- OP 0x20. -/
structure V3 where
  g : BitVec 4
  d : BitVec 7
  s : BitVec 7
  t : BitVec 7
  ty : ITy
  sat : Bool
  deriving DecidableEq, Repr
/-- OP 0x21. -/
structure VL3 where
  g : BitVec 4
  d : BitVec 7
  s : BitVec 7
  t : BitVec 7
  ty : ITy
  deriving DecidableEq, Repr
/-- VPOPC, the integer reductions and the plane forms. -/
structure VI2 where
  g : BitVec 4
  d : BitVec 7
  s : BitVec 7
  ty : ITy
  deriving DecidableEq, Repr
structure VF3 where
  g : BitVec 4
  d : BitVec 7
  s : BitVec 7
  t : BitVec 7
  ty : FTy
  deriving DecidableEq, Repr
structure VF2 where
  g : BitVec 4
  d : BitVec 7
  s : BitVec 7
  ty : FTy
  deriving DecidableEq, Repr
structure VCMPo where
  g : BitVec 4
  d : BitVec 7
  s : BitVec 7
  t : BitVec 7
  ty : ITy
  cc : BitVec 3
  deriving DecidableEq, Repr
structure VFCMPo where
  g : BitVec 4
  d : BitVec 7
  s : BitVec 7
  t : BitVec 7
  ty : FTy
  cc : BitVec 3
  deriving DecidableEq, Repr
structure VSELo where
  g : BitVec 4
  d : BitVec 7
  s : BitVec 7
  t : BitVec 7
  ty : LTy
  m : BitVec 7
  deriving DecidableEq, Repr
structure VBCASTo where
  g : BitVec 4
  d : BitVec 7
  s : BitVec 10
  ty : LTy
  deriving DecidableEq, Repr
structure VEXTo where
  g : BitVec 4
  d : BitVec 10
  s : BitVec 7
  ty : LTy
  lane : BitVec 6
  deriving DecidableEq, Repr
structure VINSo where
  g : BitVec 4
  d : BitVec 7
  s : BitVec 10
  ty : LTy
  lane : BitVec 6
  deriving DecidableEq, Repr
structure VPERMo where
  g : BitVec 4
  d : BitVec 7
  s : BitVec 7
  t : BitVec 7
  ty : LTy
  deriving DecidableEq, Repr
structure VSHUFo where
  g : BitVec 4
  d : BitVec 7
  s : BitVec 7
  ty : LTy
  op : BitVec 3
  k : BitVec 6
  deriving DecidableEq, Repr
structure VCVTo where
  g : BitVec 4
  d : BitVec 7
  s : BitVec 7
  src : LTy
  tgt : LTy
  sat : Bool
  deriving DecidableEq, Repr
/-- HM plain with a slot in D: LDB to LDD, STB to STD. -/
structure MEMo where
  g : BitVec 4
  d : BitVec 10
  s : BitVec 10
  off : BitVec 10
  wave : Wave
  deriving DecidableEq, Repr
/-- HM plain with an octet in D: LDV, STV. -/
structure MEMVo where
  g : BitVec 4
  d : BitVec 7
  s : BitVec 10
  off : BitVec 10
  wave : Wave
  deriving DecidableEq, Repr
/-- HM plain with D = 0: STZ and the forms of OP 0x2E. -/
structure LINEo where
  g : BitVec 4
  s : BitVec 10
  off : BitVec 10
  wave : Wave
  deriving DecidableEq, Repr
structure WOPENo where
  g : BitVec 4
  win : BitVec 3
  s : BitVec 10
  deriving DecidableEq, Repr
structure WINo where
  g : BitVec 4
  win : BitVec 3
  deriving DecidableEq, Repr
/-- LDA, LDX, STL (HM ordered, T = 0). -/
structure SYNCo where
  g : BitVec 4
  d : BitVec 10
  s : BitVec 10
  scope : Scope
  order : Order
  size : Size
  sg : Bool
  off : BitVec 10
  deriving DecidableEq, Repr
/-- STX and the atomics (HM ordered). -/
structure ATOMo where
  g : BitVec 4
  d : BitVec 10
  s : BitVec 10
  t : BitVec 10
  scope : Scope
  order : Order
  size : Size
  sg : Bool
  off : BitVec 10
  deriving DecidableEq, Repr
structure FENo where
  g : BitVec 4
  acq : Bool
  rel : Bool
  scope : Scope
  deriving DecidableEq, Repr
structure BPOSTo where
  g : BitVec 4
  d : BitVec 10
  q : BitVec 7
  plane : BitVec 3
  key : BitVec 4
  rel : Bool
  deriving DecidableEq, Repr
structure BWAITo where
  g : BitVec 4
  d : BitVec 10
  s : BitVec 10
  plane : BitVec 3
  key : BitVec 4
  gseq : Bool
  acq : Bool
  deriving DecidableEq, Repr
structure BSEQo where
  g : BitVec 4
  d : BitVec 10
  plane : BitVec 3
  key : BitVec 4
  sel : BitVec 2
  acq : Bool
  deriving DecidableEq, Repr
structure COLLo where
  g : BitVec 4
  d : BitVec 7
  s : BitVec 7
  t : BitVec 10
  plane : BitVec 3
  ty : LTy
  op : BitVec 2
  acq : Bool
  rel : Bool
  deriving DecidableEq, Repr
structure OMo where
  g : BitVec 4
  o : BitVec 4
  deriving DecidableEq, Repr
structure OLOADo where
  g : BitVec 4
  o : BitVec 4
  q : BitVec 7
  t : BitVec 10
  acq : Bool
  scope : Scope
  wake : BitVec 10
  bit : BitVec 4
  deriving DecidableEq, Repr
structure OSTOREo where
  g : BitVec 4
  o : BitVec 4
  q : BitVec 7
  t : BitVec 10
  rel : Bool
  scope : Scope
  deriving DecidableEq, Repr
structure OSTATo where
  g : BitVec 4
  d : BitVec 10
  o : BitVec 4
  deriving DecidableEq, Repr
structure OZEROo where
  g : BitVec 4
  o : BitVec 4
  p1 : BitVec 4
  deriving DecidableEq, Repr
structure MPAIRo where
  g : BitVec 4
  v : BitVec 11
  deriving DecidableEq, Repr
structure ACCo where
  g : BitVec 4
  acc : BitVec 2
  deriving DecidableEq, Repr
structure MMAo where
  g : BitVec 4
  acc : BitVec 2
  oa : BitVec 4
  ob : BitVec 4
  deriving DecidableEq, Repr
structure MDRAINo where
  g : BitVec 4
  acc : BitVec 2
  route : BitVec 3
  last : Bool
  rows1 : BitVec 6
  deriving DecidableEq, Repr
structure MWAITo where
  g : BitVec 4
  m : BitVec 4
  deriving DecidableEq, Repr
structure CPYo where
  g : BitVec 4
  d : BitVec 10
  q : BitVec 7
  acq : Bool
  rel : Bool
  scope : Scope
  deriving DecidableEq, Repr
structure CWAITo where
  g : BitVec 4
  s : BitVec 10
  all : Bool
  deriving DecidableEq, Repr
structure LCTXo where
  g : BitVec 4
  c : BitVec 3
  deriving DecidableEq, Repr
structure LTLo where
  g : BitVec 4
  s : BitVec 10
  c : BitVec 3
  acq : Bool
  scope : Scope
  deriving DecidableEq, Repr
structure LBINDo where
  g : BitVec 4
  o : BitVec 4
  sig : BitVec 11
  deriving DecidableEq, Repr
structure LEVALo where
  g : BitVec 4
  q : BitVec 7
  n1 : BitVec 3
  sig : BitVec 11
  deriving DecidableEq, Repr
structure LWAITo where
  g : BitVec 4
  m : BitVec 8
  deriving DecidableEq, Repr
structure SRDo where
  g : BitVec 4
  d : BitVec 10
  idx : BitVec 8
  deriving DecidableEq, Repr
structure SWRo where
  g : BitVec 4
  s : BitVec 10
  idx : BitVec 8
  deriving DecidableEq, Repr
/-- One octet: EVPOST. -/
structure OneQ where
  g : BitVec 4
  q : BitVec 7
  deriving DecidableEq, Repr
structure QPOPo where
  g : BitVec 4
  q : BitVec 7
  s : BitVec 10
  deriving DecidableEq, Repr
structure MMWRo where
  g : BitVec 4
  s : BitVec 10
  t : BitVec 10
  deriving DecidableEq, Repr

/-! ## What the events bring -/

/-- A tile of the module: stack, column (0 to 16), row (0 to 15). -/
structure TileId where
  stk : Nat
  x : Nat
  y : Nat
  deriving DecidableEq, Repr

/-- A token (R35, R36): header fields, payload, parity. -/
structure Token where
  dev : BitVec 12
  stk : BitVec 2
  tx : BitVec 5
  ty : BitVec 4
  node : BitVec 10
  port : BitVec 4
  pri : BitVec 2
  kind : BitVec 3
  ctx : BitVec 10
  tag : BitVec 32
  seq : BitVec 16
  skip : BitVec 8
  fmt : BitVec 4
  last : Bool
  stv : Bool
  steer : BitVec 3
  bytes : BitVec 7
  rsv : BitVec 4
  payload : BitVec 512
  par : BitVec 16
  deriving DecidableEq, Repr

/-- What a sync access or atomic asks of the home of its line (R159, R164, R300). -/
inductive HomeKind | load | ldx | store | stx | aadd | aand | aor | axor | amin | amax | axchg | acas | publish | pinv | pflush | pclean | wqry | bind | probe
  deriving DecidableEq, Repr

/-- One request for the home: the physical key (stack and place), the size in bytes, the operand, the
compare value, signed comparison. -/
structure HomeReq where
  kind : HomeKind
  addr : Nat
  size : Nat
  val : BitVec 1024
  cmp : Word
  sg : Bool
  mask : BitVec 128
  deriving DecidableEq, Repr

/-- A request of another device that arrives at an owner stack (R343, R347): its source, its identifier
(writes), the context served, the offset, what it asks. A window open carries its mode. -/
structure RemReq where
  srcDev : Nat
  srcStk : Nat
  srcCtx : Nat
  rid : Nat
  /-- The requesting firing, as its device names it: it holds the reservation of an LDX at this home. -/
  agent : Nat
  stk : Nat
  rctx : Nat
  /-- The virtual address at the requester, for the owner's XLATE2 record (R342). -/
  va : Nat
  off : Nat
  isOpen : Bool
  openW : Bool
  rowb : Nat
  pitch : Nat
  rows : Nat
  req : HomeReq
  /-- The open of a command's or MPORT's range, which R158 does not count as a window. -/
  range : Bool := false
  /-- The holder to which a replayed open has lost (R408), in the log's numbering. -/
  winner : Option Nat := none
  deriving DecidableEq, Repr

/-- The answer to a remote request (R346): what comes back; with a RACE, the holder that it lost to (R407). -/
inductive RemAns
  | data (v : BitVec 1024)
  | stxFail
  | granted
  | race (holder : Nat)
  | fault (code cause level stage : Nat)
  | isReset
  deriving DecidableEq, Repr

/-- A flit of a Kennil plane (R393). -/
structure PFlit where
  src : BitVec 12
  gid : BitVec 8
  key : BitVec 4
  mtype : BitVec 4
  cidx : BitVec 16
  n : BitVec 7
  lty : BitVec 3
  op : BitVec 2
  pos : Word
  payload : BitVec 512
  ring : BitVec 6
  resent : Bool
  deriving DecidableEq, Repr

/-- A REPOINT message (R375): the source triple and the destination triple. -/
structure Repoint where
  sdev : Nat
  sstk : Nat
  sctx : Nat
  ddev : Nat
  dstk : Nat
  dctx : Nat
  deriving DecidableEq, Repr

/-- How a REPOINT reaches a member: at a position of a plane's sequence, or as a message of the destination's control region (R375, R377). -/
inductive RepointVia | plane (n : BitVec 3) (pos : BitVec 64) | message
  deriving DecidableEq, Repr

/-- Who asks for a page: the device and the identifier of its request (R372). -/
structure PageAsker where
  dev : Nat
  rid : Nat
  deriving DecidableEq, Repr

/-- What MAPACK says of the map it acknowledges: its epoch, and the flit from which a planned one holds (R390, R392). -/
structure MapPoint where
  epoch : BitVec 8
  lsn   : Nat
  deriving DecidableEq, Repr

/-- A window-table entry that goes with a migrating page (R372): its holder at another device, the request that opened it,
its mode, the page's place and its rows in the owner's address space. -/
structure PageReg where
  dev   : Nat
  stk   : Nat
  ctx   : Nat
  agent : Nat
  rid   : Nat
  w     : Bool
  off   : Nat
  rows  : List (Nat × Nat × Nat × Nat)
  range : Bool := false
  deriving DecidableEq, Repr

/-- Which queue a queue register or a record names (R117, R420). -/
inductive QSel
  | ev (ctx : Nat)
  | hv (part stk : Nat)
  | mg
  deriving DecidableEq, Repr

/-- One step of the part: one constructor per row of the opcode table. -/
inductive Instr where
  -- OP 0x00, 0x01, 0x02 (R92, R93)
  | add (o : HR3) | sub (o : HR3) | and (o : HR3) | or (o : HR3) | xor (o : HR3) | andn (o : HR3) | orn (o : HR3) | xnor (o : HR3)
  | shl (o : HR3) | shr (o : HR3) | sar (o : HR3) | rol (o : HR3) | min (o : HR3) | max (o : HR3) | minu (o : HR3) | maxu (o : HR3)
  | mul (o : HR3) | mulh (o : HR3) | mulhu (o : HR3) | mad (o : HR3) | divu (o : HR3) | remu (o : HR3) | absd (o : HR3)
  -- OP 0x03 (R94)
  | mov (o : HR2) | neg (o : HR2) | not (o : HR2) | abs (o : HR2) | clz (o : HR2) | ctz (o : HR2) | popc (o : HR2) | brev (o : HR2)
  -- OP 0x04, 0x05, 0x06 (R95 to R97)
  | addi (o : HK) | andi (o : HK) | ori (o : HK) | xori (o : HK) | shli (o : HK) | shri (o : HK) | sari (o : HK) | muli (o : HK)
  | li (o : HI) | lui (o : HI) | ltop (o : HI)
  | bfx (o : BF) | bfxs (o : BF) | bfi (o : BFIo) | sel (o : SELo)
  -- OP 0x07, 0x08, 0x09 (R98, R99)
  | cmpEq (o : CMPo) | cmpNe (o : CMPo) | cmpLt (o : CMPo) | cmpLe (o : CMPo) | cmpLtu (o : CMPo) | cmpLeu (o : CMPo) | cmpTst (o : CMPo)
  | cmpiEq (o : CMPIo) | cmpiNe (o : CMPIo) | cmpiLt (o : CMPIo) | cmpiLe (o : CMPIo) | cmpiLtu (o : CMPIo) | cmpiLeu (o : CMPIo) | cmpiTst (o : CMPIo)
  | pand (o : PP3) | por (o : PP3) | pxor (o : PP3) | pnot (o : PP2) | pset (o : PSETo) | pmov (o : PP2) | pld (o : PLDo)
  -- OP 0x0A (R101)
  | agen (o : AGENo) | ainc (o : AINCo) | achk (o : ACHKo)
  -- OP 0x10 to 0x13 (R102 to R110)
  | br (o : HJ) | call (o : HJ) | ret (g : BitVec 4) | jr (o : OneS)
  | loop (o : LOOPo) | loopi (o : LOOPIo) | loops (o : LOOPSo) | lbrk (o : LCo)
  | exit (g : BitVec 4) | exitr (o : OneS) | yield (g : BitVec 4) | waitp (o : M16) | nop (o : NOPo)
  -- OP 0x14, 0x15 (R182 to R190)
  | send (o : SENDo) | sendv (o : SENDVo) | sendd (o : SENDDo) | req (o : PORT9) | recv (o : RECVo) | steert (o : STEERTo) | reconf (o : PORT9)
  | ten (o : M16) | tdis (o : M16) | tpset (o : M16) | tpclr (o : M16) | tqry (o : OneD)
  -- OP 0x18 to 0x1B (R127 to R132)
  | fadd (o : F3) | fsub (o : F3) | fmul (o : F3) | fmin (o : F3) | fmax (o : F3) | ffma (o : F3) | fcpys (o : F3)
  | frcp (o : F2) | frsq (o : F2) | fsqrt (o : F2) | fexp2 (o : F2) | flog2 (o : F2) | fneg (o : F2) | fabs (o : F2) | frnd (o : F2)
  | fcmpEq (o : FCMPo) | fcmpNe (o : FCMPo) | fcmpLt (o : FCMPo) | fcmpLe (o : FCMPo) | fcmpUn (o : FCMPo)
  | cvtif (o : CVTI) | cvtfi (o : CVTI) | cvtff (o : CVTFFo) | cvtf8 (o : CVT8) | cvt8f (o : CVT8)
  -- OP 0x20 to 0x25 (R134 to R142)
  | vadd (o : V3) | vsub (o : V3) | vmul (o : V3) | vmad (o : V3) | vmin (o : V3) | vmax (o : V3) | vabsd (o : V3) | vavg (o : V3)
  | vand (o : VL3) | vor (o : VL3) | vxor (o : VL3) | vandn (o : VL3) | vshl (o : VL3) | vshr (o : VL3) | vsar (o : VL3) | vpopc (o : VI2)
  | vfadd (o : VF3) | vfsub (o : VF3) | vfmul (o : VF3) | vffma (o : VF3) | vfmin (o : VF3) | vfmax (o : VF3) | vfexp2 (o : VF2) | vfrcp (o : VF2)
  | vcmp (o : VCMPo) | vfcmp (o : VFCMPo) | vsel (o : VSELo) | vbcast (o : VBCASTo) | vext (o : VEXTo) | vins (o : VINSo)
  | vperm (o : VPERMo) | vshuf (o : VSHUFo) | vredadd (o : VI2) | vredmax (o : VI2) | vredmin (o : VI2) | vfredadd (o : VF2) | vfredmax (o : VF2) | vcvt (o : VCVTo)
  | vplane (o : VI2) | vunplane (o : VI2) | vplane16 (o : VI2) | vunplane16 (o : VI2)
  -- OP 0x28, 0x29, 0x2A (R147, R152 to R158)
  | ldb (o : MEMo) | ldbs (o : MEMo) | ldh (o : MEMo) | ldhs (o : MEMo) | ldw (o : MEMo) | ldws (o : MEMo) | ldd (o : MEMo) | ldv (o : MEMVo)
  | stb (o : MEMo) | sth (o : MEMo) | stw (o : MEMo) | std (o : MEMo) | stv (o : MEMVo) | stz (o : LINEo)
  | wopenr (o : WOPENo) | wopenw (o : WOPENo)
  | wclose (o : WINo) | wclosea (g : BitVec 4)
  | wqry (o : DS)
  -- OP 0x2B to 0x2E (R159 to R167)
  | lda (o : SYNCo) | stl (o : SYNCo) | ldx (o : SYNCo) | stx (o : ATOMo)
  | aadd (o : ATOMo) | aand (o : ATOMo) | aor (o : ATOMo) | axor (o : ATOMo) | amin (o : ATOMo) | amax (o : ATOMo) | axchg (o : ATOMo) | acas (o : ATOMo)
  | fence (o : FENo) | fencee (o : FENo) | gfence (o : FENo)
  | pflush (o : LINEo) | pinv (o : LINEo) | pclean (o : LINEo) | ppref (o : LINEo)
  -- OP 0x33 (R168 to R173)
  | bpost (o : BPOSTo) | bwait (o : BWAITo) | bseq (o : BSEQo) | coll (o : COLLo)
  -- OP 0x30, 0x31, 0x32, 0x34 (R191 to R218)
  | oclaim (o : OMo) | orelease (o : OMo) | oload (o : OLOADo)
  | ostore (o : OSTOREo) | ostat (o : OSTATo) | ozero (o : OZEROo)
  | mpair (o : MPAIRo) | mclr (o : ACCo) | mma (o : MMAo)
  | mdrain (o : MDRAINo) | mstat (o : OneD) | mwait (o : MWAITo)
  | cpy (o : CPYo) | cpyp (o : CPYo) | cpyt (o : CPYo) | gath (o : CPYo) | scat (o : CPYo) | cpyr (o : CPYo)
  | cwait (o : CWAITo) | cqry (o : DS)
  | lctx (o : LCTXo) | ltload (o : LTLo) | lwire (o : LTLo)
  | lbind (o : LBINDo) | lbindClear (g : BitVec 4) | leval (o : LEVALo)
  | lwait (o : LWAITo)
  -- OP 0x38, 0x39 (R111 to R119)
  | srd (o : SRDo) | swr (o : SWRo) | trap (o : M16) | evpost (o : OneQ) | brk (o : M16) | cyc (o : OneD) | launch (o : DS)
  | cfgld (o : DS) | cfgsv (o : DS)
  | qpop (o : QPOPo) | mmrd (o : DS) | mmwr (o : MMWRo)
  -- CTXCTL and PRTCTL: an operand of the one word selects among these (R117, R119, R329)
  | ctxctlQuery (o : DST) | ctxctlEnable (o : DST) | ctxctlDisable (o : DST) | ctxctlHalt (o : DST) | ctxctlReset (o : DST) | ctxctlRestore (o : DST)
  | prtctlCreate (o : DS) | prtctlResize (o : DS) | prtctlDestroy (o : DS) | prtctlParam (o : DS) | prtctlBind (o : DS)
  -- Steps that are no instruction word: the machine's own, and what reaches it from outside.
  -- OP 0x28, 0x29, 0x2A (R147, R152 to R158)
  | loadReturn (t : TileId) (fid rid : Nat) (data : BitVec 512)
  | wtOpenRequest (stk : Nat) | winfullTimeout (stk : Nat) (rid : Nat) | windowGrant (stk : Nat) (rid : Nat)
  | closeAck (cid : Nat) | closeComplete (cid : Nat)
  -- OP 0x2B to 0x2E (R159 to R167)
  | homePerform (r : HomeReq)
  -- OP 0x30, 0x31, 0x32, 0x34 (R191 to R218)
  | omfillReceive (t : TileId) (cmd : Nat) (n : Nat)
  | mmaComplete (t : TileId)
  | copyChunk (t : TileId) (cmd : Nat) | copyDone (t : TileId) (cmd : Nat)
  | lcbLoadComplete (t : TileId) (cmd : Nat)
  | levalLayer (t : TileId)
  -- OP 0x38, 0x39 (R111 to R119)
  | resizeComplete (part : Nat)
  -- Firings (R224 to R243)
  | requeue (t : TileId) (fid : Nat) | resume (t : TileId) (fid : Nat) | kill (t : TileId) (fid : Nat)
  | commandFailure (t : TileId) (cmd : Nat) (code : Nat)
  | instantiate (inst : Nat)
  | sourceFire (t : TileId) (node : Nat) (tag : Nat) | firingRule (t : TileId) (node : Nat) (tag : Nat)
  | resourceGrant (t : TileId) | stallWake (t : TileId) (fid : Nat) | retire (t : TileId) (fid : Nat)
  | endOfStream (inst : Nat) | watchdogExpiry (inst : Nat)
  -- Tokens (R38 to R48) and control tokens (R41, R352, R406)
  | routeToken (n : Nat) | tokenReceive (n : Nat) | tokenResend (n : Nat)
  | reqToken (t : TileId) (node port : Nat) (first count : Nat)
  | reconfCtrl (t : TileId) (node port : Nat) (depth : Nat)
  | relatch (t : TileId) (node : Nat) (page : Word) (ret : BitVec 24)
  | dhold (inst : Nat) | dfree (inst : Nat)
  | halt (t : TileId) | haltPoint (t : TileId)
  -- Stream operators (R244 to R275, R309)
  | convToken (t : TileId) (node : Nat) | addeToken (t : TileId) (node : Nat) | muleToken (t : TileId) (node : Nat)
  | maxeToken (t : TileId) (node : Nat) | funcToken (t : TileId) (node : Nat) | reduToken (t : TileId) (node : Nat)
  | steerToken (t : TileId) (node : Nat) | forkToken (t : TileId) (node : Nat) | mergeToken (t : TileId) (node : Nat)
  | chanToken (t : TileId) (node : Nat) | tranToken (t : TileId) (node : Nat) | exdcToken (t : TileId) (node : Nat)
  | mportRead (t : TileId) (node : Nat) | mportWrite (t : TileId) (node : Nat) | streamDone (t : TileId) (node : Nat)
  | mePortFill (t : TileId) (port : Nat)
  | soResidueFault (t : TileId) (node : Nat)
  -- Launches (R313 to R328), save and restore (R352 to R367)
  | hostLaunch (ctx : Nat) (rec : List Byte) | launchEligible (ctx queue : Nat)
  | utundPlace (lid : Nat) (ctx : Nat) (image : List Byte)
  | arbitrationPass | quantumExpiry (lid : Nat) (ctx : Nat) (stk : Nat)
  | imageSave (ctx : Nat) (lid : Nat) | restore (ctx : Nat) (lid : Nat)
  -- Fabric (R337 to R347, R371 to R379)
  | remoteRequest (r : RemReq) | remoteResponse (rid : Nat) (ans : RemAns) | remtoExpiry (rid : Nat)
  | redirect (rid : Nat) (dev stk ctx : Nat)
  | mtlbinv (stk : Nat) (v : Word) | mtlbinvComplete (stk : Nat)
  | chanBind (t : TileId) (node : Nat)
  | pagePull (stk part gpa : Nat) (asker : PageAsker) (dstk dctx : Nat)
  | pageInstall (stk part gpa frame : Nat) (bytes : List (Nat × Byte)) (regs : List PageReg)
  | repoint (via : RepointVia) (r : Repoint) | pack (peer : Nat) (ctx : Nat) | repointTimeout (peer : Nat) (ctx : Nat)
  -- Kennil planes (R348 to R351, R393 to R395)
  | userDelivery (plane : Nat) (f : PFlit) | collDelivery (plane : Nat) (f : PFlit)
  | grant (plane : Nat) (f : PFlit) | grantTimeout (plane : Nat)
  | join (plane : Nat) (f : PFlit) | leave (plane : Nat) (f : PFlit) | repair (plane : Nat) (f : PFlit) | group (plane : Nat) (f : PFlit)
  | planeStallTimeout (plane : Nat)
  -- Kennil links (R383 to R392, R410, R411)
  | laneBeat (link : Nat) (grp : Nat) (beats : List (Option (BitVec 104)))
  | linkFlit (link : Nat) (lsn : Nat) (f : BitVec 656)
  | idle (link : Nat) | ack (link : Nat) (lsn : Nat) | nak (link : Nat) (lsn : Nat) | loss (link : Nat) (lanes : BitVec 16)
  | map (link : Nat) (lanes : BitVec 16) (epoch : BitVec 8) | mapack (link : Nat) (lanes : BitVec 16) (at_ : MapPoint)
  | ackTimer (link : Nat) | replayTimeout (link : Nat) | lossOfLight (link : Nat) (lanes : BitVec 16)
  | restripeResume (link : Nat) | linkDown (link : Nat) | lanePark (link : Nat) (lanes : BitVec 16) | laneUnpark (link : Nat) (lanes : BitVec 16)
  -- Vertical buses, scrub, power (R396 to R400, R417, R418)
  | vbRetest (stk bus : Nat) (bad : List Nat) | vbRetestForced (stk bus : Nat) (bad : List Nat)
  | scrub (unit : Nat) (stk : Nat) (addr : Nat) (correctable : Bool)
  | powerWindow (energy : Nat) | thermalStop (stk : Nat) (temp : Nat) | templimExceeded (stk : Nat) (temp : Nat)
  | recordPost (q : QSel)
  -- Bring-up and host (R412 to R416, R421)
  | powerUp | moduleReset | firmwareBundle (b : List Byte) | attestationRequest (nonce : BitVec 256) | devid (v : Word)
  | hostRmaWrite (ctx : Nat) (va : Word) (b : List Byte) | hostRmaRead (ctx : Nat) (va : Word) (n : Nat) | hostUnsupported (kind : Nat)
  | dbgctlHalt (t : TileId) | dbgctlResume (t : TileId) | dbgctlStep (t : TileId)
  -- Management register writes (R419)
  | queueCtlWrite (q : QSel) (v : Word) | queueTailWrite (q : QSel) (v : Word)
  | logCtlWrite (part stk : Nat) (replay : Bool) (v : Word)
  | bindingWrite (ctx plane : Nat) (v : Word) | omapWrite (ctx n : Nat) (v : BitVec 32)
  | soflgClear (t : TileId) (node : Nat) | psplitWrite (ctx : Nat) (v : Word) | registerWrite (addr : Nat) (v : Word)
  | powerDown | templimRecovered (stk : Nat) (temp : Nat) | temperatureSwing (stk : Nat) (temp : Nat) | laneRecovery (link : Nat) (lanes : BitVec 16)
  | mportAccessDone (t : TileId) (node : Nat)
  | linkTraining (plane : Bool) (n : Nat) (peer : Nat)
  | chanBindAnswer (t : TileId) (node : Nat) (ok : Bool)
  deriving DecidableEq, Repr

end Sys2Proof
end

