-- ==== Sys2Proof/Config.lean ====
section
/-! DEFINITION. What the spec leaves open or an implementation fixes: opaque values that nothing can evaluate.
Where one is taken more than once, it is taken at the model's step counter. -/

namespace Sys2Proof.Config

/-- Which of several candidates goes first where the spec gives no order between tiles. -/
opaque pick : Nat → Nat

/-- Cycles beyond one that a step takes on a stack: timing is left out, so the counters advance freely. -/
opaque extraCycles : Nat → Nat → Nat

/-- Whether a dirty cache line has already been written back when PINV drops its copy (R167, R289). -/
opaque writtenBack : Nat → Bool

/-- Whether an RDC line has been replaced silently (R293). -/
opaque rdcDropped : Nat → Bool

/-- Whether the MTLB still holds a translation it was given (R337). -/
opaque mtlbHit : Nat → Bool

-- DESIGN CHOICE, log 6 (safe).
/-- A value the spec leaves undefined. -/
opaque freeWord : Nat → BitVec 64

-- DESIGN CHOICE, log 8 (safe).
/-- Fused values of the part (R412 to R415): key digest, minimum firmware version, serial number, the public
modulus of the identity key, and the signature its secret half makes. -/
opaque fusedDigest : List (BitVec 8)
opaque fwMin : Nat
opaque serial : BitVec 64
opaque identityKey : List (BitVec 8)
opaque sign : List (BitVec 8) → List (BitVec 8)

-- DESIGN CHOICE, log 32 (safe).
/-- The context and the partition under which the resident graphs of a stack run (R412). -/
opaque residentCtx : Nat → Nat
opaque residentPart : Nat → Nat

/-- The defect map read from fuses (R412, R223). -/
opaque fusedDefects : Nat → BitVec 272

/-- The state of a vertical bus as a test finds it: failed lines (R397, R398, R412). -/
opaque busTest : Nat → Nat → List Nat

/-- The port tile, as 17·row + column, at which the exit of a stack ends: exits 0 to 3 lead to the stacks, 4 + n is link
n (R38, R409). -/
opaque exitTile : Nat → Nat → Nat

/-- Places beyond the first that a queue of a tile's router has (R39), and what the FAULT graph makes of a failed hop from a tile (R46):
0 nothing yet, 1 repaired, else retired. -/
opaque hopCredits : Nat → Nat
opaque hopFate : Nat → Nat → Nat

/-- Whether a Kennil link is wide, and the stack whose exit it is (R383, R409). -/
opaque linkWide : Nat → Bool
opaque linkStack : Nat → Nat

/-- The hop time of a plane, in cycles of the stack that times its grants (R348). -/
opaque planeHop : Nat → Nat

/-- The temperature of a stack's die as its sensor reads it (R398, R418). -/
opaque dieTemp : Nat → Nat → Nat

end Sys2Proof.Config
end

