-- ==== Sys2Proof/WellFormed.lean ====
section
/-! DEFINITION. The limits that R51, R53, R58 and R64 to R67 set on the operand fields of a word, beyond what
the field types say. The checks that need the firing's handler (port numbers, priority, the control region)
are made when the word issues, with its configuration at hand. -/

namespace Sys2Proof

/-- G = 0b1000 is reserved (R53). -/
def guardOk (g : BitVec 4) : Bool := decide (g ≠ 8#4)

/-- A predicate destination is not p0 (R51). -/
def pdestOk (p : BitVec 3) : Bool := decide (p ≠ 0#3)

/-- WSEQ 0x3E and 0x3F raise ILLEGAL (R58). -/
def waveOk (w : Wave) : Bool := decide (w.seq.toNat ≤ 61)

/-- Position and length of a bit field (R64). -/
def fieldOk (pos len1 : BitVec 6) : Bool := decide (pos.toNat + len1.toNat + 1 ≤ 64)

/-- A loop body has 1 to 4095 words (R64). -/
def bodyOk (len : BitVec 12) : Bool := decide (len ≠ 0#12)

/-- STEER is zero when STV = 0 (R64, R65). -/
def steerOk (stv : Bool) (steer : BitVec 3) : Bool := stv || decide (steer = 0#3)

/-- At most 64 payload bytes (R65). -/
def bytesOk (n : BitVec 7) : Bool := decide (n.toNat ≤ 64)

/-- Lanes of an octet by lane type (R56). -/
def laneCount : LTy → Nat
  | .int .int8 => 64
  | .int .uint8 => 64
  | .int .int16 => 32
  | .int .uint16 => 32
  | .int .int32 => 16
  | .flt .fp16 => 32
  | .flt .bf16 => 32
  | .flt .fp32 => 16

/-- A shift immediate lies in 0 to 63 (R64). -/
def shiftOk (imm : BitVec 19) : Bool := decide (imm.toNat ≤ 63)

/-- The limit on k of each VSHUF operation (R139). -/
def shufOk (ty : LTy) (op : BitVec 3) (k : BitVec 6) : Bool :=
  match op.toNat with
  | 1 => decide (k.toNat < 8) && decide (2 ^ k.toNat ≤ laneCount ty)
  | 6 => false
  | 7 => false
  | _ => decide (k.toNat < laneCount ty)

/-- LDA and LDX: RLX, ACQ, SC (R67). -/
def loadOrderOk : Order → Bool
  | .rlx => true
  | .acq => true
  | .sc => true
  | .rel => false
  | .ar => false

/-- STL and STX: RLX, REL, SC (R67). -/
def storeOrderOk : Order → Bool
  | .rlx => true
  | .rel => true
  | .sc => true
  | .acq => false
  | .ar => false

/-- Atomics: word and doubleword (R67). -/
def atomSizeOk : Size → Bool
  | .w => true
  | .d => true
  | .b => false
  | .h => false

/-- An atomic that is neither AMIN nor AMAX. -/
def atomOk (o : ATOMo) : Bool := guardOk o.g && atomSizeOk o.size && !o.sg
/-- AMIN, AMAX: X[10] selects the signed comparison. -/
def atomMinOk (o : ATOMo) : Bool := guardOk o.g && atomSizeOk o.size

/-- Scope is zero whenever ACQ = REL = 0 in the HE forms of OP 0x30 to 0x34 (R176). -/
def heScopeOk (flags : Bool) (sc : Scope) : Bool := flags || decide (sc = .firing)

/-- The special registers SRD names (R111). -/
def srdIndexOk (k : BitVec 8) : Bool :=
  let n := k.toNat
  decide (n ≤ 0x12) || (decide (0x14 ≤ n) && decide (n ≤ 0x21)) || decide (n = 0x80) || decide (n = 0x81)

/-- VPLANE and VUNPLANE take byte lanes, the 16 forms halfword lanes (R142). -/
def planeTy8 : ITy → Bool
  | .int8 => true
  | .uint8 => true
  | _ => false
def planeTy16 : ITy → Bool
  | .int16 => true
  | .uint16 => true
  | _ => false

/-- An octet pair starts at q0 to q126 (R64). -/
def pairOk (q : BitVec 7) : Bool := decide (q.toNat ≤ 126)

/-- The limits of R64 to R67, R168 and R176 on one instruction; an event has none. -/
def Instr.wf (i : Instr) : Bool :=
  match i with
  | .add o => guardOk o.g
  | .sub o => guardOk o.g
  | .and o => guardOk o.g
  | .or o => guardOk o.g
  | .xor o => guardOk o.g
  | .andn o => guardOk o.g
  | .orn o => guardOk o.g
  | .xnor o => guardOk o.g
  | .shl o => guardOk o.g
  | .shr o => guardOk o.g
  | .sar o => guardOk o.g
  | .rol o => guardOk o.g
  | .min o => guardOk o.g
  | .max o => guardOk o.g
  | .minu o => guardOk o.g
  | .maxu o => guardOk o.g
  | .mul o => guardOk o.g
  | .mulh o => guardOk o.g
  | .mulhu o => guardOk o.g
  | .mad o => guardOk o.g
  | .divu o => guardOk o.g
  | .remu o => guardOk o.g
  | .absd o => guardOk o.g
  | .mov o => guardOk o.g
  | .neg o => guardOk o.g
  | .not o => guardOk o.g
  | .abs o => guardOk o.g
  | .clz o => guardOk o.g
  | .ctz o => guardOk o.g
  | .popc o => guardOk o.g
  | .brev o => guardOk o.g
  | .addi o => guardOk o.g
  | .andi o => guardOk o.g
  | .ori o => guardOk o.g
  | .xori o => guardOk o.g
  | .shli o => guardOk o.g && shiftOk o.imm
  | .shri o => guardOk o.g && shiftOk o.imm
  | .sari o => guardOk o.g && shiftOk o.imm
  | .muli o => guardOk o.g
  | .li o => guardOk o.g
  | .lui o => guardOk o.g
  | .ltop o => guardOk o.g && decide (o.imm.toNat ≤ 63)
  | .bfx o => guardOk o.g && fieldOk o.pos o.len1
  | .bfxs o => guardOk o.g && fieldOk o.pos o.len1
  | .bfi o => guardOk o.g && fieldOk o.pos o.len1
  | .sel o => guardOk o.g
  | .cmpEq o => guardOk o.g && pdestOk o.p
  | .cmpNe o => guardOk o.g && pdestOk o.p
  | .cmpLt o => guardOk o.g && pdestOk o.p
  | .cmpLe o => guardOk o.g && pdestOk o.p
  | .cmpLtu o => guardOk o.g && pdestOk o.p
  | .cmpLeu o => guardOk o.g && pdestOk o.p
  | .cmpTst o => guardOk o.g && pdestOk o.p
  | .cmpiEq o => guardOk o.g && pdestOk o.p
  | .cmpiNe o => guardOk o.g && pdestOk o.p
  | .cmpiLt o => guardOk o.g && pdestOk o.p
  | .cmpiLe o => guardOk o.g && pdestOk o.p
  | .cmpiLtu o => guardOk o.g && pdestOk o.p
  | .cmpiLeu o => guardOk o.g && pdestOk o.p
  | .cmpiTst o => guardOk o.g && pdestOk o.p
  | .pand o => guardOk o.g && pdestOk o.p
  | .por o => guardOk o.g && pdestOk o.p
  | .pxor o => guardOk o.g && pdestOk o.p
  | .pnot o => guardOk o.g && pdestOk o.p
  | .pset o => guardOk o.g && pdestOk o.p
  | .pmov o => guardOk o.g && pdestOk o.p
  | .pld o => guardOk o.g && pdestOk o.p
  | .agen o => guardOk o.g
  | .ainc o => guardOk o.g
  | .achk o => guardOk o.g && pdestOk o.p
  | .br o => guardOk o.g
  | .call o => guardOk o.g
  | .ret g => guardOk g
  | .jr o => guardOk o.g
  | .loop o => guardOk o.g && bodyOk o.len
  | .loopi o => guardOk o.g && bodyOk o.len
  | .loops o => guardOk o.g && bodyOk o.len
  | .lbrk o => guardOk o.g
  | .exit g => guardOk g
  | .exitr o => guardOk o.g
  | .yield g => guardOk g
  | .waitp o => guardOk o.g && decide (o.m ≠ 0#16)
  | .nop o => guardOk o.g && (match o.wave with | none => true | some w => waveOk w)
  | .send o => guardOk o.g && steerOk o.stv o.steer && bytesOk o.bytes
  | .sendv o => guardOk o.g && steerOk o.stv o.steer
  | .sendd o => guardOk o.g && steerOk o.stv o.steer && bytesOk o.bytes
  | .req o => guardOk o.g && decide (1 ≤ o.n.toNat) && decide (o.n.toNat ≤ 256)
  | .recv o => guardOk o.g
  | .steert o => guardOk o.g && steerOk o.stv o.steer
  | .reconf o => guardOk o.g && decide (2 ≤ o.n.toNat) && decide (o.n.toNat ≤ 256)
  | .ten o => guardOk o.g
  | .tdis o => guardOk o.g
  | .tpset o => guardOk o.g
  | .tpclr o => guardOk o.g
  | .tqry o => guardOk o.g
  | .fadd o => guardOk o.g
  | .fsub o => guardOk o.g
  | .fmul o => guardOk o.g
  | .fmin o => guardOk o.g
  | .fmax o => guardOk o.g
  | .ffma o => guardOk o.g
  | .fcpys o => guardOk o.g
  | .frcp o => guardOk o.g
  | .frsq o => guardOk o.g
  | .fsqrt o => guardOk o.g
  | .fexp2 o => guardOk o.g
  | .flog2 o => guardOk o.g
  | .fneg o => guardOk o.g
  | .fabs o => guardOk o.g
  | .frnd o => guardOk o.g
  | .fcmpEq o => guardOk o.g && pdestOk o.p
  | .fcmpNe o => guardOk o.g && pdestOk o.p
  | .fcmpLt o => guardOk o.g && pdestOk o.p
  | .fcmpLe o => guardOk o.g && pdestOk o.p
  | .fcmpUn o => guardOk o.g && pdestOk o.p
  | .cvtif o => guardOk o.g
  | .cvtfi o => guardOk o.g
  | .cvtff o => guardOk o.g
  | .cvtf8 o => guardOk o.g
  | .cvt8f o => guardOk o.g
  | .vadd o => guardOk o.g
  | .vsub o => guardOk o.g
  | .vmul o => guardOk o.g
  | .vmad o => guardOk o.g
  | .vmin o => guardOk o.g
  | .vmax o => guardOk o.g
  | .vabsd o => guardOk o.g
  | .vavg o => guardOk o.g
  | .vand o => guardOk o.g
  | .vor o => guardOk o.g
  | .vxor o => guardOk o.g
  | .vandn o => guardOk o.g
  | .vshl o => guardOk o.g
  | .vshr o => guardOk o.g
  | .vsar o => guardOk o.g
  | .vpopc o => guardOk o.g
  | .vfadd o => guardOk o.g
  | .vfsub o => guardOk o.g
  | .vfmul o => guardOk o.g
  | .vffma o => guardOk o.g
  | .vfmin o => guardOk o.g
  | .vfmax o => guardOk o.g
  | .vfexp2 o => guardOk o.g
  | .vfrcp o => guardOk o.g
  | .vcmp o => guardOk o.g && decide (o.cc ≠ 7#3)
  | .vfcmp o => guardOk o.g && decide (o.cc.toNat ≤ 4)
  | .vsel o => guardOk o.g
  | .vbcast o => guardOk o.g
  | .vext o => guardOk o.g && decide (o.lane.toNat < laneCount o.ty)
  | .vins o => guardOk o.g && decide (o.lane.toNat < laneCount o.ty)
  | .vperm o => guardOk o.g
  | .vshuf o => guardOk o.g && shufOk o.ty o.op o.k
  | .vredadd o => guardOk o.g
  | .vredmax o => guardOk o.g
  | .vredmin o => guardOk o.g
  | .vfredadd o => guardOk o.g
  | .vfredmax o => guardOk o.g
  | .vcvt o => guardOk o.g
  | .vplane o => guardOk o.g && planeTy8 o.ty
  | .vunplane o => guardOk o.g && planeTy8 o.ty
  | .vplane16 o => guardOk o.g && planeTy16 o.ty && pairOk o.d && pairOk o.s
  | .vunplane16 o => guardOk o.g && planeTy16 o.ty && pairOk o.d && pairOk o.s
  | .ldb o => guardOk o.g && waveOk o.wave
  | .ldbs o => guardOk o.g && waveOk o.wave
  | .ldh o => guardOk o.g && waveOk o.wave
  | .ldhs o => guardOk o.g && waveOk o.wave
  | .ldw o => guardOk o.g && waveOk o.wave
  | .ldws o => guardOk o.g && waveOk o.wave
  | .ldd o => guardOk o.g && waveOk o.wave
  | .ldv o => guardOk o.g && waveOk o.wave
  | .stb o => guardOk o.g && waveOk o.wave
  | .sth o => guardOk o.g && waveOk o.wave
  | .stw o => guardOk o.g && waveOk o.wave
  | .std o => guardOk o.g && waveOk o.wave
  | .stv o => guardOk o.g && waveOk o.wave
  | .stz o => guardOk o.g && waveOk o.wave
  | .wopenr o => guardOk o.g && decide (o.s.toNat ≤ 1020)
  | .wopenw o => guardOk o.g && decide (o.s.toNat ≤ 1020)
  | .wclose o => guardOk o.g
  | .wclosea g => guardOk g
  | .wqry o => guardOk o.g
  | .lda o => guardOk o.g && loadOrderOk o.order
  | .stl o => guardOk o.g && storeOrderOk o.order && !o.sg
  | .ldx o => guardOk o.g && loadOrderOk o.order
  | .stx o => guardOk o.g && storeOrderOk o.order && !o.sg
  | .aadd o => atomOk o
  | .aand o => atomOk o
  | .aor o => atomOk o
  | .axor o => atomOk o
  | .amin o => atomMinOk o
  | .amax o => atomMinOk o
  | .axchg o => atomOk o
  | .acas o => atomOk o
  | .fence o => guardOk o.g
  | .fencee o => guardOk o.g
  | .gfence o => guardOk o.g
  | .pflush o => guardOk o.g && waveOk o.wave
  | .pinv o => guardOk o.g && waveOk o.wave
  | .pclean o => guardOk o.g && waveOk o.wave
  | .ppref o => guardOk o.g && waveOk o.wave
  | .bpost o => guardOk o.g
  | .bwait o => guardOk o.g && (!o.gseq || decide (o.key = 0#4))
  | .bseq o => guardOk o.g && decide (o.sel ≠ 3#2) && (decide (o.sel = 1#2) || decide (o.key = 0#4))
  | .coll o => guardOk o.g && decide (o.op ≠ 3#2)
  | .oclaim o => guardOk o.g
  | .orelease o => guardOk o.g
  | .oload o => guardOk o.g && heScopeOk o.acq o.scope && (decide (o.wake = 0#10) || decide (18 ≤ o.wake.toNat))
  | .ostore o => guardOk o.g && heScopeOk o.rel o.scope
  | .ostat o => guardOk o.g
  | .ozero o => guardOk o.g
  | .mpair o => guardOk o.g
  | .mclr o => guardOk o.g
  | .mma o => guardOk o.g
  | .mdrain o => guardOk o.g
  | .mstat o => guardOk o.g
  | .mwait o => guardOk o.g && decide (o.m ≠ 0#4)
  | .cpy o => guardOk o.g && heScopeOk (o.acq || o.rel) o.scope
  | .cpyp o => guardOk o.g && heScopeOk (o.acq || o.rel) o.scope
  | .cpyt o => guardOk o.g && heScopeOk (o.acq || o.rel) o.scope
  | .gath o => guardOk o.g && heScopeOk (o.acq || o.rel) o.scope
  | .scat o => guardOk o.g && heScopeOk (o.acq || o.rel) o.scope
  | .cpyr o => guardOk o.g && heScopeOk (o.acq || o.rel) o.scope
  | .cwait o => guardOk o.g && (!o.all || decide (o.s = 0#10))
  | .cqry o => guardOk o.g
  | .lctx o => guardOk o.g
  | .ltload o => guardOk o.g && heScopeOk o.acq o.scope
  | .lwire o => guardOk o.g && heScopeOk o.acq o.scope
  | .lbind o => guardOk o.g && decide (o.sig.toNat % 128 = 0)
  | .lbindClear g => guardOk g
  | .leval o => guardOk o.g && decide (o.sig.toNat % 8 = 0)
  | .lwait o => guardOk o.g && decide (o.m ≠ 0#8)
  | .srd o => guardOk o.g && srdIndexOk o.idx
  | .swr o => guardOk o.g && decide (o.idx = 0x12#8)
  | .trap o => guardOk o.g
  | .evpost o => guardOk o.g
  | .brk o => guardOk o.g
  | .cyc o => guardOk o.g
  | .launch o => guardOk o.g
  | .cfgld o => guardOk o.g
  | .cfgsv o => guardOk o.g
  | .qpop o => guardOk o.g
  | .mmrd o => guardOk o.g
  | .mmwr o => guardOk o.g
  | .ctxctlQuery o => guardOk o.g
  | .ctxctlEnable o => guardOk o.g
  | .ctxctlDisable o => guardOk o.g
  | .ctxctlHalt o => guardOk o.g
  | .ctxctlReset o => guardOk o.g
  | .ctxctlRestore o => guardOk o.g
  | .prtctlCreate o => guardOk o.g
  | .prtctlResize o => guardOk o.g
  | .prtctlDestroy o => guardOk o.g
  | .prtctlParam o => guardOk o.g
  | .prtctlBind o => guardOk o.g
  | .loadReturn _ _ _ _ => true
  | .wtOpenRequest _ => true
  | .winfullTimeout _ _ => true
  | .windowGrant _ _ => true
  | .closeAck _ => true
  | .closeComplete _ => true
  | .homePerform _ => true
  | .omfillReceive _ _ _ => true
  | .mmaComplete _ => true
  | .copyChunk _ _ => true
  | .copyDone _ _ => true
  | .lcbLoadComplete _ _ => true
  | .levalLayer _ => true
  | .resizeComplete _ => true
  | .requeue _ _ => true
  | .resume _ _ => true
  | .kill _ _ => true
  | .commandFailure _ _ _ => true
  | .instantiate _ => true
  | .sourceFire _ _ _ => true
  | .firingRule _ _ _ => true
  | .resourceGrant _ => true
  | .stallWake _ _ => true
  | .retire _ _ => true
  | .endOfStream _ => true
  | .watchdogExpiry _ => true
  | .routeToken _ => true
  | .tokenReceive _ => true
  | .tokenResend _ => true
  | .reqToken _ _ _ _ _ => true
  | .reconfCtrl _ _ _ _ => true
  | .relatch _ _ _ _ => true
  | .dhold _ => true
  | .dfree _ => true
  | .halt _ => true
  | .haltPoint _ => true
  | .convToken _ _ => true
  | .addeToken _ _ => true
  | .muleToken _ _ => true
  | .maxeToken _ _ => true
  | .funcToken _ _ => true
  | .reduToken _ _ => true
  | .steerToken _ _ => true
  | .forkToken _ _ => true
  | .mergeToken _ _ => true
  | .chanToken _ _ => true
  | .tranToken _ _ => true
  | .exdcToken _ _ => true
  | .mportRead _ _ => true
  | .mportWrite _ _ => true
  | .streamDone _ _ => true
  | .mePortFill _ _ => true
  | .soResidueFault _ _ => true
  | .hostLaunch _ _ => true
  | .launchEligible _ _ => true
  | .utundPlace _ _ _ => true
  | .arbitrationPass => true
  | .quantumExpiry _ _ _ => true
  | .imageSave _ _ => true
  | .restore _ _ => true
  | .remoteRequest _ => true
  | .remoteResponse _ _ => true
  | .remtoExpiry _ => true
  | .redirect _ _ _ _ => true
  | .mtlbinv _ _ => true
  | .mtlbinvComplete _ => true
  | .chanBind _ _ => true
  | .pagePull _ _ _ _ _ _ => true
  | .pageInstall _ _ _ _ _ _ => true
  | .repoint _ _ => true
  | .pack _ _ => true
  | .repointTimeout _ _ => true
  | .userDelivery _ _ => true
  | .collDelivery _ _ => true
  | .grant _ _ => true
  | .grantTimeout _ => true
  | .join _ _ => true
  | .leave _ _ => true
  | .repair _ _ => true
  | .group _ _ => true
  | .planeStallTimeout _ => true
  | .laneBeat _ _ _ => true
  | .linkFlit _ _ _ => true
  | .idle _ => true
  | .ack _ _ => true
  | .nak _ _ => true
  | .loss _ _ => true
  | .map _ _ _ => true
  | .mapack _ _ _ => true
  | .ackTimer _ => true
  | .replayTimeout _ => true
  | .lossOfLight _ _ => true
  | .restripeResume _ => true
  | .linkDown _ => true
  | .lanePark _ _ => true
  | .laneUnpark _ _ => true
  | .vbRetest _ _ _ => true
  | .vbRetestForced _ _ _ => true
  | .scrub _ _ _ _ => true
  | .powerWindow _ => true
  | .thermalStop _ _ => true
  | .templimExceeded _ _ => true
  | .recordPost _ => true
  | .powerUp => true
  | .moduleReset => true
  | .firmwareBundle _ => true
  | .attestationRequest _ => true
  | .devid _ => true
  | .hostRmaWrite _ _ _ => true
  | .hostRmaRead _ _ _ => true
  | .hostUnsupported _ => true
  | .dbgctlHalt _ => true
  | .dbgctlResume _ => true
  | .dbgctlStep _ => true
  | .queueCtlWrite _ _ => true
  | .queueTailWrite _ _ => true
  | .logCtlWrite _ _ _ _ => true
  | .bindingWrite _ _ _ => true
  | .omapWrite _ _ _ => true
  | .soflgClear _ _ => true
  | .psplitWrite _ _ => true
  | .registerWrite _ _ => true
  | .powerDown => true
  | .templimRecovered _ _ => true
  | .temperatureSwing _ _ => true
  | .laneRecovery _ _ => true
  | .mportAccessDone _ _ => true
  | .linkTraining _ _ _ => true
  | .chanBindAnswer _ _ _ => true

end Sys2Proof
end

