-- ==== Sys2Proof/Decode.lean ====
section
/-! DEFINITION. The instruction word (R49, R55, R63 to R68): a total decoder that rejects by name, and the
encoder written from the same tables. -/

namespace Sys2Proof

/-- The fields of R49. -/
structure Raw where
  a  : Bool
  op : BitVec 7
  fn : BitVec 3
  g  : BitVec 4
  d  : BitVec 10
  s  : BitVec 10
  t  : BitVec 10
  x  : BitVec 19
  deriving DecidableEq, Repr

/-- One bit. -/
def bit (b : Bool) : BitVec 1 := if b then 1#1 else 0#1

/-- The word of a set of fields (R49). -/
def Raw.pack (r : Raw) : Word :=
  bit r.a ++ r.op ++ r.fn ++ r.g ++ r.d ++ r.s ++ r.t ++ r.x

/-- The fields of a word (R49). -/
def Raw.unpack (w : Word) : Raw :=
  { a := w.extractLsb' 63 1 == 1#1
    op := w.extractLsb' 56 7
    fn := w.extractLsb' 53 3
    g := w.extractLsb' 49 4
    d := w.extractLsb' 39 10
    s := w.extractLsb' 29 10
    t := w.extractLsb' 19 10
    x := w.extractLsb' 0 19 }

/-! Pieces of a field -/

/-- n bits of X from bit lo. -/
def xf (r : Raw) (lo n : Nat) : BitVec n := r.x.extractLsb' lo n
/-- One bit of X. -/
def xb (r : Raw) (k : Nat) : Bool := r.x.extractLsb' k 1 == 1#1
/-- The low bits of D, S and T (R51). -/
def lowD (r : Raw) (n : Nat) : BitVec n := r.d.extractLsb' 0 n
def lowS (r : Raw) (n : Nat) : BitVec n := r.s.extractLsb' 0 n
def lowT (r : Raw) (n : Nat) : BitVec n := r.t.extractLsb' 0 n
/-- The octet that D, S and T name (R51). -/
def octD (r : Raw) : BitVec 7 := r.d.extractLsb' 3 7
def octS (r : Raw) : BitVec 7 := r.s.extractLsb' 3 7
def octT (r : Raw) : BitVec 7 := r.t.extractLsb' 3 7

/-! Codes of R56 and R66, both ways -/

def Width.code : Width → BitVec 3
  | .w64 => 0#3
  | .w32 => 1#3
  | .w16 => 2#3
  | .w8 => 3#3
def Width.ofCode (v : BitVec 3) : Option Width :=
  match v.toNat with
  | 0 => some .w64
  | 1 => some .w32
  | 2 => some .w16
  | 3 => some .w8
  | _ => none
def FTy.code : FTy → BitVec 3
  | .fp16 => 5#3
  | .bf16 => 6#3
  | .fp32 => 7#3
def ftyOf (v : BitVec 3) : Option FTy :=
  match v.toNat with
  | 5 => some .fp16
  | 6 => some .bf16
  | 7 => some .fp32
  | _ => none
def ITy.code : ITy → BitVec 3
  | .int8 => 0#3
  | .int16 => 1#3
  | .int32 => 2#3
  | .uint8 => 3#3
  | .uint16 => 4#3
def ityOf (v : BitVec 3) : Option ITy :=
  match v.toNat with
  | 0 => some .int8
  | 1 => some .int16
  | 2 => some .int32
  | 3 => some .uint8
  | 4 => some .uint16
  | _ => none
def LTy.code : LTy → BitVec 3
  | .int t => t.code
  | .flt t => t.code
def ltyOf (v : BitVec 3) : LTy :=
  match v.toNat with
  | 0 => .int .int8
  | 1 => .int .int16
  | 2 => .int .int32
  | 3 => .int .uint8
  | 4 => .int .uint16
  | 5 => .flt .fp16
  | 6 => .flt .bf16
  | _ => .flt .fp32
def CTy.code : CTy → BitVec 3
  | .int8 => 0#3
  | .int16 => 1#3
  | .int32 => 2#3
  | .uint8 => 3#3
  | .uint16 => 4#3
  | .int64 => 5#3
  | .uint32 => 6#3
  | .uint64 => 7#3
def ctyOf (v : BitVec 3) : CTy :=
  match v.toNat with
  | 0 => .int8
  | 1 => .int16
  | 2 => .int32
  | 3 => .uint8
  | 4 => .uint16
  | 5 => .int64
  | 6 => .uint32
  | _ => .uint64
def Scope.code : Scope → BitVec 3
  | .firing => 0#3
  | .tile => 1#3
  | .quad => 2#3
  | .sector => 3#3
  | .stack => 4#3
  | .device => 5#3
  | .plane => 6#3
  | .system => 7#3
def scopeOf (v : BitVec 3) : Scope :=
  match v.toNat with
  | 0 => .firing
  | 1 => .tile
  | 2 => .quad
  | 3 => .sector
  | 4 => .stack
  | 5 => .device
  | 6 => .plane
  | _ => .system
def Order.code : Order → BitVec 3
  | .rlx => 0#3
  | .acq => 1#3
  | .rel => 2#3
  | .ar => 3#3
  | .sc => 4#3
def orderOf (v : BitVec 3) : Option Order :=
  match v.toNat with
  | 0 => some .rlx
  | 1 => some .acq
  | 2 => some .rel
  | 3 => some .ar
  | 4 => some .sc
  | _ => none
def Size.code : Size → BitVec 2
  | .b => 0#2
  | .h => 1#2
  | .w => 2#2
  | .d => 3#2
def sizeOf (v : BitVec 2) : Size :=
  match v.toNat with
  | 0 => .b
  | 1 => .h
  | 2 => .w
  | _ => .d

/-- The wave fields in X (R55, R58). -/
def waveX (w : Wave) : BitVec 19 := w.seq ++ w.pred ++ w.succ ++ 0#1
def waveOf (r : Raw) : Wave := { seq := xf r 13 6, pred := xf r 7 6, succ := xf r 1 6 }
/-- X of NOP (R62, R64). -/
def nopX : Option Wave → BitVec 19
  | none => 0#19
  | some w => w.seq ++ w.pred ++ w.succ ++ 1#1

/-- The functions of OP 0x00 (R63). -/
def decodeOp00 (r : Raw) : Option Instr :=
  match r.fn.toNat with
  | 0 => (match Width.ofCode (xf r 16 3) with | none => none | some w => some (.add { a := r.a, g := r.g, d := r.d, s := r.s, t := r.t, w := w }))
  | 1 => (match Width.ofCode (xf r 16 3) with | none => none | some w => some (.sub { a := r.a, g := r.g, d := r.d, s := r.s, t := r.t, w := w }))
  | 2 => (match Width.ofCode (xf r 16 3) with | none => none | some w => some (.and { a := r.a, g := r.g, d := r.d, s := r.s, t := r.t, w := w }))
  | 3 => (match Width.ofCode (xf r 16 3) with | none => none | some w => some (.or { a := r.a, g := r.g, d := r.d, s := r.s, t := r.t, w := w }))
  | 4 => (match Width.ofCode (xf r 16 3) with | none => none | some w => some (.xor { a := r.a, g := r.g, d := r.d, s := r.s, t := r.t, w := w }))
  | 5 => (match Width.ofCode (xf r 16 3) with | none => none | some w => some (.andn { a := r.a, g := r.g, d := r.d, s := r.s, t := r.t, w := w }))
  | 6 => (match Width.ofCode (xf r 16 3) with | none => none | some w => some (.orn { a := r.a, g := r.g, d := r.d, s := r.s, t := r.t, w := w }))
  | 7 => (match Width.ofCode (xf r 16 3) with | none => none | some w => some (.xnor { a := r.a, g := r.g, d := r.d, s := r.s, t := r.t, w := w }))
  | _ => none

/-- The functions of OP 0x01 (R63). -/
def decodeOp01 (r : Raw) : Option Instr :=
  match r.fn.toNat with
  | 0 => (match Width.ofCode (xf r 16 3) with | none => none | some w => some (.shl { a := r.a, g := r.g, d := r.d, s := r.s, t := r.t, w := w }))
  | 1 => (match Width.ofCode (xf r 16 3) with | none => none | some w => some (.shr { a := r.a, g := r.g, d := r.d, s := r.s, t := r.t, w := w }))
  | 2 => (match Width.ofCode (xf r 16 3) with | none => none | some w => some (.sar { a := r.a, g := r.g, d := r.d, s := r.s, t := r.t, w := w }))
  | 3 => (match Width.ofCode (xf r 16 3) with | none => none | some w => some (.rol { a := r.a, g := r.g, d := r.d, s := r.s, t := r.t, w := w }))
  | 4 => (match Width.ofCode (xf r 16 3) with | none => none | some w => some (.min { a := r.a, g := r.g, d := r.d, s := r.s, t := r.t, w := w }))
  | 5 => (match Width.ofCode (xf r 16 3) with | none => none | some w => some (.max { a := r.a, g := r.g, d := r.d, s := r.s, t := r.t, w := w }))
  | 6 => (match Width.ofCode (xf r 16 3) with | none => none | some w => some (.minu { a := r.a, g := r.g, d := r.d, s := r.s, t := r.t, w := w }))
  | 7 => (match Width.ofCode (xf r 16 3) with | none => none | some w => some (.maxu { a := r.a, g := r.g, d := r.d, s := r.s, t := r.t, w := w }))
  | _ => none

/-- The functions of OP 0x02 (R63). -/
def decodeOp02 (r : Raw) : Option Instr :=
  match r.fn.toNat with
  | 0 => (match Width.ofCode (xf r 16 3) with | none => none | some w => some (.mul { a := r.a, g := r.g, d := r.d, s := r.s, t := r.t, w := w }))
  | 1 => (match Width.ofCode (xf r 16 3) with | none => none | some w => some (.mulh { a := r.a, g := r.g, d := r.d, s := r.s, t := r.t, w := w }))
  | 2 => (match Width.ofCode (xf r 16 3) with | none => none | some w => some (.mulhu { a := r.a, g := r.g, d := r.d, s := r.s, t := r.t, w := w }))
  | 3 => (match Width.ofCode (xf r 16 3) with | none => none | some w => some (.mad { a := r.a, g := r.g, d := r.d, s := r.s, t := r.t, w := w }))
  | 4 => (match Width.ofCode (xf r 16 3) with | none => none | some w => some (.divu { a := r.a, g := r.g, d := r.d, s := r.s, t := r.t, w := w }))
  | 5 => (match Width.ofCode (xf r 16 3) with | none => none | some w => some (.remu { a := r.a, g := r.g, d := r.d, s := r.s, t := r.t, w := w }))
  | 6 => (match Width.ofCode (xf r 16 3) with | none => none | some w => some (.absd { a := r.a, g := r.g, d := r.d, s := r.s, t := r.t, w := w }))
  | _ => none

/-- The functions of OP 0x03 (R63). -/
def decodeOp03 (r : Raw) : Option Instr :=
  match r.fn.toNat with
  | 0 => (match Width.ofCode (xf r 16 3) with | none => none | some w => some (.mov { a := r.a, g := r.g, d := r.d, s := r.s, w := w }))
  | 1 => (match Width.ofCode (xf r 16 3) with | none => none | some w => some (.neg { a := r.a, g := r.g, d := r.d, s := r.s, w := w }))
  | 2 => (match Width.ofCode (xf r 16 3) with | none => none | some w => some (.not { a := r.a, g := r.g, d := r.d, s := r.s, w := w }))
  | 3 => (match Width.ofCode (xf r 16 3) with | none => none | some w => some (.abs { a := r.a, g := r.g, d := r.d, s := r.s, w := w }))
  | 4 => (match Width.ofCode (xf r 16 3) with | none => none | some w => some (.clz { a := r.a, g := r.g, d := r.d, s := r.s, w := w }))
  | 5 => (match Width.ofCode (xf r 16 3) with | none => none | some w => some (.ctz { a := r.a, g := r.g, d := r.d, s := r.s, w := w }))
  | 6 => (match Width.ofCode (xf r 16 3) with | none => none | some w => some (.popc { a := r.a, g := r.g, d := r.d, s := r.s, w := w }))
  | 7 => (match Width.ofCode (xf r 16 3) with | none => none | some w => some (.brev { a := r.a, g := r.g, d := r.d, s := r.s, w := w }))
  | _ => none

/-- The functions of OP 0x04 (R63). -/
def decodeOp04 (r : Raw) : Option Instr :=
  match r.fn.toNat with
  | 0 => some (.addi { a := r.a, g := r.g, d := r.d, s := r.s, imm := r.x })
  | 1 => some (.andi { a := r.a, g := r.g, d := r.d, s := r.s, imm := r.x })
  | 2 => some (.ori { a := r.a, g := r.g, d := r.d, s := r.s, imm := r.x })
  | 3 => some (.xori { a := r.a, g := r.g, d := r.d, s := r.s, imm := r.x })
  | 4 => some (.shli { a := r.a, g := r.g, d := r.d, s := r.s, imm := r.x })
  | 5 => some (.shri { a := r.a, g := r.g, d := r.d, s := r.s, imm := r.x })
  | 6 => some (.sari { a := r.a, g := r.g, d := r.d, s := r.s, imm := r.x })
  | 7 => some (.muli { a := r.a, g := r.g, d := r.d, s := r.s, imm := r.x })
  | _ => none

/-- The functions of OP 0x05 (R63). -/
def decodeOp05 (r : Raw) : Option Instr :=
  match r.fn.toNat with
  | 0 => some (.li { a := r.a, g := r.g, d := r.d, imm := r.t ++ r.x })
  | 1 => some (.lui { a := r.a, g := r.g, d := r.d, imm := r.t ++ r.x })
  | 2 => some (.ltop { a := r.a, g := r.g, d := r.d, imm := r.t ++ r.x })
  | _ => none

/-- The functions of OP 0x06 (R63). -/
def decodeOp06 (r : Raw) : Option Instr :=
  match r.fn.toNat with
  | 0 => some (.bfx { a := r.a, g := r.g, d := r.d, s := r.s, pos := xf r 6 6, len1 := xf r 0 6 })
  | 1 => some (.bfxs { a := r.a, g := r.g, d := r.d, s := r.s, pos := xf r 6 6, len1 := xf r 0 6 })
  | 2 => some (.bfi { a := r.a, g := r.g, d := r.d, s := r.s, t := r.t, pos := xf r 6 6, len1 := xf r 0 6 })
  | 3 => some (.sel { a := r.a, g := r.g, d := r.d, s := r.s, t := r.t, p := xf r 0 3 })
  | _ => none

/-- The functions of OP 0x07 (R63). -/
def decodeOp07 (r : Raw) : Option Instr :=
  match r.fn.toNat with
  | 0 => (match Width.ofCode (xf r 16 3) with | none => none | some w => some (.cmpEq { a := r.a, g := r.g, p := lowD r 3, s := r.s, t := r.t, w := w }))
  | 1 => (match Width.ofCode (xf r 16 3) with | none => none | some w => some (.cmpNe { a := r.a, g := r.g, p := lowD r 3, s := r.s, t := r.t, w := w }))
  | 2 => (match Width.ofCode (xf r 16 3) with | none => none | some w => some (.cmpLt { a := r.a, g := r.g, p := lowD r 3, s := r.s, t := r.t, w := w }))
  | 3 => (match Width.ofCode (xf r 16 3) with | none => none | some w => some (.cmpLe { a := r.a, g := r.g, p := lowD r 3, s := r.s, t := r.t, w := w }))
  | 4 => (match Width.ofCode (xf r 16 3) with | none => none | some w => some (.cmpLtu { a := r.a, g := r.g, p := lowD r 3, s := r.s, t := r.t, w := w }))
  | 5 => (match Width.ofCode (xf r 16 3) with | none => none | some w => some (.cmpLeu { a := r.a, g := r.g, p := lowD r 3, s := r.s, t := r.t, w := w }))
  | 6 => (match Width.ofCode (xf r 16 3) with | none => none | some w => some (.cmpTst { a := r.a, g := r.g, p := lowD r 3, s := r.s, t := r.t, w := w }))
  | _ => none

/-- The functions of OP 0x08 (R63). -/
def decodeOp08 (r : Raw) : Option Instr :=
  match r.fn.toNat with
  | 0 => some (.cmpiEq { a := r.a, g := r.g, p := lowD r 3, s := r.s, imm := r.x })
  | 1 => some (.cmpiNe { a := r.a, g := r.g, p := lowD r 3, s := r.s, imm := r.x })
  | 2 => some (.cmpiLt { a := r.a, g := r.g, p := lowD r 3, s := r.s, imm := r.x })
  | 3 => some (.cmpiLe { a := r.a, g := r.g, p := lowD r 3, s := r.s, imm := r.x })
  | 4 => some (.cmpiLtu { a := r.a, g := r.g, p := lowD r 3, s := r.s, imm := r.x })
  | 5 => some (.cmpiLeu { a := r.a, g := r.g, p := lowD r 3, s := r.s, imm := r.x })
  | 6 => some (.cmpiTst { a := r.a, g := r.g, p := lowD r 3, s := r.s, imm := r.x })
  | _ => none

/-- The functions of OP 0x09 (R63). -/
def decodeOp09 (r : Raw) : Option Instr :=
  match r.fn.toNat with
  | 0 => some (.pand { a := r.a, g := r.g, p := lowD r 3, s := lowS r 3, t := lowT r 3 })
  | 1 => some (.por { a := r.a, g := r.g, p := lowD r 3, s := lowS r 3, t := lowT r 3 })
  | 2 => some (.pxor { a := r.a, g := r.g, p := lowD r 3, s := lowS r 3, t := lowT r 3 })
  | 3 => some (.pnot { a := r.a, g := r.g, p := lowD r 3, s := lowS r 3 })
  | 4 => some (.pset { a := r.a, g := r.g, p := lowD r 3, v := xb r 0 })
  | 5 => some (.pmov { a := r.a, g := r.g, p := lowD r 3, s := lowS r 3 })
  | 6 => some (.pld { a := r.a, g := r.g, p := lowD r 3, s := r.s, bit := xf r 0 6 })
  | _ => none

/-- The functions of OP 0x0a (R63). -/
def decodeOp0A (r : Raw) : Option Instr :=
  match r.fn.toNat with
  | 0 => some (.agen { g := r.g, d := r.d, s := r.s, q := octT r, m1 := xf r 13 3 })
  | 1 => some (.ainc { g := r.g, d := r.d, q := octT r, k := xf r 13 3 })
  | 2 => some (.achk { g := r.g, p := lowD r 3, s := r.s, q := octT r, m1 := xf r 13 3 })
  | _ => none

/-- The functions of OP 0x10 (R63). -/
def decodeOp10 (r : Raw) : Option Instr :=
  match r.fn.toNat with
  | 0 => some (.br { g := r.g, off := r.t ++ r.x })
  | _ => none

/-- The functions of OP 0x11 (R63). -/
def decodeOp11 (r : Raw) : Option Instr :=
  match r.fn.toNat with
  | 0 => some (.call { g := r.g, off := r.t ++ r.x })
  | 1 => some (.ret r.g)
  | 2 => some (.jr { g := r.g, s := r.s })
  | _ => none

/-- The functions of OP 0x12 (R63). -/
def decodeOp12 (r : Raw) : Option Instr :=
  match r.fn.toNat with
  | 0 => some (.loop { g := r.g, lc := lowD r 2, s := r.s, len := xf r 0 12 })
  | 1 => some (.loopi { g := r.g, lc := lowD r 2, count := r.s ++ r.t, len := xf r 0 12 })
  | 2 => some (.loops { g := r.g, lc := lowD r 2, s := r.s, dim := lowT r 3, len := xf r 0 12 })
  | 3 => some (.lbrk { g := r.g, lc := lowD r 2 })
  | _ => none

/-- The functions of OP 0x13 (R63). -/
def decodeOp13 (r : Raw) : Option Instr :=
  match r.fn.toNat with
  | 0 => some (.exit r.g)
  | 1 => some (.exitr { g := r.g, s := r.s })
  | 2 => some (.yield r.g)
  | 3 => some (.waitp { g := r.g, m := xf r 0 16 })
  | 4 => some (.nop { g := r.g, wave := if xb r 0 then some (waveOf r) else none })
  | _ => none

/-- The functions of OP 0x14 (R63). -/
def decodeOp14 (r : Raw) : Option Instr :=
  match r.fn.toNat with
  | 0 => some (.send { g := r.g, port := lowD r 3, q := octS r, steer := xf r 11 3, stv := xb r 10, last := xb r 9, pri := xf r 7 2, bytes := xf r 0 7 })
  | 1 => some (.sendv { g := r.g, port := lowD r 3, q := octS r, t := r.t, steer := xf r 11 3, stv := xb r 10, last := xb r 9, pri := xf r 7 2 })
  | 2 => some (.sendd { g := r.g, q := octS r, t := r.t, steer := xf r 11 3, stv := xb r 10, last := xb r 9, bytes := xf r 0 7 })
  | 3 => some (.req { g := r.g, port := lowD r 3, n := xf r 0 9 })
  | 4 => some (.recv { g := r.g, q := octD r, port := lowS r 3 })
  | 5 => some (.steert { g := r.g, port := lowD r 3, stv := xb r 10, steer := xf r 11 3 })
  | 6 => some (.reconf { g := r.g, port := lowD r 3, n := xf r 0 9 })
  | _ => none

/-- The functions of OP 0x15 (R63). -/
def decodeOp15 (r : Raw) : Option Instr :=
  match r.fn.toNat with
  | 0 => some (.ten { g := r.g, m := xf r 0 16 })
  | 1 => some (.tdis { g := r.g, m := xf r 0 16 })
  | 2 => some (.tpset { g := r.g, m := xf r 0 16 })
  | 3 => some (.tpclr { g := r.g, m := xf r 0 16 })
  | 4 => some (.tqry { g := r.g, d := r.d })
  | _ => none

/-- The functions of OP 0x18 (R63). -/
def decodeOp18 (r : Raw) : Option Instr :=
  match r.fn.toNat with
  | 0 => (match ftyOf (xf r 16 3) with | none => none | some ty => some (.fadd { g := r.g, d := r.d, s := r.s, t := r.t, ty := ty }))
  | 1 => (match ftyOf (xf r 16 3) with | none => none | some ty => some (.fsub { g := r.g, d := r.d, s := r.s, t := r.t, ty := ty }))
  | 2 => (match ftyOf (xf r 16 3) with | none => none | some ty => some (.fmul { g := r.g, d := r.d, s := r.s, t := r.t, ty := ty }))
  | 3 => (match ftyOf (xf r 16 3) with | none => none | some ty => some (.fmin { g := r.g, d := r.d, s := r.s, t := r.t, ty := ty }))
  | 4 => (match ftyOf (xf r 16 3) with | none => none | some ty => some (.fmax { g := r.g, d := r.d, s := r.s, t := r.t, ty := ty }))
  | 5 => (match ftyOf (xf r 16 3) with | none => none | some ty => some (.ffma { g := r.g, d := r.d, s := r.s, t := r.t, ty := ty }))
  | 6 => (match ftyOf (xf r 16 3) with | none => none | some ty => some (.fcpys { g := r.g, d := r.d, s := r.s, t := r.t, ty := ty }))
  | _ => none

/-- The functions of OP 0x19 (R63). -/
def decodeOp19 (r : Raw) : Option Instr :=
  match r.fn.toNat with
  | 0 => (match ftyOf (xf r 16 3) with | none => none | some ty => some (.frcp { g := r.g, d := r.d, s := r.s, ty := ty }))
  | 1 => (match ftyOf (xf r 16 3) with | none => none | some ty => some (.frsq { g := r.g, d := r.d, s := r.s, ty := ty }))
  | 2 => (match ftyOf (xf r 16 3) with | none => none | some ty => some (.fsqrt { g := r.g, d := r.d, s := r.s, ty := ty }))
  | 3 => (match ftyOf (xf r 16 3) with | none => none | some ty => some (.fexp2 { g := r.g, d := r.d, s := r.s, ty := ty }))
  | 4 => (match ftyOf (xf r 16 3) with | none => none | some ty => some (.flog2 { g := r.g, d := r.d, s := r.s, ty := ty }))
  | 5 => (match ftyOf (xf r 16 3) with | none => none | some ty => some (.fneg { g := r.g, d := r.d, s := r.s, ty := ty }))
  | 6 => (match ftyOf (xf r 16 3) with | none => none | some ty => some (.fabs { g := r.g, d := r.d, s := r.s, ty := ty }))
  | 7 => (match ftyOf (xf r 16 3) with | none => none | some ty => some (.frnd { g := r.g, d := r.d, s := r.s, ty := ty }))
  | _ => none

/-- The functions of OP 0x1a (R63). -/
def decodeOp1A (r : Raw) : Option Instr :=
  match r.fn.toNat with
  | 0 => (match ftyOf (xf r 16 3) with | none => none | some ty => some (.fcmpEq { g := r.g, p := lowD r 3, s := r.s, t := r.t, ty := ty }))
  | 1 => (match ftyOf (xf r 16 3) with | none => none | some ty => some (.fcmpNe { g := r.g, p := lowD r 3, s := r.s, t := r.t, ty := ty }))
  | 2 => (match ftyOf (xf r 16 3) with | none => none | some ty => some (.fcmpLt { g := r.g, p := lowD r 3, s := r.s, t := r.t, ty := ty }))
  | 3 => (match ftyOf (xf r 16 3) with | none => none | some ty => some (.fcmpLe { g := r.g, p := lowD r 3, s := r.s, t := r.t, ty := ty }))
  | 4 => (match ftyOf (xf r 16 3) with | none => none | some ty => some (.fcmpUn { g := r.g, p := lowD r 3, s := r.s, t := r.t, ty := ty }))
  | _ => none

/-- The functions of OP 0x1b (R63). -/
def decodeOp1B (r : Raw) : Option Instr :=
  match r.fn.toNat with
  | 0 => (match ftyOf (xf r 16 3) with | none => none | some ty => some (.cvtif { g := r.g, d := r.d, s := r.s, fty := ty, ity := ctyOf (xf r 13 3) }))
  | 1 => (match ftyOf (xf r 16 3) with | none => none | some ty => some (.cvtfi { g := r.g, d := r.d, s := r.s, fty := ty, ity := ctyOf (xf r 13 3) }))
  | 2 => (match ftyOf (xf r 16 3) with | none => none | some ty => match ftyOf (xf r 13 3) with | none => none | some src => some (.cvtff { g := r.g, d := r.d, s := r.s, tgt := ty, src := src }))
  | 3 => (match ftyOf (xf r 16 3) with | none => none | some ty => some (.cvtf8 { g := r.g, d := r.d, s := r.s, fty := ty, e5m2 := xb r 13 }))
  | 4 => (match ftyOf (xf r 16 3) with | none => none | some ty => some (.cvt8f { g := r.g, d := r.d, s := r.s, fty := ty, e5m2 := xb r 13 }))
  | _ => none

/-- The functions of OP 0x20 (R63). -/
def decodeOp20 (r : Raw) : Option Instr :=
  match r.fn.toNat with
  | 0 => (match ityOf (xf r 16 3) with | none => none | some ty => some (.vadd { g := r.g, d := octD r, s := octS r, t := octT r, ty := ty, sat := xb r 15 }))
  | 1 => (match ityOf (xf r 16 3) with | none => none | some ty => some (.vsub { g := r.g, d := octD r, s := octS r, t := octT r, ty := ty, sat := xb r 15 }))
  | 2 => (match ityOf (xf r 16 3) with | none => none | some ty => some (.vmul { g := r.g, d := octD r, s := octS r, t := octT r, ty := ty, sat := xb r 15 }))
  | 3 => (match ityOf (xf r 16 3) with | none => none | some ty => some (.vmad { g := r.g, d := octD r, s := octS r, t := octT r, ty := ty, sat := xb r 15 }))
  | 4 => (match ityOf (xf r 16 3) with | none => none | some ty => some (.vmin { g := r.g, d := octD r, s := octS r, t := octT r, ty := ty, sat := xb r 15 }))
  | 5 => (match ityOf (xf r 16 3) with | none => none | some ty => some (.vmax { g := r.g, d := octD r, s := octS r, t := octT r, ty := ty, sat := xb r 15 }))
  | 6 => (match ityOf (xf r 16 3) with | none => none | some ty => some (.vabsd { g := r.g, d := octD r, s := octS r, t := octT r, ty := ty, sat := xb r 15 }))
  | 7 => (match ityOf (xf r 16 3) with | none => none | some ty => some (.vavg { g := r.g, d := octD r, s := octS r, t := octT r, ty := ty, sat := xb r 15 }))
  | _ => none

/-- The functions of OP 0x21 (R63). -/
def decodeOp21 (r : Raw) : Option Instr :=
  match r.fn.toNat with
  | 0 => (match ityOf (xf r 16 3) with | none => none | some ty => some (.vand { g := r.g, d := octD r, s := octS r, t := octT r, ty := ty }))
  | 1 => (match ityOf (xf r 16 3) with | none => none | some ty => some (.vor { g := r.g, d := octD r, s := octS r, t := octT r, ty := ty }))
  | 2 => (match ityOf (xf r 16 3) with | none => none | some ty => some (.vxor { g := r.g, d := octD r, s := octS r, t := octT r, ty := ty }))
  | 3 => (match ityOf (xf r 16 3) with | none => none | some ty => some (.vandn { g := r.g, d := octD r, s := octS r, t := octT r, ty := ty }))
  | 4 => (match ityOf (xf r 16 3) with | none => none | some ty => some (.vshl { g := r.g, d := octD r, s := octS r, t := octT r, ty := ty }))
  | 5 => (match ityOf (xf r 16 3) with | none => none | some ty => some (.vshr { g := r.g, d := octD r, s := octS r, t := octT r, ty := ty }))
  | 6 => (match ityOf (xf r 16 3) with | none => none | some ty => some (.vsar { g := r.g, d := octD r, s := octS r, t := octT r, ty := ty }))
  | 7 => (match ityOf (xf r 16 3) with | none => none | some ty => some (.vpopc { g := r.g, d := octD r, s := octS r, ty := ty }))
  | _ => none

/-- The functions of OP 0x22 (R63). -/
def decodeOp22 (r : Raw) : Option Instr :=
  match r.fn.toNat with
  | 0 => (match ftyOf (xf r 16 3) with | none => none | some ty => some (.vfadd { g := r.g, d := octD r, s := octS r, t := octT r, ty := ty }))
  | 1 => (match ftyOf (xf r 16 3) with | none => none | some ty => some (.vfsub { g := r.g, d := octD r, s := octS r, t := octT r, ty := ty }))
  | 2 => (match ftyOf (xf r 16 3) with | none => none | some ty => some (.vfmul { g := r.g, d := octD r, s := octS r, t := octT r, ty := ty }))
  | 3 => (match ftyOf (xf r 16 3) with | none => none | some ty => some (.vffma { g := r.g, d := octD r, s := octS r, t := octT r, ty := ty }))
  | 4 => (match ftyOf (xf r 16 3) with | none => none | some ty => some (.vfmin { g := r.g, d := octD r, s := octS r, t := octT r, ty := ty }))
  | 5 => (match ftyOf (xf r 16 3) with | none => none | some ty => some (.vfmax { g := r.g, d := octD r, s := octS r, t := octT r, ty := ty }))
  | 6 => (match ftyOf (xf r 16 3) with | none => none | some ty => some (.vfexp2 { g := r.g, d := octD r, s := octS r, ty := ty }))
  | 7 => (match ftyOf (xf r 16 3) with | none => none | some ty => some (.vfrcp { g := r.g, d := octD r, s := octS r, ty := ty }))
  | _ => none

/-- The functions of OP 0x23 (R63). -/
def decodeOp23 (r : Raw) : Option Instr :=
  match r.fn.toNat with
  | 0 => (match ityOf (xf r 16 3) with | none => none | some ty => some (.vcmp { g := r.g, d := octD r, s := octS r, t := octT r, ty := ty, cc := xf r 12 3 }))
  | 1 => (match ftyOf (xf r 16 3) with | none => none | some ty => some (.vfcmp { g := r.g, d := octD r, s := octS r, t := octT r, ty := ty, cc := xf r 12 3 }))
  | 2 => some (.vsel { g := r.g, d := octD r, s := octS r, t := octT r, ty := ltyOf (xf r 16 3), m := xf r 0 7 })
  | 3 => some (.vbcast { g := r.g, d := octD r, s := r.s, ty := ltyOf (xf r 16 3) })
  | 4 => some (.vext { g := r.g, d := r.d, s := octS r, ty := ltyOf (xf r 16 3), lane := xf r 0 6 })
  | 5 => some (.vins { g := r.g, d := octD r, s := r.s, ty := ltyOf (xf r 16 3), lane := xf r 0 6 })
  | _ => none

/-- The functions of OP 0x24 (R63). -/
def decodeOp24 (r : Raw) : Option Instr :=
  match r.fn.toNat with
  | 0 => some (.vperm { g := r.g, d := octD r, s := octS r, t := octT r, ty := ltyOf (xf r 16 3) })
  | 1 => some (.vshuf { g := r.g, d := octD r, s := octS r, ty := ltyOf (xf r 16 3), op := xf r 12 3, k := xf r 0 6 })
  | 2 => (match ityOf (xf r 16 3) with | none => none | some ty => some (.vredadd { g := r.g, d := octD r, s := octS r, ty := ty }))
  | 3 => (match ityOf (xf r 16 3) with | none => none | some ty => some (.vredmax { g := r.g, d := octD r, s := octS r, ty := ty }))
  | 4 => (match ityOf (xf r 16 3) with | none => none | some ty => some (.vredmin { g := r.g, d := octD r, s := octS r, ty := ty }))
  | 5 => (match ftyOf (xf r 16 3) with | none => none | some ty => some (.vfredadd { g := r.g, d := octD r, s := octS r, ty := ty }))
  | 6 => (match ftyOf (xf r 16 3) with | none => none | some ty => some (.vfredmax { g := r.g, d := octD r, s := octS r, ty := ty }))
  | 7 => some (.vcvt { g := r.g, d := octD r, s := octS r, src := ltyOf (xf r 16 3), tgt := ltyOf (xf r 0 3), sat := xb r 15 })
  | _ => none

/-- The functions of OP 0x25 (R63). -/
def decodeOp25 (r : Raw) : Option Instr :=
  match r.fn.toNat with
  | 0 => (match ityOf (xf r 16 3) with | none => none | some ty => some (.vplane { g := r.g, d := octD r, s := octS r, ty := ty }))
  | 1 => (match ityOf (xf r 16 3) with | none => none | some ty => some (.vunplane { g := r.g, d := octD r, s := octS r, ty := ty }))
  | 2 => (match ityOf (xf r 16 3) with | none => none | some ty => some (.vplane16 { g := r.g, d := octD r, s := octS r, ty := ty }))
  | 3 => (match ityOf (xf r 16 3) with | none => none | some ty => some (.vunplane16 { g := r.g, d := octD r, s := octS r, ty := ty }))
  | _ => none

/-- The functions of OP 0x28 (R63). -/
def decodeOp28 (r : Raw) : Option Instr :=
  match r.fn.toNat with
  | 0 => some (.ldb { g := r.g, d := r.d, s := r.s, off := r.t, wave := waveOf r })
  | 1 => some (.ldbs { g := r.g, d := r.d, s := r.s, off := r.t, wave := waveOf r })
  | 2 => some (.ldh { g := r.g, d := r.d, s := r.s, off := r.t, wave := waveOf r })
  | 3 => some (.ldhs { g := r.g, d := r.d, s := r.s, off := r.t, wave := waveOf r })
  | 4 => some (.ldw { g := r.g, d := r.d, s := r.s, off := r.t, wave := waveOf r })
  | 5 => some (.ldws { g := r.g, d := r.d, s := r.s, off := r.t, wave := waveOf r })
  | 6 => some (.ldd { g := r.g, d := r.d, s := r.s, off := r.t, wave := waveOf r })
  | 7 => some (.ldv { g := r.g, d := octD r, s := r.s, off := r.t, wave := waveOf r })
  | _ => none

/-- The functions of OP 0x29 (R63). -/
def decodeOp29 (r : Raw) : Option Instr :=
  match r.fn.toNat with
  | 0 => some (.stb { g := r.g, d := r.d, s := r.s, off := r.t, wave := waveOf r })
  | 1 => some (.sth { g := r.g, d := r.d, s := r.s, off := r.t, wave := waveOf r })
  | 2 => some (.stw { g := r.g, d := r.d, s := r.s, off := r.t, wave := waveOf r })
  | 3 => some (.std { g := r.g, d := r.d, s := r.s, off := r.t, wave := waveOf r })
  | 4 => some (.stv { g := r.g, d := octD r, s := r.s, off := r.t, wave := waveOf r })
  | 5 => some (.stz { g := r.g, s := r.s, off := r.t, wave := waveOf r })
  | _ => none

/-- The functions of OP 0x2a (R63). -/
def decodeOp2A (r : Raw) : Option Instr :=
  match r.fn.toNat with
  | 0 => some (.wopenr { g := r.g, win := lowD r 3, s := r.s })
  | 1 => some (.wopenw { g := r.g, win := lowD r 3, s := r.s })
  | 2 => some (.wclose { g := r.g, win := lowD r 3 })
  | 3 => some (.wclosea r.g)
  | 4 => some (.wqry { g := r.g, d := r.d, s := r.s })
  | _ => none

/-- The functions of OP 0x2b (R63). -/
def decodeOp2B (r : Raw) : Option Instr :=
  match r.fn.toNat with
  | 0 => (match orderOf (xf r 13 3) with | none => none | some ord => some (.lda { g := r.g, d := r.d, s := r.s, scope := scopeOf (xf r 16 3), order := ord, size := sizeOf (xf r 11 2), sg := xb r 10, off := xf r 0 10 }))
  | 1 => (match orderOf (xf r 13 3) with | none => none | some ord => some (.stl { g := r.g, d := r.d, s := r.s, scope := scopeOf (xf r 16 3), order := ord, size := sizeOf (xf r 11 2), sg := xb r 10, off := xf r 0 10 }))
  | 2 => (match orderOf (xf r 13 3) with | none => none | some ord => some (.ldx { g := r.g, d := r.d, s := r.s, scope := scopeOf (xf r 16 3), order := ord, size := sizeOf (xf r 11 2), sg := xb r 10, off := xf r 0 10 }))
  | 3 => (match orderOf (xf r 13 3) with | none => none | some ord => some (.stx { g := r.g, d := r.d, s := r.s, t := r.t, scope := scopeOf (xf r 16 3), order := ord, size := sizeOf (xf r 11 2), sg := xb r 10, off := xf r 0 10 }))
  | _ => none

/-- The functions of OP 0x2c (R63). -/
def decodeOp2C (r : Raw) : Option Instr :=
  match r.fn.toNat with
  | 0 => (match orderOf (xf r 13 3) with | none => none | some ord => some (.aadd { g := r.g, d := r.d, s := r.s, t := r.t, scope := scopeOf (xf r 16 3), order := ord, size := sizeOf (xf r 11 2), sg := xb r 10, off := xf r 0 10 }))
  | 1 => (match orderOf (xf r 13 3) with | none => none | some ord => some (.aand { g := r.g, d := r.d, s := r.s, t := r.t, scope := scopeOf (xf r 16 3), order := ord, size := sizeOf (xf r 11 2), sg := xb r 10, off := xf r 0 10 }))
  | 2 => (match orderOf (xf r 13 3) with | none => none | some ord => some (.aor { g := r.g, d := r.d, s := r.s, t := r.t, scope := scopeOf (xf r 16 3), order := ord, size := sizeOf (xf r 11 2), sg := xb r 10, off := xf r 0 10 }))
  | 3 => (match orderOf (xf r 13 3) with | none => none | some ord => some (.axor { g := r.g, d := r.d, s := r.s, t := r.t, scope := scopeOf (xf r 16 3), order := ord, size := sizeOf (xf r 11 2), sg := xb r 10, off := xf r 0 10 }))
  | 4 => (match orderOf (xf r 13 3) with | none => none | some ord => some (.amin { g := r.g, d := r.d, s := r.s, t := r.t, scope := scopeOf (xf r 16 3), order := ord, size := sizeOf (xf r 11 2), sg := xb r 10, off := xf r 0 10 }))
  | 5 => (match orderOf (xf r 13 3) with | none => none | some ord => some (.amax { g := r.g, d := r.d, s := r.s, t := r.t, scope := scopeOf (xf r 16 3), order := ord, size := sizeOf (xf r 11 2), sg := xb r 10, off := xf r 0 10 }))
  | 6 => (match orderOf (xf r 13 3) with | none => none | some ord => some (.axchg { g := r.g, d := r.d, s := r.s, t := r.t, scope := scopeOf (xf r 16 3), order := ord, size := sizeOf (xf r 11 2), sg := xb r 10, off := xf r 0 10 }))
  | 7 => (match orderOf (xf r 13 3) with | none => none | some ord => some (.acas { g := r.g, d := r.d, s := r.s, t := r.t, scope := scopeOf (xf r 16 3), order := ord, size := sizeOf (xf r 11 2), sg := xb r 10, off := xf r 0 10 }))
  | _ => none

/-- The functions of OP 0x2d (R63). -/
def decodeOp2D (r : Raw) : Option Instr :=
  match r.fn.toNat with
  | 0 => some (.fence { g := r.g, acq := xb r 18, rel := xb r 17, scope := scopeOf (xf r 14 3) })
  | 1 => some (.fencee { g := r.g, acq := xb r 18, rel := xb r 17, scope := scopeOf (xf r 14 3) })
  | 2 => some (.gfence { g := r.g, acq := xb r 18, rel := xb r 17, scope := scopeOf (xf r 14 3) })
  | _ => none

/-- The functions of OP 0x2e (R63). -/
def decodeOp2E (r : Raw) : Option Instr :=
  match r.fn.toNat with
  | 0 => some (.pflush { g := r.g, s := r.s, off := r.t, wave := waveOf r })
  | 1 => some (.pinv { g := r.g, s := r.s, off := r.t, wave := waveOf r })
  | 2 => some (.pclean { g := r.g, s := r.s, off := r.t, wave := waveOf r })
  | 3 => some (.ppref { g := r.g, s := r.s, off := r.t, wave := waveOf r })
  | _ => none

/-- The functions of OP 0x30 (R63). -/
def decodeOp30 (r : Raw) : Option Instr :=
  match r.fn.toNat with
  | 0 => some (.oclaim { g := r.g, o := lowD r 4 })
  | 1 => some (.orelease { g := r.g, o := lowD r 4 })
  | 2 => some (.oload { g := r.g, o := lowD r 4, q := octS r, t := r.t, acq := xb r 18, scope := scopeOf (xf r 14 3), wake := xf r 4 10, bit := xf r 0 4 })
  | 3 => some (.ostore { g := r.g, o := lowD r 4, q := octS r, t := r.t, rel := xb r 17, scope := scopeOf (xf r 14 3) })
  | 4 => some (.ostat { g := r.g, d := r.d, o := lowS r 4 })
  | 5 => some (.ozero { g := r.g, o := lowD r 4, p1 := xf r 0 4 })
  | _ => none

/-- The functions of OP 0x31 (R63). -/
def decodeOp31 (r : Raw) : Option Instr :=
  match r.fn.toNat with
  | 0 => some (.mpair { g := r.g, v := xf r 0 11 })
  | 1 => some (.mclr { g := r.g, acc := lowD r 2 })
  | 2 => some (.mma { g := r.g, acc := lowD r 2, oa := lowS r 4, ob := lowT r 4 })
  | 3 => some (.mdrain { g := r.g, acc := lowD r 2, route := xf r 11 3, last := xb r 10, rows1 := xf r 4 6 })
  | 4 => some (.mstat { g := r.g, d := r.d })
  | 5 => some (.mwait { g := r.g, m := xf r 0 4 })
  | _ => none

/-- The functions of OP 0x32 (R63). -/
def decodeOp32 (r : Raw) : Option Instr :=
  match r.fn.toNat with
  | 0 => some (.cpy { g := r.g, d := r.d, q := octS r, acq := xb r 18, rel := xb r 17, scope := scopeOf (xf r 14 3) })
  | 1 => some (.cpyp { g := r.g, d := r.d, q := octS r, acq := xb r 18, rel := xb r 17, scope := scopeOf (xf r 14 3) })
  | 2 => some (.cpyt { g := r.g, d := r.d, q := octS r, acq := xb r 18, rel := xb r 17, scope := scopeOf (xf r 14 3) })
  | 3 => some (.gath { g := r.g, d := r.d, q := octS r, acq := xb r 18, rel := xb r 17, scope := scopeOf (xf r 14 3) })
  | 4 => some (.scat { g := r.g, d := r.d, q := octS r, acq := xb r 18, rel := xb r 17, scope := scopeOf (xf r 14 3) })
  | 5 => some (.cpyr { g := r.g, d := r.d, q := octS r, acq := xb r 18, rel := xb r 17, scope := scopeOf (xf r 14 3) })
  | 6 => some (.cwait { g := r.g, s := r.s, all := xb r 0 })
  | 7 => some (.cqry { g := r.g, d := r.d, s := r.s })
  | _ => none

/-- The functions of OP 0x33 (R63). -/
def decodeOp33 (r : Raw) : Option Instr :=
  match r.fn.toNat with
  | 0 => some (.bpost { g := r.g, d := r.d, q := octS r, plane := xf r 11 3, key := xf r 7 4, rel := xb r 17 })
  | 1 => some (.bwait { g := r.g, d := r.d, s := r.s, plane := xf r 11 3, key := xf r 7 4, gseq := xb r 6, acq := xb r 18 })
  | 2 => some (.bseq { g := r.g, d := r.d, plane := xf r 11 3, key := xf r 7 4, sel := xf r 5 2, acq := xb r 18 })
  | 3 => some (.coll { g := r.g, d := octD r, s := octS r, t := r.t, plane := xf r 11 3, ty := ltyOf (xf r 8 3), op := xf r 6 2, acq := xb r 18, rel := xb r 17 })
  | _ => none

/-- The functions of OP 0x34 (R63). -/
def decodeOp34 (r : Raw) : Option Instr :=
  match r.fn.toNat with
  | 0 => some (.lctx { g := r.g, c := xf r 0 3 })
  | 1 => some (.ltload { g := r.g, s := r.s, c := xf r 0 3, acq := xb r 18, scope := scopeOf (xf r 14 3) })
  | 2 => some (.lwire { g := r.g, s := r.s, c := xf r 0 3, acq := xb r 18, scope := scopeOf (xf r 14 3) })
  | 3 => if xb r 11 then some (.lbindClear r.g) else some (.lbind { g := r.g, o := lowD r 4, sig := xf r 0 11 })
  | 4 => some (.leval { g := r.g, q := octD r, n1 := xf r 11 3, sig := xf r 0 11 })
  | 5 => some (.lwait { g := r.g, m := xf r 0 8 })
  | _ => none

/-- The functions of OP 0x38 (R63). -/
def decodeOp38 (r : Raw) : Option Instr :=
  match r.fn.toNat with
  | 0 => some (.srd { g := r.g, d := r.d, idx := xf r 0 8 })
  | 1 => some (.swr { g := r.g, s := r.s, idx := xf r 0 8 })
  | 2 => some (.trap { g := r.g, m := xf r 0 16 })
  | 3 => some (.evpost { g := r.g, q := octS r })
  | 4 => some (.brk { g := r.g, m := xf r 0 16 })
  | 5 => some (.cyc { g := r.g, d := r.d })
  | 6 => some (.launch { g := r.g, d := r.d, s := r.s })
  | _ => none

/-- The functions of OP 0x39 (R63). -/
def decodeOp39 (r : Raw) : Option Instr :=
  match r.fn.toNat with
  | 0 => some (.cfgld { g := r.g, d := r.d, s := r.s })
  | 1 => some (.cfgsv { g := r.g, d := r.d, s := r.s })
  | 4 => some (.qpop { g := r.g, q := octD r, s := r.s })
  | 5 => some (.mmrd { g := r.g, d := r.d, s := r.s })
  | 6 => some (.mmwr { g := r.g, s := r.s, t := r.t })
  | _ => none

/-- The row of R63 that a word's OP and FN name, with its operand fields read as R64 lays them out. -/
def Raw.read (r : Raw) : Option Instr :=
  match r.op.toNat with
  | 0x00 => decodeOp00 r
  | 0x01 => decodeOp01 r
  | 0x02 => decodeOp02 r
  | 0x03 => decodeOp03 r
  | 0x04 => decodeOp04 r
  | 0x05 => decodeOp05 r
  | 0x06 => decodeOp06 r
  | 0x07 => decodeOp07 r
  | 0x08 => decodeOp08 r
  | 0x09 => decodeOp09 r
  | 0x0a => decodeOp0A r
  | 0x10 => decodeOp10 r
  | 0x11 => decodeOp11 r
  | 0x12 => decodeOp12 r
  | 0x13 => decodeOp13 r
  | 0x14 => decodeOp14 r
  | 0x15 => decodeOp15 r
  | 0x18 => decodeOp18 r
  | 0x19 => decodeOp19 r
  | 0x1a => decodeOp1A r
  | 0x1b => decodeOp1B r
  | 0x20 => decodeOp20 r
  | 0x21 => decodeOp21 r
  | 0x22 => decodeOp22 r
  | 0x23 => decodeOp23 r
  | 0x24 => decodeOp24 r
  | 0x25 => decodeOp25 r
  | 0x28 => decodeOp28 r
  | 0x29 => decodeOp29 r
  | 0x2a => decodeOp2A r
  | 0x2b => decodeOp2B r
  | 0x2c => decodeOp2C r
  | 0x2d => decodeOp2D r
  | 0x2e => decodeOp2E r
  | 0x30 => decodeOp30 r
  | 0x31 => decodeOp31 r
  | 0x32 => decodeOp32 r
  | 0x33 => decodeOp33 r
  | 0x34 => decodeOp34 r
  | 0x38 => decodeOp38 r
  | 0x39 => decodeOp39 r
  | _ => none

/-- The fields of an instruction, written from R55, R63 and R64; an event is no word. -/
def Instr.raw? (i : Instr) : Option Raw :=
  match i with
  | .add o => some ⟨o.a, 0x00#7, 0#3, o.g, o.d, o.s, o.t, o.w.code ++ 0#16⟩
  | .sub o => some ⟨o.a, 0x00#7, 1#3, o.g, o.d, o.s, o.t, o.w.code ++ 0#16⟩
  | .and o => some ⟨o.a, 0x00#7, 2#3, o.g, o.d, o.s, o.t, o.w.code ++ 0#16⟩
  | .or o => some ⟨o.a, 0x00#7, 3#3, o.g, o.d, o.s, o.t, o.w.code ++ 0#16⟩
  | .xor o => some ⟨o.a, 0x00#7, 4#3, o.g, o.d, o.s, o.t, o.w.code ++ 0#16⟩
  | .andn o => some ⟨o.a, 0x00#7, 5#3, o.g, o.d, o.s, o.t, o.w.code ++ 0#16⟩
  | .orn o => some ⟨o.a, 0x00#7, 6#3, o.g, o.d, o.s, o.t, o.w.code ++ 0#16⟩
  | .xnor o => some ⟨o.a, 0x00#7, 7#3, o.g, o.d, o.s, o.t, o.w.code ++ 0#16⟩
  | .shl o => some ⟨o.a, 0x01#7, 0#3, o.g, o.d, o.s, o.t, o.w.code ++ 0#16⟩
  | .shr o => some ⟨o.a, 0x01#7, 1#3, o.g, o.d, o.s, o.t, o.w.code ++ 0#16⟩
  | .sar o => some ⟨o.a, 0x01#7, 2#3, o.g, o.d, o.s, o.t, o.w.code ++ 0#16⟩
  | .rol o => some ⟨o.a, 0x01#7, 3#3, o.g, o.d, o.s, o.t, o.w.code ++ 0#16⟩
  | .min o => some ⟨o.a, 0x01#7, 4#3, o.g, o.d, o.s, o.t, o.w.code ++ 0#16⟩
  | .max o => some ⟨o.a, 0x01#7, 5#3, o.g, o.d, o.s, o.t, o.w.code ++ 0#16⟩
  | .minu o => some ⟨o.a, 0x01#7, 6#3, o.g, o.d, o.s, o.t, o.w.code ++ 0#16⟩
  | .maxu o => some ⟨o.a, 0x01#7, 7#3, o.g, o.d, o.s, o.t, o.w.code ++ 0#16⟩
  | .mul o => some ⟨o.a, 0x02#7, 0#3, o.g, o.d, o.s, o.t, o.w.code ++ 0#16⟩
  | .mulh o => some ⟨o.a, 0x02#7, 1#3, o.g, o.d, o.s, o.t, o.w.code ++ 0#16⟩
  | .mulhu o => some ⟨o.a, 0x02#7, 2#3, o.g, o.d, o.s, o.t, o.w.code ++ 0#16⟩
  | .mad o => some ⟨o.a, 0x02#7, 3#3, o.g, o.d, o.s, o.t, o.w.code ++ 0#16⟩
  | .divu o => some ⟨o.a, 0x02#7, 4#3, o.g, o.d, o.s, o.t, o.w.code ++ 0#16⟩
  | .remu o => some ⟨o.a, 0x02#7, 5#3, o.g, o.d, o.s, o.t, o.w.code ++ 0#16⟩
  | .absd o => some ⟨o.a, 0x02#7, 6#3, o.g, o.d, o.s, o.t, o.w.code ++ 0#16⟩
  | .mov o => some ⟨o.a, 0x03#7, 0#3, o.g, o.d, o.s, 0#10, o.w.code ++ 0#16⟩
  | .neg o => some ⟨o.a, 0x03#7, 1#3, o.g, o.d, o.s, 0#10, o.w.code ++ 0#16⟩
  | .not o => some ⟨o.a, 0x03#7, 2#3, o.g, o.d, o.s, 0#10, o.w.code ++ 0#16⟩
  | .abs o => some ⟨o.a, 0x03#7, 3#3, o.g, o.d, o.s, 0#10, o.w.code ++ 0#16⟩
  | .clz o => some ⟨o.a, 0x03#7, 4#3, o.g, o.d, o.s, 0#10, o.w.code ++ 0#16⟩
  | .ctz o => some ⟨o.a, 0x03#7, 5#3, o.g, o.d, o.s, 0#10, o.w.code ++ 0#16⟩
  | .popc o => some ⟨o.a, 0x03#7, 6#3, o.g, o.d, o.s, 0#10, o.w.code ++ 0#16⟩
  | .brev o => some ⟨o.a, 0x03#7, 7#3, o.g, o.d, o.s, 0#10, o.w.code ++ 0#16⟩
  | .addi o => some ⟨o.a, 0x04#7, 0#3, o.g, o.d, o.s, 0#10, o.imm⟩
  | .andi o => some ⟨o.a, 0x04#7, 1#3, o.g, o.d, o.s, 0#10, o.imm⟩
  | .ori o => some ⟨o.a, 0x04#7, 2#3, o.g, o.d, o.s, 0#10, o.imm⟩
  | .xori o => some ⟨o.a, 0x04#7, 3#3, o.g, o.d, o.s, 0#10, o.imm⟩
  | .shli o => some ⟨o.a, 0x04#7, 4#3, o.g, o.d, o.s, 0#10, o.imm⟩
  | .shri o => some ⟨o.a, 0x04#7, 5#3, o.g, o.d, o.s, 0#10, o.imm⟩
  | .sari o => some ⟨o.a, 0x04#7, 6#3, o.g, o.d, o.s, 0#10, o.imm⟩
  | .muli o => some ⟨o.a, 0x04#7, 7#3, o.g, o.d, o.s, 0#10, o.imm⟩
  | .li o => some ⟨o.a, 0x05#7, 0#3, o.g, o.d, 0#10, o.imm.extractLsb' 19 10, o.imm.extractLsb' 0 19⟩
  | .lui o => some ⟨o.a, 0x05#7, 1#3, o.g, o.d, 0#10, o.imm.extractLsb' 19 10, o.imm.extractLsb' 0 19⟩
  | .ltop o => some ⟨o.a, 0x05#7, 2#3, o.g, o.d, 0#10, o.imm.extractLsb' 19 10, o.imm.extractLsb' 0 19⟩
  | .bfx o => some ⟨o.a, 0x06#7, 0#3, o.g, o.d, o.s, 0#10, 0#7 ++ o.pos ++ o.len1⟩
  | .bfxs o => some ⟨o.a, 0x06#7, 1#3, o.g, o.d, o.s, 0#10, 0#7 ++ o.pos ++ o.len1⟩
  | .bfi o => some ⟨o.a, 0x06#7, 2#3, o.g, o.d, o.s, o.t, 0#7 ++ o.pos ++ o.len1⟩
  | .sel o => some ⟨o.a, 0x06#7, 3#3, o.g, o.d, o.s, o.t, 0#16 ++ o.p⟩
  | .cmpEq o => some ⟨o.a, 0x07#7, 0#3, o.g, 0#7 ++ o.p, o.s, o.t, o.w.code ++ 0#16⟩
  | .cmpNe o => some ⟨o.a, 0x07#7, 1#3, o.g, 0#7 ++ o.p, o.s, o.t, o.w.code ++ 0#16⟩
  | .cmpLt o => some ⟨o.a, 0x07#7, 2#3, o.g, 0#7 ++ o.p, o.s, o.t, o.w.code ++ 0#16⟩
  | .cmpLe o => some ⟨o.a, 0x07#7, 3#3, o.g, 0#7 ++ o.p, o.s, o.t, o.w.code ++ 0#16⟩
  | .cmpLtu o => some ⟨o.a, 0x07#7, 4#3, o.g, 0#7 ++ o.p, o.s, o.t, o.w.code ++ 0#16⟩
  | .cmpLeu o => some ⟨o.a, 0x07#7, 5#3, o.g, 0#7 ++ o.p, o.s, o.t, o.w.code ++ 0#16⟩
  | .cmpTst o => some ⟨o.a, 0x07#7, 6#3, o.g, 0#7 ++ o.p, o.s, o.t, o.w.code ++ 0#16⟩
  | .cmpiEq o => some ⟨o.a, 0x08#7, 0#3, o.g, 0#7 ++ o.p, o.s, 0#10, o.imm⟩
  | .cmpiNe o => some ⟨o.a, 0x08#7, 1#3, o.g, 0#7 ++ o.p, o.s, 0#10, o.imm⟩
  | .cmpiLt o => some ⟨o.a, 0x08#7, 2#3, o.g, 0#7 ++ o.p, o.s, 0#10, o.imm⟩
  | .cmpiLe o => some ⟨o.a, 0x08#7, 3#3, o.g, 0#7 ++ o.p, o.s, 0#10, o.imm⟩
  | .cmpiLtu o => some ⟨o.a, 0x08#7, 4#3, o.g, 0#7 ++ o.p, o.s, 0#10, o.imm⟩
  | .cmpiLeu o => some ⟨o.a, 0x08#7, 5#3, o.g, 0#7 ++ o.p, o.s, 0#10, o.imm⟩
  | .cmpiTst o => some ⟨o.a, 0x08#7, 6#3, o.g, 0#7 ++ o.p, o.s, 0#10, o.imm⟩
  | .pand o => some ⟨o.a, 0x09#7, 0#3, o.g, 0#7 ++ o.p, 0#7 ++ o.s, 0#7 ++ o.t, 0#19⟩
  | .por o => some ⟨o.a, 0x09#7, 1#3, o.g, 0#7 ++ o.p, 0#7 ++ o.s, 0#7 ++ o.t, 0#19⟩
  | .pxor o => some ⟨o.a, 0x09#7, 2#3, o.g, 0#7 ++ o.p, 0#7 ++ o.s, 0#7 ++ o.t, 0#19⟩
  | .pnot o => some ⟨o.a, 0x09#7, 3#3, o.g, 0#7 ++ o.p, 0#7 ++ o.s, 0#10, 0#19⟩
  | .pset o => some ⟨o.a, 0x09#7, 4#3, o.g, 0#7 ++ o.p, 0#10, 0#10, 0#18 ++ bit o.v⟩
  | .pmov o => some ⟨o.a, 0x09#7, 5#3, o.g, 0#7 ++ o.p, 0#7 ++ o.s, 0#10, 0#19⟩
  | .pld o => some ⟨o.a, 0x09#7, 6#3, o.g, 0#7 ++ o.p, o.s, 0#10, 0#13 ++ o.bit⟩
  | .agen o => some ⟨true, 0x0a#7, 0#3, o.g, o.d, o.s, o.q ++ 0#3, 0#3 ++ o.m1 ++ 0#13⟩
  | .ainc o => some ⟨true, 0x0a#7, 1#3, o.g, o.d, 0#10, o.q ++ 0#3, 0#3 ++ o.k ++ 0#13⟩
  | .achk o => some ⟨true, 0x0a#7, 2#3, o.g, 0#7 ++ o.p, o.s, o.q ++ 0#3, 0#3 ++ o.m1 ++ 0#13⟩
  | .br o => some ⟨true, 0x10#7, 0#3, o.g, 0#10, 0#10, o.off.extractLsb' 19 10, o.off.extractLsb' 0 19⟩
  | .call o => some ⟨true, 0x11#7, 0#3, o.g, 0#10, 0#10, o.off.extractLsb' 19 10, o.off.extractLsb' 0 19⟩
  | .ret g => some ⟨true, 0x11#7, 1#3, g, 0#10, 0#10, 0#10, 0#19⟩
  | .jr o => some ⟨true, 0x11#7, 2#3, o.g, 0#10, o.s, 0#10, 0#19⟩
  | .loop o => some ⟨true, 0x12#7, 0#3, o.g, 0#8 ++ o.lc, o.s, 0#10, 0#7 ++ o.len⟩
  | .loopi o => some ⟨true, 0x12#7, 1#3, o.g, 0#8 ++ o.lc, o.count.extractLsb' 10 10, o.count.extractLsb' 0 10, 0#7 ++ o.len⟩
  | .loops o => some ⟨true, 0x12#7, 2#3, o.g, 0#8 ++ o.lc, o.s, 0#7 ++ o.dim, 0#7 ++ o.len⟩
  | .lbrk o => some ⟨true, 0x12#7, 3#3, o.g, 0#8 ++ o.lc, 0#10, 0#10, 0#19⟩
  | .exit g => some ⟨true, 0x13#7, 0#3, g, 0#10, 0#10, 0#10, 0#19⟩
  | .exitr o => some ⟨true, 0x13#7, 1#3, o.g, 0#10, o.s, 0#10, 0#19⟩
  | .yield g => some ⟨true, 0x13#7, 2#3, g, 0#10, 0#10, 0#10, 0#19⟩
  | .waitp o => some ⟨true, 0x13#7, 3#3, o.g, 0#10, 0#10, 0#10, 0#3 ++ o.m⟩
  | .nop o => some ⟨true, 0x13#7, 4#3, o.g, 0#10, 0#10, 0#10, nopX o.wave⟩
  | .send o => some ⟨false, 0x14#7, 0#3, o.g, 0#7 ++ o.port, o.q ++ 0#3, 0#10, 0#5 ++ o.steer ++ bit o.stv ++ bit o.last ++ o.pri ++ o.bytes⟩
  | .sendv o => some ⟨false, 0x14#7, 1#3, o.g, 0#7 ++ o.port, o.q ++ 0#3, o.t, 0#5 ++ o.steer ++ bit o.stv ++ bit o.last ++ o.pri ++ 0#7⟩
  | .sendd o => some ⟨false, 0x14#7, 2#3, o.g, 0#10, o.q ++ 0#3, o.t, 0#5 ++ o.steer ++ bit o.stv ++ bit o.last ++ 0#2 ++ o.bytes⟩
  | .req o => some ⟨false, 0x14#7, 3#3, o.g, 0#7 ++ o.port, 0#10, 0#10, 0#10 ++ o.n⟩
  | .recv o => some ⟨false, 0x14#7, 4#3, o.g, o.q ++ 0#3, 0#7 ++ o.port, 0#10, 0#19⟩
  | .steert o => some ⟨false, 0x14#7, 5#3, o.g, 0#7 ++ o.port, 0#10, 0#10, 0#5 ++ o.steer ++ bit o.stv ++ 0#10⟩
  | .reconf o => some ⟨false, 0x14#7, 6#3, o.g, 0#7 ++ o.port, 0#10, 0#10, 0#10 ++ o.n⟩
  | .ten o => some ⟨false, 0x15#7, 0#3, o.g, 0#10, 0#10, 0#10, 0#3 ++ o.m⟩
  | .tdis o => some ⟨false, 0x15#7, 1#3, o.g, 0#10, 0#10, 0#10, 0#3 ++ o.m⟩
  | .tpset o => some ⟨false, 0x15#7, 2#3, o.g, 0#10, 0#10, 0#10, 0#3 ++ o.m⟩
  | .tpclr o => some ⟨false, 0x15#7, 3#3, o.g, 0#10, 0#10, 0#10, 0#3 ++ o.m⟩
  | .tqry o => some ⟨false, 0x15#7, 4#3, o.g, o.d, 0#10, 0#10, 0#19⟩
  | .fadd o => some ⟨false, 0x18#7, 0#3, o.g, o.d, o.s, o.t, o.ty.code ++ 0#16⟩
  | .fsub o => some ⟨false, 0x18#7, 1#3, o.g, o.d, o.s, o.t, o.ty.code ++ 0#16⟩
  | .fmul o => some ⟨false, 0x18#7, 2#3, o.g, o.d, o.s, o.t, o.ty.code ++ 0#16⟩
  | .fmin o => some ⟨false, 0x18#7, 3#3, o.g, o.d, o.s, o.t, o.ty.code ++ 0#16⟩
  | .fmax o => some ⟨false, 0x18#7, 4#3, o.g, o.d, o.s, o.t, o.ty.code ++ 0#16⟩
  | .ffma o => some ⟨false, 0x18#7, 5#3, o.g, o.d, o.s, o.t, o.ty.code ++ 0#16⟩
  | .fcpys o => some ⟨false, 0x18#7, 6#3, o.g, o.d, o.s, o.t, o.ty.code ++ 0#16⟩
  | .frcp o => some ⟨false, 0x19#7, 0#3, o.g, o.d, o.s, 0#10, o.ty.code ++ 0#16⟩
  | .frsq o => some ⟨false, 0x19#7, 1#3, o.g, o.d, o.s, 0#10, o.ty.code ++ 0#16⟩
  | .fsqrt o => some ⟨false, 0x19#7, 2#3, o.g, o.d, o.s, 0#10, o.ty.code ++ 0#16⟩
  | .fexp2 o => some ⟨false, 0x19#7, 3#3, o.g, o.d, o.s, 0#10, o.ty.code ++ 0#16⟩
  | .flog2 o => some ⟨false, 0x19#7, 4#3, o.g, o.d, o.s, 0#10, o.ty.code ++ 0#16⟩
  | .fneg o => some ⟨false, 0x19#7, 5#3, o.g, o.d, o.s, 0#10, o.ty.code ++ 0#16⟩
  | .fabs o => some ⟨false, 0x19#7, 6#3, o.g, o.d, o.s, 0#10, o.ty.code ++ 0#16⟩
  | .frnd o => some ⟨false, 0x19#7, 7#3, o.g, o.d, o.s, 0#10, o.ty.code ++ 0#16⟩
  | .fcmpEq o => some ⟨false, 0x1a#7, 0#3, o.g, 0#7 ++ o.p, o.s, o.t, o.ty.code ++ 0#16⟩
  | .fcmpNe o => some ⟨false, 0x1a#7, 1#3, o.g, 0#7 ++ o.p, o.s, o.t, o.ty.code ++ 0#16⟩
  | .fcmpLt o => some ⟨false, 0x1a#7, 2#3, o.g, 0#7 ++ o.p, o.s, o.t, o.ty.code ++ 0#16⟩
  | .fcmpLe o => some ⟨false, 0x1a#7, 3#3, o.g, 0#7 ++ o.p, o.s, o.t, o.ty.code ++ 0#16⟩
  | .fcmpUn o => some ⟨false, 0x1a#7, 4#3, o.g, 0#7 ++ o.p, o.s, o.t, o.ty.code ++ 0#16⟩
  | .cvtif o => some ⟨false, 0x1b#7, 0#3, o.g, o.d, o.s, 0#10, o.fty.code ++ o.ity.code ++ 0#13⟩
  | .cvtfi o => some ⟨false, 0x1b#7, 1#3, o.g, o.d, o.s, 0#10, o.fty.code ++ o.ity.code ++ 0#13⟩
  | .cvtff o => some ⟨false, 0x1b#7, 2#3, o.g, o.d, o.s, 0#10, o.tgt.code ++ o.src.code ++ 0#13⟩
  | .cvtf8 o => some ⟨false, 0x1b#7, 3#3, o.g, o.d, o.s, 0#10, o.fty.code ++ 0#2 ++ bit o.e5m2 ++ 0#13⟩
  | .cvt8f o => some ⟨false, 0x1b#7, 4#3, o.g, o.d, o.s, 0#10, o.fty.code ++ 0#2 ++ bit o.e5m2 ++ 0#13⟩
  | .vadd o => some ⟨false, 0x20#7, 0#3, o.g, o.d ++ 0#3, o.s ++ 0#3, o.t ++ 0#3, o.ty.code ++ bit o.sat ++ 0#15⟩
  | .vsub o => some ⟨false, 0x20#7, 1#3, o.g, o.d ++ 0#3, o.s ++ 0#3, o.t ++ 0#3, o.ty.code ++ bit o.sat ++ 0#15⟩
  | .vmul o => some ⟨false, 0x20#7, 2#3, o.g, o.d ++ 0#3, o.s ++ 0#3, o.t ++ 0#3, o.ty.code ++ bit o.sat ++ 0#15⟩
  | .vmad o => some ⟨false, 0x20#7, 3#3, o.g, o.d ++ 0#3, o.s ++ 0#3, o.t ++ 0#3, o.ty.code ++ bit o.sat ++ 0#15⟩
  | .vmin o => some ⟨false, 0x20#7, 4#3, o.g, o.d ++ 0#3, o.s ++ 0#3, o.t ++ 0#3, o.ty.code ++ bit o.sat ++ 0#15⟩
  | .vmax o => some ⟨false, 0x20#7, 5#3, o.g, o.d ++ 0#3, o.s ++ 0#3, o.t ++ 0#3, o.ty.code ++ bit o.sat ++ 0#15⟩
  | .vabsd o => some ⟨false, 0x20#7, 6#3, o.g, o.d ++ 0#3, o.s ++ 0#3, o.t ++ 0#3, o.ty.code ++ bit o.sat ++ 0#15⟩
  | .vavg o => some ⟨false, 0x20#7, 7#3, o.g, o.d ++ 0#3, o.s ++ 0#3, o.t ++ 0#3, o.ty.code ++ bit o.sat ++ 0#15⟩
  | .vand o => some ⟨false, 0x21#7, 0#3, o.g, o.d ++ 0#3, o.s ++ 0#3, o.t ++ 0#3, o.ty.code ++ 0#16⟩
  | .vor o => some ⟨false, 0x21#7, 1#3, o.g, o.d ++ 0#3, o.s ++ 0#3, o.t ++ 0#3, o.ty.code ++ 0#16⟩
  | .vxor o => some ⟨false, 0x21#7, 2#3, o.g, o.d ++ 0#3, o.s ++ 0#3, o.t ++ 0#3, o.ty.code ++ 0#16⟩
  | .vandn o => some ⟨false, 0x21#7, 3#3, o.g, o.d ++ 0#3, o.s ++ 0#3, o.t ++ 0#3, o.ty.code ++ 0#16⟩
  | .vshl o => some ⟨false, 0x21#7, 4#3, o.g, o.d ++ 0#3, o.s ++ 0#3, o.t ++ 0#3, o.ty.code ++ 0#16⟩
  | .vshr o => some ⟨false, 0x21#7, 5#3, o.g, o.d ++ 0#3, o.s ++ 0#3, o.t ++ 0#3, o.ty.code ++ 0#16⟩
  | .vsar o => some ⟨false, 0x21#7, 6#3, o.g, o.d ++ 0#3, o.s ++ 0#3, o.t ++ 0#3, o.ty.code ++ 0#16⟩
  | .vpopc o => some ⟨false, 0x21#7, 7#3, o.g, o.d ++ 0#3, o.s ++ 0#3, 0#10, o.ty.code ++ 0#16⟩
  | .vfadd o => some ⟨false, 0x22#7, 0#3, o.g, o.d ++ 0#3, o.s ++ 0#3, o.t ++ 0#3, o.ty.code ++ 0#16⟩
  | .vfsub o => some ⟨false, 0x22#7, 1#3, o.g, o.d ++ 0#3, o.s ++ 0#3, o.t ++ 0#3, o.ty.code ++ 0#16⟩
  | .vfmul o => some ⟨false, 0x22#7, 2#3, o.g, o.d ++ 0#3, o.s ++ 0#3, o.t ++ 0#3, o.ty.code ++ 0#16⟩
  | .vffma o => some ⟨false, 0x22#7, 3#3, o.g, o.d ++ 0#3, o.s ++ 0#3, o.t ++ 0#3, o.ty.code ++ 0#16⟩
  | .vfmin o => some ⟨false, 0x22#7, 4#3, o.g, o.d ++ 0#3, o.s ++ 0#3, o.t ++ 0#3, o.ty.code ++ 0#16⟩
  | .vfmax o => some ⟨false, 0x22#7, 5#3, o.g, o.d ++ 0#3, o.s ++ 0#3, o.t ++ 0#3, o.ty.code ++ 0#16⟩
  | .vfexp2 o => some ⟨false, 0x22#7, 6#3, o.g, o.d ++ 0#3, o.s ++ 0#3, 0#10, o.ty.code ++ 0#16⟩
  | .vfrcp o => some ⟨false, 0x22#7, 7#3, o.g, o.d ++ 0#3, o.s ++ 0#3, 0#10, o.ty.code ++ 0#16⟩
  | .vcmp o => some ⟨false, 0x23#7, 0#3, o.g, o.d ++ 0#3, o.s ++ 0#3, o.t ++ 0#3, o.ty.code ++ 0#1 ++ o.cc ++ 0#12⟩
  | .vfcmp o => some ⟨false, 0x23#7, 1#3, o.g, o.d ++ 0#3, o.s ++ 0#3, o.t ++ 0#3, o.ty.code ++ 0#1 ++ o.cc ++ 0#12⟩
  | .vsel o => some ⟨false, 0x23#7, 2#3, o.g, o.d ++ 0#3, o.s ++ 0#3, o.t ++ 0#3, o.ty.code ++ 0#9 ++ o.m⟩
  | .vbcast o => some ⟨false, 0x23#7, 3#3, o.g, o.d ++ 0#3, o.s, 0#10, o.ty.code ++ 0#16⟩
  | .vext o => some ⟨false, 0x23#7, 4#3, o.g, o.d, o.s ++ 0#3, 0#10, o.ty.code ++ 0#10 ++ o.lane⟩
  | .vins o => some ⟨false, 0x23#7, 5#3, o.g, o.d ++ 0#3, o.s, 0#10, o.ty.code ++ 0#10 ++ o.lane⟩
  | .vperm o => some ⟨false, 0x24#7, 0#3, o.g, o.d ++ 0#3, o.s ++ 0#3, o.t ++ 0#3, o.ty.code ++ 0#16⟩
  | .vshuf o => some ⟨false, 0x24#7, 1#3, o.g, o.d ++ 0#3, o.s ++ 0#3, 0#10, o.ty.code ++ 0#1 ++ o.op ++ 0#6 ++ o.k⟩
  | .vredadd o => some ⟨false, 0x24#7, 2#3, o.g, o.d ++ 0#3, o.s ++ 0#3, 0#10, o.ty.code ++ 0#16⟩
  | .vredmax o => some ⟨false, 0x24#7, 3#3, o.g, o.d ++ 0#3, o.s ++ 0#3, 0#10, o.ty.code ++ 0#16⟩
  | .vredmin o => some ⟨false, 0x24#7, 4#3, o.g, o.d ++ 0#3, o.s ++ 0#3, 0#10, o.ty.code ++ 0#16⟩
  | .vfredadd o => some ⟨false, 0x24#7, 5#3, o.g, o.d ++ 0#3, o.s ++ 0#3, 0#10, o.ty.code ++ 0#16⟩
  | .vfredmax o => some ⟨false, 0x24#7, 6#3, o.g, o.d ++ 0#3, o.s ++ 0#3, 0#10, o.ty.code ++ 0#16⟩
  | .vcvt o => some ⟨false, 0x24#7, 7#3, o.g, o.d ++ 0#3, o.s ++ 0#3, 0#10, o.src.code ++ bit o.sat ++ 0#12 ++ o.tgt.code⟩
  | .vplane o => some ⟨false, 0x25#7, 0#3, o.g, o.d ++ 0#3, o.s ++ 0#3, 0#10, o.ty.code ++ 0#16⟩
  | .vunplane o => some ⟨false, 0x25#7, 1#3, o.g, o.d ++ 0#3, o.s ++ 0#3, 0#10, o.ty.code ++ 0#16⟩
  | .vplane16 o => some ⟨false, 0x25#7, 2#3, o.g, o.d ++ 0#3, o.s ++ 0#3, 0#10, o.ty.code ++ 0#16⟩
  | .vunplane16 o => some ⟨false, 0x25#7, 3#3, o.g, o.d ++ 0#3, o.s ++ 0#3, 0#10, o.ty.code ++ 0#16⟩
  | .ldb o => some ⟨true, 0x28#7, 0#3, o.g, o.d, o.s, o.off, waveX o.wave⟩
  | .ldbs o => some ⟨true, 0x28#7, 1#3, o.g, o.d, o.s, o.off, waveX o.wave⟩
  | .ldh o => some ⟨true, 0x28#7, 2#3, o.g, o.d, o.s, o.off, waveX o.wave⟩
  | .ldhs o => some ⟨true, 0x28#7, 3#3, o.g, o.d, o.s, o.off, waveX o.wave⟩
  | .ldw o => some ⟨true, 0x28#7, 4#3, o.g, o.d, o.s, o.off, waveX o.wave⟩
  | .ldws o => some ⟨true, 0x28#7, 5#3, o.g, o.d, o.s, o.off, waveX o.wave⟩
  | .ldd o => some ⟨true, 0x28#7, 6#3, o.g, o.d, o.s, o.off, waveX o.wave⟩
  | .ldv o => some ⟨true, 0x28#7, 7#3, o.g, o.d ++ 0#3, o.s, o.off, waveX o.wave⟩
  | .stb o => some ⟨true, 0x29#7, 0#3, o.g, o.d, o.s, o.off, waveX o.wave⟩
  | .sth o => some ⟨true, 0x29#7, 1#3, o.g, o.d, o.s, o.off, waveX o.wave⟩
  | .stw o => some ⟨true, 0x29#7, 2#3, o.g, o.d, o.s, o.off, waveX o.wave⟩
  | .std o => some ⟨true, 0x29#7, 3#3, o.g, o.d, o.s, o.off, waveX o.wave⟩
  | .stv o => some ⟨true, 0x29#7, 4#3, o.g, o.d ++ 0#3, o.s, o.off, waveX o.wave⟩
  | .stz o => some ⟨true, 0x29#7, 5#3, o.g, 0#10, o.s, o.off, waveX o.wave⟩
  | .wopenr o => some ⟨true, 0x2a#7, 0#3, o.g, 0#7 ++ o.win, o.s, 0#10, 0#19⟩
  | .wopenw o => some ⟨true, 0x2a#7, 1#3, o.g, 0#7 ++ o.win, o.s, 0#10, 0#19⟩
  | .wclose o => some ⟨true, 0x2a#7, 2#3, o.g, 0#7 ++ o.win, 0#10, 0#10, 0#19⟩
  | .wclosea g => some ⟨true, 0x2a#7, 3#3, g, 0#10, 0#10, 0#10, 0#19⟩
  | .wqry o => some ⟨true, 0x2a#7, 4#3, o.g, o.d, o.s, 0#10, 0#19⟩
  | .lda o => some ⟨true, 0x2b#7, 0#3, o.g, o.d, o.s, 0#10, o.scope.code ++ o.order.code ++ o.size.code ++ bit o.sg ++ o.off⟩
  | .stl o => some ⟨true, 0x2b#7, 1#3, o.g, o.d, o.s, 0#10, o.scope.code ++ o.order.code ++ o.size.code ++ bit o.sg ++ o.off⟩
  | .ldx o => some ⟨true, 0x2b#7, 2#3, o.g, o.d, o.s, 0#10, o.scope.code ++ o.order.code ++ o.size.code ++ bit o.sg ++ o.off⟩
  | .stx o => some ⟨true, 0x2b#7, 3#3, o.g, o.d, o.s, o.t, o.scope.code ++ o.order.code ++ o.size.code ++ bit o.sg ++ o.off⟩
  | .aadd o => some ⟨true, 0x2c#7, 0#3, o.g, o.d, o.s, o.t, o.scope.code ++ o.order.code ++ o.size.code ++ bit o.sg ++ o.off⟩
  | .aand o => some ⟨true, 0x2c#7, 1#3, o.g, o.d, o.s, o.t, o.scope.code ++ o.order.code ++ o.size.code ++ bit o.sg ++ o.off⟩
  | .aor o => some ⟨true, 0x2c#7, 2#3, o.g, o.d, o.s, o.t, o.scope.code ++ o.order.code ++ o.size.code ++ bit o.sg ++ o.off⟩
  | .axor o => some ⟨true, 0x2c#7, 3#3, o.g, o.d, o.s, o.t, o.scope.code ++ o.order.code ++ o.size.code ++ bit o.sg ++ o.off⟩
  | .amin o => some ⟨true, 0x2c#7, 4#3, o.g, o.d, o.s, o.t, o.scope.code ++ o.order.code ++ o.size.code ++ bit o.sg ++ o.off⟩
  | .amax o => some ⟨true, 0x2c#7, 5#3, o.g, o.d, o.s, o.t, o.scope.code ++ o.order.code ++ o.size.code ++ bit o.sg ++ o.off⟩
  | .axchg o => some ⟨true, 0x2c#7, 6#3, o.g, o.d, o.s, o.t, o.scope.code ++ o.order.code ++ o.size.code ++ bit o.sg ++ o.off⟩
  | .acas o => some ⟨true, 0x2c#7, 7#3, o.g, o.d, o.s, o.t, o.scope.code ++ o.order.code ++ o.size.code ++ bit o.sg ++ o.off⟩
  | .fence o => some ⟨true, 0x2d#7, 0#3, o.g, 0#10, 0#10, 0#10, bit o.acq ++ bit o.rel ++ o.scope.code ++ 0#14⟩
  | .fencee o => some ⟨true, 0x2d#7, 1#3, o.g, 0#10, 0#10, 0#10, bit o.acq ++ bit o.rel ++ o.scope.code ++ 0#14⟩
  | .gfence o => some ⟨true, 0x2d#7, 2#3, o.g, 0#10, 0#10, 0#10, bit o.acq ++ bit o.rel ++ o.scope.code ++ 0#14⟩
  | .pflush o => some ⟨true, 0x2e#7, 0#3, o.g, 0#10, o.s, o.off, waveX o.wave⟩
  | .pinv o => some ⟨true, 0x2e#7, 1#3, o.g, 0#10, o.s, o.off, waveX o.wave⟩
  | .pclean o => some ⟨true, 0x2e#7, 2#3, o.g, 0#10, o.s, o.off, waveX o.wave⟩
  | .ppref o => some ⟨true, 0x2e#7, 3#3, o.g, 0#10, o.s, o.off, waveX o.wave⟩
  | .bpost o => some ⟨true, 0x33#7, 0#3, o.g, o.d, o.q ++ 0#3, 0#10, 0#1 ++ bit o.rel ++ 6#3 ++ o.plane ++ o.key ++ 0#7⟩
  | .bwait o => some ⟨true, 0x33#7, 1#3, o.g, o.d, o.s, 0#10, bit o.acq ++ 0#1 ++ 6#3 ++ o.plane ++ o.key ++ bit o.gseq ++ 0#6⟩
  | .bseq o => some ⟨true, 0x33#7, 2#3, o.g, o.d, 0#10, 0#10, bit o.acq ++ 0#1 ++ 6#3 ++ o.plane ++ o.key ++ o.sel ++ 0#5⟩
  | .coll o => some ⟨true, 0x33#7, 3#3, o.g, o.d ++ 0#3, o.s ++ 0#3, o.t, bit o.acq ++ bit o.rel ++ 6#3 ++ o.plane ++ o.ty.code ++ o.op ++ 0#6⟩
  | .oclaim o => some ⟨true, 0x30#7, 0#3, o.g, 0#6 ++ o.o, 0#10, 0#10, 0#19⟩
  | .orelease o => some ⟨true, 0x30#7, 1#3, o.g, 0#6 ++ o.o, 0#10, 0#10, 0#19⟩
  | .oload o => some ⟨true, 0x30#7, 2#3, o.g, 0#6 ++ o.o, o.q ++ 0#3, o.t, bit o.acq ++ 0#1 ++ o.scope.code ++ o.wake ++ o.bit⟩
  | .ostore o => some ⟨true, 0x30#7, 3#3, o.g, 0#6 ++ o.o, o.q ++ 0#3, o.t, 0#1 ++ bit o.rel ++ o.scope.code ++ 0#14⟩
  | .ostat o => some ⟨true, 0x30#7, 4#3, o.g, o.d, 0#6 ++ o.o, 0#10, 0#19⟩
  | .ozero o => some ⟨true, 0x30#7, 5#3, o.g, 0#6 ++ o.o, 0#10, 0#10, 0#15 ++ o.p1⟩
  | .mpair o => some ⟨false, 0x31#7, 0#3, o.g, 0#10, 0#10, 0#10, 0#8 ++ o.v⟩
  | .mclr o => some ⟨false, 0x31#7, 1#3, o.g, 0#8 ++ o.acc, 0#10, 0#10, 0#19⟩
  | .mma o => some ⟨false, 0x31#7, 2#3, o.g, 0#8 ++ o.acc, 0#6 ++ o.oa, 0#6 ++ o.ob, 0#19⟩
  | .mdrain o => some ⟨false, 0x31#7, 3#3, o.g, 0#8 ++ o.acc, 0#10, 0#10, 0#5 ++ o.route ++ bit o.last ++ o.rows1 ++ 0#4⟩
  | .mstat o => some ⟨false, 0x31#7, 4#3, o.g, o.d, 0#10, 0#10, 0#19⟩
  | .mwait o => some ⟨false, 0x31#7, 5#3, o.g, 0#10, 0#10, 0#10, 0#15 ++ o.m⟩
  | .cpy o => some ⟨true, 0x32#7, 0#3, o.g, o.d, o.q ++ 0#3, 0#10, bit o.acq ++ bit o.rel ++ o.scope.code ++ 0#14⟩
  | .cpyp o => some ⟨true, 0x32#7, 1#3, o.g, o.d, o.q ++ 0#3, 0#10, bit o.acq ++ bit o.rel ++ o.scope.code ++ 0#14⟩
  | .cpyt o => some ⟨true, 0x32#7, 2#3, o.g, o.d, o.q ++ 0#3, 0#10, bit o.acq ++ bit o.rel ++ o.scope.code ++ 0#14⟩
  | .gath o => some ⟨true, 0x32#7, 3#3, o.g, o.d, o.q ++ 0#3, 0#10, bit o.acq ++ bit o.rel ++ o.scope.code ++ 0#14⟩
  | .scat o => some ⟨true, 0x32#7, 4#3, o.g, o.d, o.q ++ 0#3, 0#10, bit o.acq ++ bit o.rel ++ o.scope.code ++ 0#14⟩
  | .cpyr o => some ⟨true, 0x32#7, 5#3, o.g, o.d, o.q ++ 0#3, 0#10, bit o.acq ++ bit o.rel ++ o.scope.code ++ 0#14⟩
  | .cwait o => some ⟨true, 0x32#7, 6#3, o.g, 0#10, o.s, 0#10, 0#18 ++ bit o.all⟩
  | .cqry o => some ⟨true, 0x32#7, 7#3, o.g, o.d, o.s, 0#10, 0#19⟩
  | .lctx o => some ⟨false, 0x34#7, 0#3, o.g, 0#10, 0#10, 0#10, 0#16 ++ o.c⟩
  | .ltload o => some ⟨false, 0x34#7, 1#3, o.g, 0#10, o.s, 0#10, bit o.acq ++ 0#1 ++ o.scope.code ++ 0#11 ++ o.c⟩
  | .lwire o => some ⟨false, 0x34#7, 2#3, o.g, 0#10, o.s, 0#10, bit o.acq ++ 0#1 ++ o.scope.code ++ 0#11 ++ o.c⟩
  | .lbind o => some ⟨false, 0x34#7, 3#3, o.g, 0#6 ++ o.o, 0#10, 0#10, 0#8 ++ o.sig⟩
  | .lbindClear g => some ⟨false, 0x34#7, 3#3, g, 0#10, 0#10, 0#10, 0#7 ++ 1#1 ++ 0#11⟩
  | .leval o => some ⟨false, 0x34#7, 4#3, o.g, o.q ++ 0#3, 0#10, 0#10, 0#5 ++ o.n1 ++ o.sig⟩
  | .lwait o => some ⟨false, 0x34#7, 5#3, o.g, 0#10, 0#10, 0#10, 0#11 ++ o.m⟩
  | .srd o => some ⟨true, 0x38#7, 0#3, o.g, o.d, 0#10, 0#10, 0#11 ++ o.idx⟩
  | .swr o => some ⟨true, 0x38#7, 1#3, o.g, 0#10, o.s, 0#10, 0#11 ++ o.idx⟩
  | .trap o => some ⟨true, 0x38#7, 2#3, o.g, 0#10, 0#10, 0#10, 0#3 ++ o.m⟩
  | .evpost o => some ⟨true, 0x38#7, 3#3, o.g, 0#10, o.q ++ 0#3, 0#10, 0#19⟩
  | .brk o => some ⟨true, 0x38#7, 4#3, o.g, 0#10, 0#10, 0#10, 0#3 ++ o.m⟩
  | .cyc o => some ⟨true, 0x38#7, 5#3, o.g, o.d, 0#10, 0#10, 0#19⟩
  | .launch o => some ⟨true, 0x38#7, 6#3, o.g, o.d, o.s, 0#10, 0#19⟩
  | .cfgld o => some ⟨true, 0x39#7, 0#3, o.g, o.d, o.s, 0#10, 0#19⟩
  | .cfgsv o => some ⟨true, 0x39#7, 1#3, o.g, o.d, o.s, 0#10, 0#19⟩
  | .qpop o => some ⟨true, 0x39#7, 4#3, o.g, o.q ++ 0#3, o.s, 0#10, 0#19⟩
  | .mmrd o => some ⟨true, 0x39#7, 5#3, o.g, o.d, o.s, 0#10, 0#19⟩
  | .mmwr o => some ⟨true, 0x39#7, 6#3, o.g, 0#10, o.s, o.t, 0#19⟩
  | .ctxctlQuery o => some ⟨true, 0x39#7, 2#3, o.g, o.d, o.s, o.t, 0#19⟩
  | .ctxctlEnable o => some ⟨true, 0x39#7, 2#3, o.g, o.d, o.s, o.t, 0#19⟩
  | .ctxctlDisable o => some ⟨true, 0x39#7, 2#3, o.g, o.d, o.s, o.t, 0#19⟩
  | .ctxctlHalt o => some ⟨true, 0x39#7, 2#3, o.g, o.d, o.s, o.t, 0#19⟩
  | .ctxctlReset o => some ⟨true, 0x39#7, 2#3, o.g, o.d, o.s, o.t, 0#19⟩
  | .ctxctlRestore o => some ⟨true, 0x39#7, 2#3, o.g, o.d, o.s, o.t, 0#19⟩
  | .prtctlCreate o => some ⟨true, 0x39#7, 3#3, o.g, o.d, o.s, 0#10, 0#19⟩
  | .prtctlResize o => some ⟨true, 0x39#7, 3#3, o.g, o.d, o.s, 0#10, 0#19⟩
  | .prtctlDestroy o => some ⟨true, 0x39#7, 3#3, o.g, o.d, o.s, 0#10, 0#19⟩
  | .prtctlParam o => some ⟨true, 0x39#7, 3#3, o.g, o.d, o.s, 0#10, 0#19⟩
  | .prtctlBind o => some ⟨true, 0x39#7, 3#3, o.g, o.d, o.s, 0#10, 0#19⟩
  | .loadReturn _ _ _ _ => none
  | .wtOpenRequest _ => none
  | .winfullTimeout _ _ => none
  | .windowGrant _ _ => none
  | .closeAck _ => none
  | .closeComplete _ => none
  | .homePerform _ => none
  | .omfillReceive _ _ _ => none
  | .mmaComplete _ => none
  | .copyChunk _ _ => none
  | .copyDone _ _ => none
  | .lcbLoadComplete _ _ => none
  | .levalLayer _ => none
  | .resizeComplete _ => none
  | .requeue _ _ => none
  | .resume _ _ => none
  | .kill _ _ => none
  | .commandFailure _ _ _ => none
  | .instantiate _ => none
  | .sourceFire _ _ _ => none
  | .firingRule _ _ _ => none
  | .resourceGrant _ => none
  | .stallWake _ _ => none
  | .retire _ _ => none
  | .endOfStream _ => none
  | .watchdogExpiry _ => none
  | .routeToken _ => none
  | .tokenReceive _ => none
  | .tokenResend _ => none
  | .reqToken _ _ _ _ _ => none
  | .reconfCtrl _ _ _ _ => none
  | .relatch _ _ _ _ => none
  | .dhold _ => none
  | .dfree _ => none
  | .halt _ => none
  | .haltPoint _ => none
  | .convToken _ _ => none
  | .addeToken _ _ => none
  | .muleToken _ _ => none
  | .maxeToken _ _ => none
  | .funcToken _ _ => none
  | .reduToken _ _ => none
  | .steerToken _ _ => none
  | .forkToken _ _ => none
  | .mergeToken _ _ => none
  | .chanToken _ _ => none
  | .tranToken _ _ => none
  | .exdcToken _ _ => none
  | .mportRead _ _ => none
  | .mportWrite _ _ => none
  | .streamDone _ _ => none
  | .mePortFill _ _ => none
  | .soResidueFault _ _ => none
  | .hostLaunch _ _ => none
  | .launchEligible _ _ => none
  | .utundPlace _ _ _ => none
  | .arbitrationPass => none
  | .quantumExpiry _ _ _ => none
  | .imageSave _ _ => none
  | .restore _ _ => none
  | .remoteRequest _ => none
  | .remoteResponse _ _ => none
  | .remtoExpiry _ => none
  | .redirect _ _ _ _ => none
  | .mtlbinv _ _ => none
  | .mtlbinvComplete _ => none
  | .chanBind _ _ => none
  | .pagePull _ _ _ _ _ _ => none
  | .pageInstall _ _ _ _ _ _ => none
  | .repoint _ _ => none
  | .pack _ _ => none
  | .repointTimeout _ _ => none
  | .userDelivery _ _ => none
  | .collDelivery _ _ => none
  | .grant _ _ => none
  | .grantTimeout _ => none
  | .join _ _ => none
  | .leave _ _ => none
  | .repair _ _ => none
  | .group _ _ => none
  | .planeStallTimeout _ => none
  | .laneBeat _ _ _ => none
  | .linkFlit _ _ _ => none
  | .idle _ => none
  | .ack _ _ => none
  | .nak _ _ => none
  | .loss _ _ => none
  | .map _ _ _ => none
  | .mapack _ _ _ => none
  | .ackTimer _ => none
  | .replayTimeout _ => none
  | .lossOfLight _ _ => none
  | .restripeResume _ => none
  | .linkDown _ => none
  | .lanePark _ _ => none
  | .laneUnpark _ _ => none
  | .vbRetest _ _ _ => none
  | .vbRetestForced _ _ _ => none
  | .scrub _ _ _ _ => none
  | .powerWindow _ => none
  | .thermalStop _ _ => none
  | .templimExceeded _ _ => none
  | .recordPost _ => none
  | .powerUp => none
  | .moduleReset => none
  | .firmwareBundle _ => none
  | .attestationRequest _ => none
  | .devid _ => none
  | .hostRmaWrite _ _ _ => none
  | .hostRmaRead _ _ _ => none
  | .hostUnsupported _ => none
  | .dbgctlHalt _ => none
  | .dbgctlResume _ => none
  | .dbgctlStep _ => none
  | .queueCtlWrite _ _ => none
  | .queueTailWrite _ _ => none
  | .logCtlWrite _ _ _ _ => none
  | .bindingWrite _ _ _ => none
  | .omapWrite _ _ _ => none
  | .soflgClear _ _ => none
  | .psplitWrite _ _ => none
  | .registerWrite _ _ => none
  | .powerDown => none
  | .templimRecovered _ _ => none
  | .temperatureSwing _ _ => none
  | .laneRecovery _ _ => none
  | .mportAccessDone _ _ => none
  | .linkTraining _ _ _ => none
  | .chanBindAnswer _ _ _ => none

/-- The word of an instruction; none for an event, which is no instruction word. -/
def encode (i : Instr) : Option Word := i.raw?.map Raw.pack

/-- Why a word is rejected (R68): each is ILLEGAL at decode. -/
inductive Reject
  /-- OP, FN or a type, width or order field names nothing (R56, R63). -/
  | noRow
  /-- A field or bit marked zero is nonzero, an octet field is unaligned, or the marker contradicts the pipe
  class (R54, R55, R64). -/
  | reservedBits
  /-- A value lies outside its stated limits, or the guard is 0b1000 (R51, R53, R58, R64 to R67). -/
  | badOperand
  deriving DecidableEq, Repr

/-- What a word names: a form, or CTXCTL or PRTCTL, whose operation an operand selects when the word issues
(R117, R119, R329). -/
inductive Fetched
  | form (i : Instr)
  | ctxctl (o : DST)
  | prtctl (o : DS)
  deriving DecidableEq, Repr

/-- What the fields of a word name. -/
def Raw.fetched (r : Raw) : Option Fetched :=
  if r.op = 0x39#7 && decide (r.fn = 2#3) then some (.ctxctl { g := r.g, d := r.d, s := r.s, t := r.t })
  else if r.op = 0x39#7 && decide (r.fn = 3#3) then some (.prtctl { g := r.g, d := r.d, s := r.s })
  else r.read.map .form

/-- The fields again. -/
def Fetched.raw? : Fetched → Option Raw
  | .form i => i.raw?
  | .ctxctl o => some ⟨true, 0x39#7, 2#3, o.g, o.d, o.s, o.t, 0#19⟩
  | .prtctl o => some ⟨true, 0x39#7, 3#3, o.g, o.d, o.s, 0#10, 0#19⟩

/-- The limits on what a word names. -/
def Fetched.wf : Fetched → Bool
  | .form i => i.wf
  | .ctxctl o => guardOk o.g
  | .prtctl o => guardOk o.g

-- DEDUCED, log 12 (safe).
-- DEDUCED, log 156 (safe).
/-- The decoder. The fields named by the word's row are read; a bit that the row marks zero, or the wrong
marker, shows as a difference between the word and the encoding of what was read (R68). -/
def decodeWord (w : Word) : Except Reject Fetched :=
  match (Raw.unpack w).fetched with
  | none => .error .noRow
  | some i =>
    if i.raw? = some (Raw.unpack w) then
      if i.wf then .ok i else .error .badOperand
    else .error .reservedBits

/-- The instruction that stands for what a word names: CTXCTL and PRTCTL are shown by their first operation,
since the word alone does not say which one the operand selects. (Not compiled: the compiler's limit on the
number of constructors it can build; nothing that runs depends on it.) -/
noncomputable def Fetched.instr : Fetched → Instr
  | .form i => i
  | .ctxctl o => .ctxctlQuery o
  | .prtctl o => .prtctlCreate o

/-- The decoder, as instructions. -/
noncomputable def decode (w : Word) : Except Reject Instr :=
  match decodeWord w with
  | .error e => .error e
  | .ok f => .ok f.instr

/-- A 64-bit word from its bytes as code store and images hold it, least significant byte first (R5, R50). -/
def wordOfBytes : List Byte → Nat
  | [] => 0
  | b :: r => b.toNat + 256 * wordOfBytes r

/-- The n bytes of a number, least significant first (R5). -/
def bytesOf : Nat → Nat → List Byte
  | 0, _ => []
  | n + 1, v => BitVec.ofNat 8 v :: bytesOf n (v / 256)

-- DEDUCED, log 11 (unsafe).
/-- The instruction that the decoder reads from a table word: its bytes laid out as the code store holds
them, then decoded. -/
noncomputable def decodeTableWord (nbits w : Nat) : Option Instr :=
  match decode (BitVec.ofNat 64 (wordOfBytes (bytesOf 8 (w % 2 ^ (Nat.min nbits 64))))) with
  | .ok i => some i
  | .error _ => none

end Sys2Proof
end

