-- ==== Sys2Proof/Machine/TileState.lean ====
section
/-! DEFINITION. The state of a tile: its code store and node table, its firings, operand memory, matrix engine,
lookup cells, edges and stream operators (R3, R191, R212, R224, R235). Plain data throughout. -/

namespace Sys2Proof.Machine

/-- Fault codes of R402, as the records name them. -/
inductive FCode
  | illegal | slot | align | wave | window | owner | perm | xlate | xlate2 | race | winfull | omslot | opplane
  | token | engine | residue | parity | fabric | trap | brk | deadlock
  deriving DecidableEq, Repr

/-- A fault as it is raised: its code, the DETAIL bytes of its record as a number (R404), the hypervisor queue
of an XLATE2 (R342; partition 16 when the owner's device has posted it), whether RESIDUE comes from a poisoned bank (R238), and the failed command. -/
structure FInfo where
  code   : FCode
  detail : Nat := 0
  hv     : Option (Nat × Nat) := none
  /-- The page that a MIGRATE fault asks for (R372): stack, partition, GPA, source device and stack. -/
  pull   : Option (Nat × Nat × Nat × Nat × Nat) := none
  poison : Bool := false
  cmd    : Nat := 0
  deriving DecidableEq, Repr

/-- A word of the code store that a configuration loaded: an instruction or a header (R50). -/
structure CodeWord where
  word   : Word
  header : Bool
  deriving DecidableEq, Repr

/-- A loop counter in use (R104). -/
structure LoopCtr where
  index : Nat
  bound : Nat
  first : Nat
  last  : Nat
  deriving DecidableEq, Repr

/-- Rows of bytes (R152). -/
structure Rect where
  base  : Nat
  rowb  : Nat
  pitch : Nat
  rows  : Nat
  deriving DecidableEq, Repr

/-- An open window of a firing (R152): `wid` names its registration in the window table of `stk`, or the
remote request that opened it. -/
structure Window where
  w     : Bool
  base  : Word
  rowb  : Nat
  pitch : Nat
  rows  : Nat
  wid   : Nat
  stk   : Nat
  remote : Bool
  /-- For a window of another device: the key of BASE there. -/
  key   : Nat
  deriving DecidableEq, Repr

/-- A reservation (R161): the address, the size, and the 8-byte granule where the home is on this device. -/
structure Reservation where
  va      : Word
  size    : Nat
  granule : Option Nat
  deriving DecidableEq, Repr

/-- What a firing holds until it retires (R183, R184, R188, R115, R116, R191), in program order. -/
inductive Held
  | tok (port : Nat) (t : Token)
  | direct (t : Token)
  | reconf (port depth : Nat)
  | event (b : BitVec 512)
  | launch (lid : Nat) (bytes : List Byte)
  | orel (o : Nat)
  deriving DecidableEq, Repr

/-- Firing states of R235; RETIRED is absence. -/
inductive FSt | waiting | ready | running | stalled | draining | aborted | suspended | saved
  deriving DecidableEq, Repr

/-- What a STALLED or ABORTED firing waits for, with what completes the form. -/
inductive Wait
  | none
  | tags (mask : BitVec 16)
  | recv (q : BitVec 7) (port : Nat)
  | window (win : Nat) (rid : Nat)
  /-- Ranges of the engine command at pc: the requests not yet granted (R178). -/
  | range (rids : List Nat)
  | bwait (d : BitVec 10) (plane key : Nat) (gseq acq : Bool) (target : Word)
  | coll (q : BitVec 7) (plane idx : Nat) (acq : Bool)
  | cwait (id : Option Nat)
  | mwait (mask : BitVec 4)
  | lwait (mask : BitVec 8)
  /-- The word at pc has a request at another device. -/
  | remote (rid : Nat)
  /-- The LEVAL at pc is in the block's queue and may still meet a fault of its own (R216). -/
  | leval
  | cause (c : FCode)
  deriving DecidableEq, Repr

/-- How a returning value enters its slots. -/
inductive PendHow
  | zext (bytes : Nat)
  | sext (bytes : Nat)
  | octet
  | status
  | plane
  deriving DecidableEq, Repr

/-- A slot, or an octet, whose write is still to come (R53, R234): a reader waits. `rid` names the request,
the plane message or the evaluation that will bring it. -/
inductive PendSrc
  | remote (rid : Nat)
  | post (plane msg : Nat)
  | leval
  | system (req : Nat)
  deriving DecidableEq, Repr

structure Pend where
  src : PendSrc
  d   : Nat
  n   : Nat
  how : PendHow
  /-- Bytes that the firing's own store buffer supplied, and which they are (R149). -/
  own  : Nat := 0
  mask : Nat := 0
  deriving DecidableEq, Repr

/-- An LEVAL in the block's queue (R216, R218, R280 to R282): the next layer, and the next command number of the tile when it
was accepted, which orders it against the loads of contexts. -/
structure LevalJob where
  owner : Nat
  q     : BitVec 7
  n     : Nat
  next  : Nat
  sig   : Nat
  /-- The firing was aborted: the result is discarded (R181). -/
  orphan : Bool
  stamp : Nat
  /-- The binding step has been made, with the AC and the bindings that were then in force. -/
  begun : Option (BitVec 3 × Tab Nat) := none
  bound : Bool := false
  /-- It can meet no more fault of its own: its firing has gone on. -/
  settled : Bool := false
  /-- A word it read could not be corrected (R284); it has been made again once (R238). -/
  failed  : Bool := false
  retried : Bool := false
  deriving DecidableEq, Repr

/-- What stands in the queue of the lookup-cell block (R212, R280). -/
inductive LcbForm
  | ctx (c : BitVec 3)
  | bind (base slot : Nat)
  | unbind
  | eval (j : LevalJob)
  deriving DecidableEq, Repr

/-- A registration of a firing at another device: the key of its base there and the request that opened it. -/
structure AwayReg where
  stk : Nat
  ctx : Nat
  key : Nat
  rid : Nat
  deriving DecidableEq, Repr

/-- One firing (R3, R235 to R241). -/
structure Firing where
  id      : Nat
  entry   : Nat
  node    : Nat
  tag     : BitVec 32
  inst    : Nat
  st      : FSt
  wait    : Wait
  /-- The head word met a condition it waits for at issue. -/
  held    : Bool
  /-- A fault in flight to be reported at the next boundary (R242). -/
  failed  : Option FInfo
  pc      : Nat
  age     : Nat
  count   : BitVec 32
  /-- Rounded frame size in slots (R52, R71). -/
  frame   : Nat
  slots   : Tab Word
  preds   : BitVec 8
  loops   : Tab LoopCtr
  rstack  : List Nat
  fpf     : BitVec 4
  ppr     : BitVec 11
  wins    : Tab Window
  /-- Windows whose close has not reached step 3 (R156): window number and close identity. -/
  closing : List (Nat × Nat)
  resv    : Option Reservation
  steer   : Tab (Bool × BitVec 3)
  waveLast : Option Wave
  pend    : List Pend
  /-- Held output, oldest first. -/
  out     : List Held
  exitStatus : Option Word
  /-- Assigned input tokens by port (R228). -/
  inputs  : List (Nat × Token)
  /-- Tokens taken by RECV, oldest first (R181, R186). -/
  recvd   : List (Nat × Token)
  /-- Places reserved on output ports and not used (R228). -/
  reserved : Tab Nat
  /-- P bits that its start cleared (R228, R239). -/
  cleared : BitVec 16
  committed : Bool
  retries : Nat
  /-- A PARITY or RESIDUE retry of the word at pc has been used (R238); the next word has its own. -/
  retried : Bool
  /-- Retire steps done (R236). -/
  rstep   : Nat
  /-- Suspended from DRAINING (R241, R242). -/
  fromDrain : Bool
  /-- The identifier under which the faulting form is sent again (R347). -/
  resend : Option Nat
  /-- Ranges registered for the engine command at pc (R178): on this device by stack and identity, and elsewhere. -/
  granted : Option (List (Nat × Nat) × List AwayReg)
  /-- An LEVAL that failed in flight, to be evaluated again when the suspended firing resumes (R241, R284). -/
  reeval : Option LevalJob
  /-- Accumulator banks its MMAs add into, since their last MCLR (R181). -/
  banks  : BitVec 4
  /-- Lines of other devices fetched for the word at pc, by key. -/
  fetched : List (Nat × BitVec 1024)
  /-- Spills and early drains to other devices that the word at pc waits for, by request (R150, R179). -/
  spilled : List Nat := []
  /-- Another device that the ranges of the word at pc cannot reach: FABRIC comes after its other faults (R69). -/
  unreached : Option FInfo := none
  /-- While SUSPENDED: the fault whose cause has not cleared, and whether BRK under debug control did it (R364). -/
  cause   : Option FCode := none
  debug   : Bool := false
  deriving DecidableEq, Repr

-- DEDUCED, log 21 (unsafe).
/-- A store-buffer entry (R149): the line's virtual address, its home's key, its bytes, the mask and the owner. -/
structure SbEntry where
  line  : Nat
  key   : Nat
  data  : BitVec 1024
  mask  : BitVec 128
  owner : Nat
  deriving DecidableEq, Repr

/-- A descriptor as a command holds it (R32). -/
structure Desc where
  base : Nat
  fmt : Nat
  spl : Nat
  plo : Nat
  phi : Nat
  layout : Nat
  blk : Nat
  rows : Nat
  cols : Nat
  rstr : Int
  pstr : Nat
  scale : Nat
  cstr : Int
  deriving DecidableEq, Repr

/-- The engine commands that a firing attaches and that run in later steps (R177). -/
inductive CmdKind
  | cpy (src dst len : Nat)
  | cpyr (src dst len : Nat)
  | cpyp (src dst : Desc)
  | cpyt (src dst : Desc)
  | gath (src dst : Desc) (idx len : Nat)
  | scat (src dst : Desc) (idx len : Nat)
  | oload (o : Nat) (desc : Desc) (row col : Nat) (wake bit : Nat)
  | ostore (o : Nat) (desc : Desc) (row col : Nat)
  | ltload (c addr : Nat)
  | lwire (c addr : Nat)
  deriving DecidableEq, Repr

/-- The state of a command (R211). -/
inductive CmdSt | queued | running | done | failed
  deriving DecidableEq, Repr

structure Cmd where
  id    : Nat
  owner : Nat
  inst  : Nat
  tag   : BitVec 32
  kind  : CmdKind
  st    : CmdSt
  acq   : Bool
  rel   : Bool
  scope : Scope
  evid  : Nat
  cdst  : BitVec 24
  toNode : Bool
  /-- Leading chunks completed, and the bytes of them; of a fill, tokens received (R40, R208, R211). -/
  chunk : Nat
  written : Nat
  fault : Option FInfo
  /-- Registrations of the command's ranges: on this device by stack and identity, and elsewhere. -/
  ranges : List (Nat × Nat)
  away  : List AwayReg
  /-- Lines of other devices it has read, by key; lines asked for; writes not yet acknowledged (R209). -/
  lines : List (Nat × BitVec 1024)
  asked : List (Nat × Nat)
  acks  : Nat
  /-- The source of a CPYT, read at its start (R305, R307). -/
  snap  : Option (List Byte)
  /-- Bytes of the chunk whose writes have been sent and are not all acknowledged (R356). -/
  sent  : Option Nat := none
  /-- A beat of the present chunk has met another owner's bank; the chunk is being written a second time; a beat of some chunk has
  met one (R358). -/
  missed : Bool := false
  twice : Bool := false
  mismatch : Bool := false
  /-- It has been made again after a PARITY (R238). -/
  retried : Bool := false
  /-- The areas it reads (R178, R180). -/
  srcs  : List (List Rect) := []
  /-- Of a copy: its command block and the descriptors of its source and destination, as read at issue (R356). -/
  block : BitVec 512 := 0
  descs : BitVec 512 × BitVec 512 := (0, 0)
  deriving DecidableEq, Repr

/-- An operand memory slot (R191): its planes are 1 KiB each, byte b at bits 8b. -/
structure OmSlot where
  claimed : Bool := false
  firid   : Word := 0
  /-- The firing of the tile that made the claim (R181). -/
  owner   : Option Nat := none
  nplanes : Nat := 0
  filling : Bool := false
  ws      : Nat := 0
  wu      : Nat := 0
  planes  : Tab (BitVec 8192) := []
  /-- Bytes of the current fill received so far; ME port fills arm the slot (R309). -/
  got     : Nat := 0
  armed   : Option Nat := none
  deriving DecidableEq, Repr

-- DEDUCED, log 43 (safe).
/-- An MMA in the engine's queue (R13, R199), with the slots as they stand: nothing changes them before it has read
them (R19). -/
structure MmaJob where
  owner : Nat
  acc   : Nat
  oa    : Nat
  ob    : Nat
  a     : OmSlot
  b     : OmSlot
  ppr   : BitVec 11
  /-- The next command number of the tile when it was issued (R180). -/
  stamp : Nat := 0
  deriving DecidableEq, Repr

/-- A drain in progress (R200): the accumulator values read, as lanes, and the next token. -/
structure Drain where
  owner : Nat
  bank  : Nat
  route : Nat
  tag   : BitVec 32
  ctx   : Nat
  last  : Bool
  lanes : List (BitVec 512)
  /-- The next command number of the tile when it was issued (R180). -/
  stamp : Nat := 0
  deriving DecidableEq, Repr

/-- The matrix engine (R20, R201). -/
structure Me where
  acc    : Tab Int := []
  ov     : BitVec 4 := 0
  abrt   : BitVec 4 := 0
  poison : BitVec 4 := 0
  queue  : List MmaJob := []
  drains : List Drain := []
  /-- The owner of the failed MMA of a poisoned bank, until the RESIDUE is raised. -/
  owing  : Tab Nat := []
  /-- Skipped input positions that its next token is to carry (R45). -/
  skip   : Nat := 0
  /-- Tokens of drains that found their edge full at a halt, by route, in order (R357). -/
  held   : List (Nat × Token) := []
  deriving DecidableEq, Repr

/-- The lookup-cell block (R212). -/
structure Lcb where
  plane   : Tab Word := []
  tables  : Tab Word := []
  wiring  : Tab (BitVec 128) := []
  invalid : BitVec 8 := 0
  ac      : BitVec 3 := 0
  binds   : Tab Nat := []
  /-- Forms accepted and not yet at the head (R280), and the evaluation under way. -/
  queue   : List LcbForm := []
  job     : Option LevalJob := none
  deriving DecidableEq, Repr

/-- A committed token in an edge FIFO; `indexed` when the matching store holds it (R229). -/
structure FTok where
  tok     : Token
  indexed : Bool
  /-- The order in which the tokens of the tile committed. -/
  stamp   : Nat := 0
  deriving DecidableEq, Repr

/-- The sink end of an edge (R43, R44): one input port of a node. -/
structure Edge where
  depth   : Nat
  expect  : BitVec 16
  early   : List Token
  fifo    : List FTok
  pull    : Bool
  /-- Positions requested and positions arrived, counted from instantiation (R187). -/
  asked   : Nat
  arrived : Nat

  reconf  : Option Nat
  src     : TileId
  srcNode : Nat
  srcPort : Nat
  /-- Tags whose LAST a RECV has taken. -/
  lastTaken : List (BitVec 32)
  deriving DecidableEq, Repr

/-- The producer end of an edge (R43, R183): one output port of a node. -/
structure OutEdge where
  dst     : TileId
  dnode   : Nat
  dport   : Nat
  depth   : Nat
  pull    : Bool
  next    : BitVec 16
  skip    : Nat
  /-- Positions produced (sent or skipped) and positions covered by requests, counted from instantiation. -/
  made    : Nat
  covered : Nat
  /-- Requests that name positions beyond the first uncovered one: first position and count (R40). -/
  reqs    : List (Nat × Nat) := []
  /-- Released tokens that wait for a request to cover their position, each with it. -/
  waiting : List (Nat × Token)
  fmt     : BitVec 4
  pri     : BitVec 2
  lastSent : List (BitVec 32)
  deriving DecidableEq, Repr

/-- Flag counters of a stream operator (R272). -/
structure SoFlg where
  iv : Nat := 0
  ov : Nat := 0
  uf : Nat := 0
  ix : Nat := 0
  deriving DecidableEq, Repr

/-- The statistics of a CONV, and the STAT record (R270). -/
structure Stat where
  nsrc   : Nat := 1
  elems  : Nat := 0
  ovf    : Nat := 0
  unf    : Nat := 0
  zero   : Nat := 0
  ivc    : Nat := 0
  skipt  : Nat := 0
  maxexp : Int := -32768
  deriving DecidableEq, Repr

/-- A latched page of an MPORT (R263): the page's virtual address and size, the route to its owner, the physical base where
the owner is this stack, the offset there and the guest page. -/
structure Latch where
  va     : Nat
  size   : Nat
  dev    : Nat
  stk    : Nat
  /-- The context served at another device. -/
  rctx   : Nat := 0
  base   : Option Nat
  off    : Nat
  gpa    : Nat
  /-- Why the page is unlatched. -/
  why    : Option FInfo
  deriving DecidableEq, Repr

/-- The working state of a stream-operator node (R244 to R271). -/
structure SoState where
  /-- Tag being served by a stateful node (R247). -/
  cur    : Option (BitVec 32) := none
  /-- Input positions since the last LAST. -/
  pos    : Nat := 0
  /-- Row, scale, bias, factor or column tokens held for the current tile. -/
  vecs   : List (BitVec 512) := []
  /-- The tile store: ACC, TRAN, REDU partial results, by place; and the valid bytes of each. -/
  store  : Tab (BitVec 512) := []
  sizes  : Tab Nat := []
  /-- MAXE running maxima, FP32; an unlisted row is −∞. -/
  rowmax : Tab (BitVec 32) := []
  stat   : Stat := {}
  flg    : SoFlg := {}
  sel    : Option (BitVec 3) := none
  /-- Results of a tile that wait to leave, by output port, in order. -/
  outq   : List (Nat × Token) := []
  /-- EXDC: stream bytes not yet decoded or not yet sent, and blocks of the current tile. -/
  bytes  : List Byte := []
  blocks : List (List Nat) := []
  /-- EXDC: input is discarded up to the next LAST. CHAN: the first discard has been reported. -/
  discard : Bool := false
  /-- MERGE SEQ: the position of the output stream, and ports whose LAST has passed. -/
  ended  : List Nat := []
  merged : Nat := 0
  /-- MPORT: the tag and position of the next access, its latches, its registrations, a stall. -/
  mtag   : Nat := 0
  mpos   : Nat := 0
  latches : List Latch := []
  range  : Option (Nat × Nat) := none
  away   : List AwayReg := []
  /-- The address at which its stream has stalled. -/
  stall  : Option Nat := none
  /-- Latching: the address to be latched next; the probe sent to another device, with its address; the range is still to be
  registered; the position at the head has been written, and its acknowledgements are awaited. -/
  scan   : Option Nat := none
  probes : List (Nat × Nat) := []
  todo   : Bool := false
  wrote  : Bool := false
  /-- MPORT: lines of other devices at hand by key, requests out by identity and key, writes not yet acknowledged,
  positions written of the current stream, streams whose completion is owed, page changes to be latched. -/
  lines  : List (Nat × BitVec 1024) := []
  asked  : List (Nat × Nat) := []
  inflight : List Nat := []
  written : Nat := 0
  dones  : List (BitVec 32 × Nat) := []
  relatches : List (Word × BitVec 24) := []
  /-- The node takes no more tokens: refused registration (R263) or a second residue mismatch (R273). -/
  dead   : Bool := false
  /-- CHAN: the far end has accepted the bind (R344). -/
  bound  : Bool := false
  /-- The last token taken carried LAST (R243). -/
  finished : Bool := false
  deriving DecidableEq, Repr

/-- Debug control of a tile (R405). -/
structure DbgState where
  halt   : Bool := false
  halted : Bool := false
  brken  : Bool := false
  step   : Bool := false
  deriving DecidableEq, Repr

/-- A tile: what a configuration places on it and what runs there. -/
structure Tile where
  /-- The configuration instance that holds the tile. -/
  inst   : Option Nat := none
  resident : Bool := false
  code   : Tab CodeWord := []
  nodes  : Tab (BitVec 96) := []
  params : Tab (List Byte) := []
  route  : Tab (BitVec 24) := []
  tagE   : Tab (BitVec 16) := []
  tagP   : Tab (BitVec 16) := []
  firings : List Firing := []
  nextFid : Nat := 0
  /-- Firings of each actor issued so far (R112). -/
  counts : Tab (BitVec 32) := []
  stamp  : Nat := 0
  /-- Matching-store entries in use: actor and tag (R229). -/
  matching : List (Nat × BitVec 32) := []
  /-- Source actors: tag and output ports on which LAST has been sent (R227). -/
  sources : List (Nat × BitVec 32 × BitVec 8) := []
  edges  : Tab Edge := []
  outs   : Tab OutEdge := []
  so     : Tab SoState := []
  om     : Tab OmSlot := []
  me     : Me := {}
  lcb    : Lcb := {}
  store  : List SbEntry := []
  cmds   : List Cmd := []
  nextCmd : Nat := 1
  /-- A HALT has stopped issue (R352); in-flight work goes on until the halt point. -/
  halting : Bool := false
  atHalt : Bool := false
  dbg    : DbgState := {}
  deriving DecidableEq, Repr

/-- The key of a tile (R2). -/
def tileKey (t : TileId) : Nat := (t.stk * 17 + t.x) * 16 + t.y

end Sys2Proof.Machine
end

