-- ==== Sys2Proof/Machine/StackState.lean ====
section
/-! DEFINITION. The state of stacks, contexts, partitions, launches, saved images, links, planes, buses and the
module (R3, R285 to R297, R313 to R351, R352 to R377, R383 to R421). Plain data throughout. -/

namespace Sys2Proof.Machine

/-! ## The window table and translation -/

/-- Who holds a registration (R153, R296): a firing (its windows and the ranges of its commands), an instance
(its MPORTs), the host agent of a context (R297), a firing of another device as that device names it. -/
inductive Holder
  | firing (t : TileId) (fid : Nat)
  | inst (i : Nat)
  | host (ctx : Nat)
  | remote (dev stk ctx agent : Nat)
  /-- A firing of a saved instance, by the tile where it ran (R153, R157). -/
  | saved (inst : Nat) (t : TileId) (fid : Nat)
  deriving DecidableEq, Repr

/-- One page of a registration: virtual address, length, physical key of its first byte, guest page. -/
structure RegPage where
  va    : Nat
  len   : Nat
  pa    : Nat
  gpa   : Nat
  deriving DecidableEq, Repr


/-- A window or engine range as the window table holds it (R296): each page takes one entry. `area` is the window's
one rectangle, or the rows of the areas of an engine range. -/
structure Reg where
  wid    : Nat
  holder : Holder
  /-- A command's or MPORT's range rather than a window of a firing. -/
  range  : Bool
  ctx    : Nat
  w      : Bool
  area   : List Rect
  pages  : List RegPage
  closing : Bool
  /-- The request of another device that made it. -/
  rid    : Nat := 0
  deriving DecidableEq, Repr

/-- Who waits for a grant. -/
inductive WtFor
  | window (t : TileId) (fid : Nat) (win : Nat)
  | command (t : TileId) (fid : Nat) (cmd : Nat)
  | remote (dev stk ctx rid : Nat)
  | host (op : Nat)
  deriving DecidableEq, Repr

/-- A cached whole translation of the owner stack's MTLB (R337). -/
structure MtlbEntry where
  part : Nat
  ctx  : Nat
  off  : Nat
  len  : Nat
  gpa  : Nat
  pa   : Nat
  w1   : Bool
  r1   : Bool
  w2   : Bool
  r2   : Bool
  dirty : Bool
  /-- Bytes that the leaf of each stage maps. -/
  l1   : Nat := 65536
  l2   : Nat := 65536
  deriving DecidableEq, Repr

/-- A translated page at its owner: the stack, the physical key of the byte asked for, its place in the page, the
page's size and GPA, the key of the stage-2 leaf whose D bit is to be set, the step to cache. -/
structure XPage where
  stk  : Nat
  key  : Nat
  off  : Nat
  size : Nat
  gpa  : Nat
  leaf : Option Nat
  step : Option MtlbEntry
  deriving DecidableEq, Repr

/-- A request waiting for window-table entries (R154): it carries its registrations, each with its stack, the pages that a
grant uses (R339), and its last cycle. -/
structure WtReq where
  rid  : Nat
  who  : WtFor
  regs : List (Nat × Reg)
  uses : List XPage
  due  : Nat
  decided : Bool
  /-- A replayed open that has lost to this holder, which is not registered yet (R408). -/
  winner : Option Nat := none
  deriving DecidableEq, Repr

/-- A close whose lines wait for acknowledgement (R156, R422); the notice to another device, which follows them, with the base. -/
structure CloseRec where
  cid   : Nat
  t     : TileId
  fid   : Nat
  win   : Nat
  stk   : Nat
  wid   : Nat
  acks  : Nat
  notice : Option (AwayReg × Nat) := none
  deriving DecidableEq, Repr

/-- A remote-data-cache line (R293): context, home key, data. -/
structure RdcLine where
  ctx  : Nat
  key  : Nat
  data : BitVec 1024
  deriving DecidableEq, Repr

/-- The shared blocks of one stack. -/
structure Stack where
  cyc    : Nat := 0
  regs   : List Reg := []
  waits  : List WtReq := []
  rdc    : List RdcLine := []
  mtlb   : List MtlbEntry := []
  mtlbinv : BitVec 64 := 0
  /-- Bytes that the step under invalidation mapped from its page. -/
  invLen : Nat := 65536
  /-- MPORTs that a RELATCH for it has gone to, each with its page, until all have answered (R265). -/
  invMports : List (TileId × Nat × Nat) := []
  /-- Lines whose cache copy is dirty, with the DRAM contents beneath (R289, R167). -/
  dirty  : Tab (BitVec 1024) := []
  /-- Bank owner tags and scratch ways in force (R285): context and ways. -/
  banks  : Tab (Nat × Nat) := []
  /-- Reservations of the memory tiles, oldest first: bank, holder, granule (R161). -/
  resvs  : List (Nat × Holder × Nat) := []
  tempwin : BitVec 8 := 20
  temp   : Nat := 0
  hot    : Bool := false
  /-- Identifiers of remote writes served, newest last, by source, with results (R347). -/
  served : List (Nat × Nat × Nat × RemAns) := []
  /-- Routes: devices that the stack route table reaches, with the link used (R38). -/
  routes : Tab Nat := []
  deriving DecidableEq, Repr

/-! ## Queues, contexts, partitions -/

/-- A record queue (R420): registers, and the records that wait for room, translation or enabling. -/
structure RQueue where
  base  : BitVec 64 := 0
  size  : BitVec 24 := 0
  en    : Bool := false
  head  : BitVec 32 := 0
  tail  : BitVec 32 := 0
  waiting : List (List Byte) := []
  /-- The translation fault of the stalled queue has been posted. -/
  stalled : Bool := false
  /-- Management queue while disabled: its internal ring. -/
  ring  : List (List Byte) := []
  /-- The write of the oldest waiting record to a ring at another device, not yet acknowledged (R302, R420). -/
  sent  : Option Nat := none
  deriving DecidableEq, Repr

/-- A dirty-page log or replay log (R368, R407). -/
structure LogRegs where
  base : BitVec 64 := 0
  size : BitVec 24 := 0
  en   : Bool := false
  ovf  : Bool := false
  head : BitVec 32 := 0
  tail : BitVec 32 := 0
  /-- Replay log: bytes ever put into the data area, and which entries put how many (R407). -/
  dhead : Nat := 0
  parts : List (Nat × Nat) := []
  deriving DecidableEq, Repr

-- DEDUCED, log 64 (safe).
/-- A collective index at this device (R172, R173). -/
structure CollAcc where
  plane : Nat
  idx   : Nat
  n     : Nat
  ty    : LTy
  op    : Nat
  cnt   : Nat
  acc   : BitVec 512
  flags : BitVec 4
  failed : Bool
  complete : Bool
  /-- Its COLL here has taken the result or raised ENGINE: it counts no more, and later contributions are discarded. -/
  released : Bool
  deriving DecidableEq, Repr

/-- Context-span state (R3). -/
structure Ctx where
  part    : Option Nat := none
  enabled : Bool := true
  halted  : Bool := false
  halting : Bool := false
  omap    : Tab (BitVec 32) := []
  peers   : Tab (BitVec 32) := []
  psplit  : BitVec 5 := 0
  s1root  : Tab (BitVec 64) := []
  binds   : Tab (BitVec 64) := []
  kc      : Tab (BitVec 32) := []
  cidx    : Tab (BitVec 16) := []
  colls   : List CollAcc := []
  evq     : RQueue := {}
  /-- Launch identities in queue order, for queues 0 to 3. -/
  queues  : Tab (List Nat) := []
  /-- The last 256 completions: event id and status (R317). -/
  done    : List (Nat × Nat) := []
  nextLid : Nat := 1
  /-- Host launches that wait in the transport for a free queue entry, oldest first (R316). -/
  inbox   : List (List Byte) := []
  /-- Source device and context of a context restored from another device's image (R371, R375). -/
  origin  : Option (Nat × Nat) := none
  deriving DecidableEq, Repr

/-- A partition (R329) with its registers on each stack. -/
structure Part where
  exist  : Bool := false
  bypb   : Nat := 8
  colthr : Nat := 16
  qdef   : Nat := 1024
  cols   : BitVec 64 := 0
  dram   : BitVec 64 := 0
  planes : BitVec 8 := 0
  links  : BitVec 8 := 0
  remto  : BitVec 32 := 24000
  wdlog  : BitVec 5 := 20
  s2root : Tab (BitVec 64) := []
  carvbase : Tab (BitVec 64) := []
  carvsize : Tab (BitVec 64) := []
  dlog   : Tab LogRegs := []
  dlogctx : Tab (BitVec 64) := []
  rlog   : Tab LogRegs := []
  hvq    : Tab RQueue := []
  /-- A resize in progress: the D slot and firing that take the status, and the new columns (R330). -/
  resizing : Option (TileId × Nat × Nat × BitVec 64) := none
  /-- The definition bytes as last applied (R415). -/
  defn   : List Byte := []
  deriving DecidableEq, Repr

/-! ## Configurations, launches, instances, images -/

/-- A placed tile of a configuration (R223): offsets within the rectangle. -/
structure TileCfg where
  dx     : Nat
  dy     : Nat
  code   : Tab CodeWord
  nodes  : Tab (BitVec 96)
  params : Tab (List Byte)
  route  : Tab (BitVec 24)
  depths : Tab Nat
  /-- Output ports whose edge is a pull edge. -/
  pulls  : List Nat
  deriving DecidableEq, Repr

/-- A configuration-cache entry (R223). -/
structure PlacedCfg where
  key   : List Byte
  hash  : List Byte
  w     : Nat
  h     : Nat
  tiles : List TileCfg
  loaded : Nat
  deriving DecidableEq, Repr

/-- A level of a launch (R225). -/
structure Level where
  count  : Nat
  domain : Nat
  scope  : Nat
  deriving DecidableEq, Repr

/-- The launch states of R325; DONE is removal. -/
inductive LSt | queued | eligible | reserved | admitted | running | halting | saved
  deriving DecidableEq, Repr

/-- Why a saved launch is held (R326, R330). -/
inductive HoldWhy | deadlock | residue | noRoom
  deriving DecidableEq, Repr

/-- A launch on this device (R313, R325). -/
structure Launch where
  lid    : Nat
  ctx    : Nat
  cls    : Nat
  queue  : Nat
  record : Bool
  replay : Bool
  shpw   : Bool
  reshape : Bool
  levels : List Level
  deps   : List Nat
  cevid  : Nat
  ghash  : List Byte
  imgp   : Nat
  imglen : Nat
  quant  : Nat
  argp   : BitVec 64
  shapes : List Nat
  devs   : List Nat
  st     : LSt
  age    : Option Nat
  bypass : Nat
  saves  : Nat
  admitted : Option Nat
  held   : Option HoldWhy
  /-- The first shape, once placed: key of the configuration. -/
  cfg    : List Byte
  image  : List Byte
  insts  : List Nat
  /-- Tiles reserved for the launch: stack, origin, shape (R321, R323). -/
  reserved : List (Nat × Nat × Nat × Nat × Nat)
  /-- Stacks where an URGENT launch has displaced others; what it reserved there it keeps until its admission (R323). -/
  chosen : List Nat := []
  /-- Replay-log entries consumed, by stack and number (R408). -/
  replayed : List (Nat × Nat) := []
  /-- Lines of other devices read for the device list and the image; lines asked for, by request (R315). -/
  lines  : List (Nat × BitVec 1024) := []
  asked  : List (Nat × Nat) := []
  /-- NDEV and DEVP while the device list is still to be read. -/
  devp   : Option (Nat × Nat) := none
  /-- The first shape as Utund placed it. -/
  placed : Option PlacedCfg := none
  /-- DEVP, for the record's copy in an image. -/
  devAddr : Nat := 0
  deriving DecidableEq, Repr

/-- A configuration instance. -/
structure Inst where
  id     : Nat
  lid    : Nat
  ctx    : Nat
  part   : Nat
  stk    : Nat
  ox     : Nat
  oy     : Nat
  w      : Nat
  h      : Nat
  cfg    : List Byte
  /-- Coordinates at levels 0 to 7 for the levels whose domain is not FIRING (R226). -/
  coords : List Nat
  levels : List Level
  argp   : BitVec 64
  sways  : Nat
  /-- Sources are armed (R227, R344). -/
  armed  : Bool
  halting : Bool
  saved  : Bool
  /-- Watchdog: cycle of the last progress, and a debug hold (R274, R406). -/
  wd     : Nat
  /-- The instances whose DHOLD holds this one. -/
  holds  : List Nat
  /-- Quantum: cycle from which it counts. -/
  qstart : Nat
  /-- Tags served 0 … ntags − 1 (R226). -/
  ntags  : Nat
  /-- CHAN nodes not yet answered (R344). -/
  binding : Nat
  resident : Bool
  /-- RESID of a resident graph (R111). -/
  resid  : Nat
  /-- Registrations at other devices that it keeps while it is saved (R157). -/
  parked : List AwayReg := []
  deriving DecidableEq, Repr

/-- Under a debug hold (R406). -/
def Inst.dhold (i : Inst) : Bool := !i.holds.isEmpty

/-- A router output (R38, R39): to another tile, to a link, or by the local port to a node's port; or no route. -/
inductive Hop
  | tile (t : TileId)
  | out (link : Nat)
  | here (node port : Nat)
  | noRoute
  deriving DecidableEq, Repr

/-- A token in the network: the router where it stands, refusals by its next hop so far (R46), whether it waits to be sent again, and
whether the next router has no place for it (R39). The queue of a router output at a priority is the tokens that stand there,
in the order of the list. -/
structure NetTok where
  id   : Nat
  tok  : Token
  at_  : TileId
  tries : Nat
  refused : Bool := false
  blocked : Bool := false
  src  : TileId
  /-- Sent by a SENDD (R184). -/
  direct : Bool
  deriving DecidableEq, Repr

/-! ## The fabric -/

/-- What a remote request of this device asks, and who waits for it (R346). -/
inductive RemFor
  | load (t : TileId) (fid : Nat)
  | sync (t : TileId) (fid : Nat)
  | fill (t : TileId) (fid : Nat)
  | window (t : TileId) (fid win : Nat)
  | range (t : TileId) (fid i : Nat)
  | publish (t : TileId) (fid : Nat) (cid : Nat)
  | cmd (t : TileId) (cmd : Nat)
  | launch (ctx lid : Nat)
  | mport (t : TileId) (node pos : Nat)
  | chan (t : TileId) (node : Nat)
  | prefetch (t : TileId) (fid : Nat)
  | host (op : Nat)
  | pull (stk part gpa : Nat)
  /-- The shape addresses of a launch, for an instance (R314); a record for a queue (R420). -/
  | shapes (inst : Nat)
  | record (q : QSel)
  deriving DecidableEq, Repr

/-- A remote request held at its issuing memory tile. -/
structure RemOut where
  rid  : Nat
  stk  : Nat
  ctx  : Nat
  dev  : Nat
  dstk : Nat
  rctx : Nat
  va   : Nat
  off  : Nat
  /-- The key under which it was issued, which a REDIRECT does not change. -/
  key  : Nat
  who  : RemFor
  req  : HomeReq
  isOpen : Bool
  openW : Bool
  rowb : Nat
  pitch : Nat
  rows : Nat
  due  : Nat
  /-- It has been sent; else it waits at its memory tile for one of 256 to be acknowledged (R347). -/
  sent : Bool := true
  /-- An open for a command or an MPORT rather than a window, and the holder that a replayed open has lost to. -/
  range : Bool := false
  winner : Option Nat := none
  deriving DecidableEq, Repr

/-- An RMA operation of the host in progress (R297): its range's registrations here and elsewhere, opens not yet granted, accesses
at other devices not yet answered, and the lines read there. -/
structure HostOp where
  op    : Nat
  ctx   : Nat
  w     : Bool
  va    : Nat
  data  : List Byte
  n     : Nat
  regs  : List (Nat × Nat)
  away  : List AwayReg := []
  opens : List Nat := []
  out   : List Nat := []
  lines : List (Nat × BitVec 1024) := []
  deriving DecidableEq, Repr

/-- A Caravan image that stands in a save area (R359): where its bytes stand in memory, whose it is, its instances in the order of its
INST section. One of a context that has been reset is given up: its place may be taken. -/
structure Image where
  stk    : Nat
  addr   : Nat
  len    : Nat
  ctx    : Nat
  lid    : Nat
  wide   : Bool
  given  : Bool
  insts  : List Nat
  deriving DecidableEq, Repr

/-- A page transfer in progress or a forwarding stub left behind (R372, R373, R376). -/
structure Stub where
  stk  : Nat
  part : Nat
  gpa  : Nat
  ddev : Nat
  dstk : Nat
  dctx : Nat
  deriving DecidableEq, Repr

/-- A page this device has asked for (R372): requests held until it arrives. -/
structure Pull where
  stk  : Nat
  part : Nat
  gpa  : Nat
  sdev : Nat
  sstk : Nat
  held : List RemReq
  /-- Firings that met the page's MIGRATE fault (R240, R241). -/
  waiters : List (TileId × Nat) := []
  /-- The request at the source; the source has answered that it has been reset (R374). -/
  rid  : Nat := 0
  lost : Bool := false
  deriving DecidableEq, Repr

/-- A repoint in progress (R375 to R377): peers that have not acknowledged. -/
structure RepointSt where
  ctx   : Nat
  msg   : Repoint
  plane : Nat
  peers : List Nat
  sends : Nat
  deriving DecidableEq, Repr

/-- One Kennil link (R383 to R392): both directions as this end sees them. -/
structure Link where
  up      : Bool := false
  peer    : Nat := 0
  stk     : Nat := 0
  wide    : Bool := false
  /-- Receive direction: lanes in the map, erased, parked, map number, consecutive CRC failures by lane. -/
  rxMap   : BitVec 16 := 0
  rxErased : BitVec 16 := 0
  rxParked : BitVec 16 := 0
  rxEpoch : BitVec 8 := 0
  crc     : Tab Nat := []
  rxNext  : Nat := 0
  rxSince : Nat := 0
  /-- Bits of flits not yet complete, by group: how many, their value, and how many of the first cannot be used. -/
  rxBits  : Tab (Nat × Nat × Nat) := []
  /-- Beat periods received, by group; and flits that wait for the other groups to reach their period: none for a lost one (R385). -/
  beatNo  : Tab Nat := []
  deskew  : List (Nat × Option Nat) := []
  /-- Transmit direction. -/
  txMap   : BitVec 16 := 0
  txEpoch : BitVec 8 := 0
  txStop  : Bool := false
  txNext  : Nat := 0
  replay  : List (Nat × BitVec 656) := []
  txQueue : List (BitVec 656) := []
  /-- A MAP has been answered since the LOSS. -/
  mapped  : Bool := false
  nakFrom : Option Nat := none
  /-- A restripe of the receive direction: cycle of the erasure that caused it, lanes proposed, MAPACK received. -/
  restripe : Option (Nat × BitVec 16 × Bool) := none
  /-- A parking (4) or unparking (5) in progress on the receive direction (R392). -/
  planned : Option Nat := none
  /-- The flit number at which a planned map takes effect, as the MAPACK named it. -/
  mapAt   : Nat := 0
  /-- The highest number seen on the receive direction since the last flit taken in order. -/
  rxSeen  : Nat := 0
  /-- Refusals in a row of the flit that comes next (R46). -/
  rxRefused : Nat := 0
  /-- A LOSS received for the transmit direction: the cycle, and the lanes lost (R410, R411). -/
  txLoss  : Option (Nat × BitVec 16) := none
  /-- The other end's number has been confirmed different (R421). -/
  trained : Bool := false
  deriving DecidableEq, Repr

/-- One Kennil plane as a member sees it (R348 to R351, R393 to R395). -/
structure Plane where
  up      : Bool := false
  /-- Device numbers in ring order, and this member's index. -/
  ring    : List Nat := []
  gseq    : BitVec 64 := 0
  /-- Messages handed over and not sent, with a local number, oldest first. -/
  queue   : List (Nat × PFlit) := []
  /-- Messages sent and not delivered here yet: local number, position. -/
  flying  : List (Nat × Nat) := []
  nextMsg : Nat := 0
  /-- This member's last 1024 messages. -/
  history : List PFlit := []
  /-- Deliveries held behind a gap. -/
  pendingDel : List PFlit := []
  gapLast : Option Nat := none
  /-- The cycle at which deliveries stalled on the gap. -/
  gapSince : Nat := 0
  /-- Acknowledgements of REPOINT messages that this member owes (R375). -/
  packs   : List Repoint := []
  repairs : List (Nat × Nat) := []
  holder  : Nat := 0
  resends : Nat := 0
  /-- This member passed the grant and has seen no flit from the named holder yet; the last message position then. -/
  passed  : Option Nat := none
  /-- Members to be named in a LEAVE at this member's next grant. -/
  silent  : List Nat := []
  /-- Lanes lost on this member's receiver, and on its transmitter (R393, R395). -/
  lanesLost : Nat := 0
  txLost    : Nat := 0
  /-- Membership of groups: group number and device (R350). -/
  groups  : List (Nat × Nat) := []
  deriving DecidableEq, Repr

/-- One vertical bus (R396 to R398). -/
structure VBus where
  sbt  : BitVec 32 := 0
  temp : Nat := 0
  since : Nat := 0
  deriving DecidableEq, Repr

-- DESIGN CHOICE, log 9 (unsafe).
/-- A hardware error waiting to strike (R90, R126, R199, R273, R46): unit of R404 and place. It is an input of
the environment, held as data. -/
structure HwErr where
  unit  : Nat
  place : Nat
  deriving DecidableEq, Repr

-- DESIGN CHOICE, log 139 (safe).
/-- What leaves the device. -/
inductive OutMsg
  | request (r : RemOut)
  | answer (dev stk rid : Nat) (a : RemAns)
  | host (ctx kind : Nat) (b : List Byte)
  | mgmt (b : List Byte)
  | control (link : Nat) (ctype : Nat) (lsn : Nat) (lanes : BitVec 16) (epoch : BitVec 8)
  | flit (link : Nat) (lsn : Nat) (f : BitVec 656)
  | planeFlit (plane : Nat) (f : BitVec 672)
  | pull (stk part gpa rid sdev sstk : Nat)
  | page (ddev dstk dctx stk part gpa : Nat) (b : List (Nat × Byte)) (regs : List PageReg)
  | redirect (dev stk rid ddev dstk dctx : Nat)
  | chanBind (dev fctx ctx : Nat)
  | repoint (dev : Nat) (r : Repoint)
  | pack (dev : Nat) (r : Repoint)
  deriving DecidableEq, Repr

/-- The steps that earlier steps schedule. Each runs the meaning of the instruction of the same name. -/
inductive Act
  | loadReturn (t : TileId) (fid rid : Nat) (data : BitVec 512)
  | wtOpenRequest (stk : Nat)
  | winfullTimeout (stk rid : Nat)
  | windowGrant (stk rid : Nat)
  | closeAck (cid : Nat)
  | closeComplete (cid : Nat)
  | omfillReceive (t : TileId) (cmd n : Nat)
  | mmaComplete (t : TileId)
  | copyChunk (t : TileId) (cmd : Nat)
  | copyDone (t : TileId) (cmd : Nat)
  | lcbLoadComplete (t : TileId) (cmd : Nat)
  | levalLayer (t : TileId)
  | resizeComplete (part : Nat)
  | requeue (t : TileId) (fid : Nat)
  | kill (t : TileId) (fid : Nat)
  | commandFailure (t : TileId) (cmd code : Nat)
  | instantiate (inst : Nat)
  | sourceFire (t : TileId) (node tag : Nat)
  | firingRule (t : TileId) (node tag : Nat)
  | resourceGrant (t : TileId)
  | stallWake (t : TileId) (fid : Nat)
  | retire (t : TileId) (fid : Nat)
  | endOfStream (inst : Nat)
  | watchdogExpiry (inst : Nat)
  | routeToken (n : Nat)
  | tokenReceive (n : Nat)
  | tokenResend (n : Nat)
  | reqToken (t : TileId) (node port first count : Nat)
  | halt (t : TileId)
  | haltPoint (t : TileId)
  | node (t : TileId) (node : Nat)
  | streamDone (t : TileId) (node : Nat)
  | mportAccessDone (t : TileId) (node : Nat)
  | mePortFill (t : TileId) (port : Nat)
  | soResidueFault (t : TileId) (node : Nat)
  | launchEligible (ctx queue : Nat)
  | utundPlace (lid ctx : Nat) (image : List Byte)
  | arbitrationPass
  | quantumExpiry (lid ctx stk : Nat)
  | imageSave (ctx lid : Nat)
  | restore (ctx lid : Nat)
  | remtoExpiry (rid : Nat)
  | mtlbinvComplete (stk : Nat)
  | chanBind (t : TileId) (node : Nat)
  | repointTimeout (peer ctx : Nat)
  | grantTimeout (plane : Nat)
  | planeStallTimeout (plane : Nat)
  | ackTimer (link : Nat)
  | replayTimeout (link : Nat)
  | restripeResume (link : Nat)
  | linkDown (link : Nat)
  | vbRetest (stk bus : Nat)
  | vbRetestForced (stk bus : Nat)
  | recordPost (q : QSel)
  | relatch (t : TileId) (node : Nat) (page : Word) (ret : BitVec 24)
  | reconfCtrl (t : TileId) (node port depth : Nat)
  | dhold (inst : Nat)
  | dfree (inst : Nat)
  /-- A page that waits for room in the window table (R296). -/
  | pageInstall (stk part gpa leaf : Nat) (bytes : List (Nat × Byte)) (regs : List PageReg)
  /-- A choice of a REPLAY launch cannot match its log (R408). -/
  | diverged (inst : Nat)
  /-- The plane deliveries that a REPLAY launch's log holds next (R408). -/
  | replayDelivery (ctx lid stk : Nat)
  /-- This member's own message on a plane, as its star coupler brings it back (R348). -/
  | planeDelivery (plane : Nat) (f : BitVec 672)
  /-- The check of the firmware bundle that has arrived (R412, R414). -/
  | bundleCheck
  deriving DecidableEq, Repr

/-- An act due at a cycle of a stack. -/
structure Timer where
  stk : Nat
  due : Nat
  act : Act
  deriving DecidableEq, Repr

end Sys2Proof.Machine
end

