-- ==== Sys2Proof/Machine/State.lean ====
section
/-! DEFINITION. The state of the part, the reasons a step stops, and the state after reset. One module (R2) is
modelled; what reaches it from outside stands in `inputs`, what leaves it in `outbox`. -/

namespace Sys2Proof.Machine

/-- The boot sequence (R412): before it, at the boot endpoint (step 4 done), and running (step 7 done). -/
inductive Boot | off | boot | running
  deriving DecidableEq, Repr

-- DESIGN CHOICE, log 1 (safe).
/-- The machine. -/
structure State where
  /-- The model's own: counts steps, and free values are taken at it. No spec state. -/
  tick    : Nat
  /-- The firing whose word is issuing: its tile and its identity on the tile. -/
  cur     : Option (TileId × Nat)
  acts    : List Act
  timers  : List Timer
  inputs  : List Instr
  outbox  : List OutMsg
  tiles   : Tab Tile
  stks    : Tab Stack
  /-- DRAM and scratch bytes by physical key, canonical: an unlisted byte reads 0 (R290, R287). -/
  mem     : List Host.Cell
  ctxs    : Tab Ctx
  parts   : Tab Part
  mgq     : RQueue
  launches : List Launch
  insts   : List Inst
  cache   : Tab (List PlacedCfg)
  images  : List Image
  /-- Origins at which RECORD launches were admitted, by graph hash: stack, column, row (R314). -/
  origins : List (List Byte × List (Nat × Nat × Nat))
  /-- Next identities of registrations, requests, closes, instances, and of issue ages. -/
  nextId  : Nat
  nextAge : Nat
  closes  : List CloseRec
  remote  : List RemOut
  hostOps : List HostOp
  net     : List NetTok
  /-- Router outputs: grants in a row over a waiting lower priority (R39); those whose hop has failed (R46). -/
  grants  : List (TileId × Hop × Nat)
  badHops : List (TileId × Hop)
  links   : Tab Link
  planes  : Tab Plane
  buses   : Tab VBus
  defects : Tab (BitVec 272)
  stubs   : List Stub
  pulls   : List Pull
  repoints : List RepointSt
  boot    : Boot
  devid   : BitVec 13
  fwver   : BitVec 32
  bundleHash : List Byte
  /-- A firmware bundle that is being checked (R414). -/
  bundle  : Option (List Byte)
  powercap : BitVec 12
  issueK  : Nat
  throttled : Bool
  trip    : Bool
  templim : BitVec 8
  ecc     : Tab (BitVec 32)
  errs    : List HwErr
  /-- The module has been reset since power-up, with its admissions lost (R346). -/
  wasReset : Bool
  deriving DecidableEq, Repr

/-- The canonical form of memory: addresses strictly rising, and no listed byte equal to what an unlisted one reads as. -/
def Memory.wf (m : List Host.Cell) : Bool := tabWf 0 m

/-- Why the model stops at a step. -/
inductive Fault
  /-- Raised by `exec` for an instruction word when no firing is issuing (`cur = none`): there is no frame, no
  program counter and no handler for the word to act on. `step` never raises it. Safe: the part issues words
  only from firings (R233). -/
  | noFiring
  deriving DecidableEq, Repr

/-- Why a step is refused. -/
inductive Refusal
  /-- An instruction without a meaning in the model yet; raised by `exec` only. Safe: nothing is claimed. -/
  | notModelled (mnemonic : String)
  deriving DecidableEq, Repr

-- DESIGN CHOICE, log 5 (safe).
-- DESIGN CHOICE, log 7 (unsafe).
/-- The machine right after reset: no firmware, no configuration, DRAM all zero (R290, R412), registers at the
reset values of R398, R417 to R421; registers without one at the values the log names. -/
def State.reset : State where
  tick := 0
  cur := none
  acts := []
  timers := []
  inputs := []
  outbox := []
  tiles := []
  stks := []
  mem := []
  ctxs := []
  parts := []
  mgq := {}
  launches := []
  insts := []
  cache := []
  images := []
  origins := []
  nextId := 1
  nextAge := 1
  closes := []
  remote := []
  hostOps := []
  net := []
  grants := []
  badHops := []
  links := []
  planes := []
  buses := []
  defects := []
  stubs := []
  pulls := []
  repoints := []
  boot := .off
  devid := 0
  fwver := 0
  bundleHash := []
  bundle := none
  powercap := 3000
  issueK := 16
  throttled := false
  trip := false
  templim := 95
  ecc := []
  errs := []
  wasReset := false

end Sys2Proof.Machine
end

