-- ==== Sys2Proof/Machine/Nodes.lean ====
section
/-! DEFINITION. What a tile's configuration says of its nodes: records, destinations and handler headers (R70 to R75), and the
matching store that indexes the committed tokens of actors (R229). -/

namespace Sys2Proof.Machine

/-! ## Node records (R72 to R75) -/

def Tile.rec_ (x : Tile) (n : Nat) : Nat := (tabGet 0 x.nodes n).toNat
def Tile.bound (x : Tile) (n : Nat) : Bool := (tabFind x.nodes n).isSome
def recKind (r : Nat) : Nat := bitsNat r 95 92
def recSub (r : Nat) : Nat := bitsNat r 91 84
def recDst (r : Nat) (i : Nat) : Nat := if i = 0 then bitsNat r 83 60 else bitsNat r 59 36
def recPull (r : Nat) (i : Nat) : Bool := if i = 0 then r.testBit 35 else r.testBit 34
def recOrd (r : Nat) : Bool := r.testBit 33
def recLit (r : Nat) : Nat := r % 2 ^ 32

/-- A destination field (R73). -/
structure Dest where
  dx   : Nat
  dy   : Nat
  node : Nat
  port : Nat
  deriving DecidableEq, Repr
def readDest (d : Nat) : Option Dest :=
  if d.testBit 23 then
    some { dx := bitsNat d 22 18, dy := bitsNat d 17 14, node := bitsNat d 13 4, port := bitsNat d 3 0 }
  else none

/-! ## Handler headers (R70, R71) -/

def hdrFrame (h : Nat) : Nat := bitsNat h 63 53
def hdrNin (h : Nat) : Nat := bitsNat h 52 50
def hdrNout (h : Nat) : Nat := bitsNat h 49 47
def hdrInRate (h n : Nat) : Nat := bitsNat h (31 + 3 * n) (29 + 3 * n) + 1
def hdrOutRate (h n : Nat) : Nat := bitsNat h (13 + 3 * n) (11 + 3 * n) + 1
def hdrPri (h : Nat) : Nat := bitsNat h 10 9
def hdrReent (h : Nat) : Bool := h.testBit 8
def hdrOrd (h : Nat) : Bool := h.testBit 7
/-- Granules of 16 slots (R71, R231). -/
def hdrGranules (h : Nat) : Nat := (hdrFrame h + 15) / 16

/-- The header of an actor's handler. -/
def Tile.header (x : Tile) (n : Nat) : Nat :=
  match tabFind x.code (recLit (x.rec_ n) % 4096 - 1) with
  | some c => c.word.toNat
  | none => 0
/-- An actor's main record. -/
def Tile.isActor (x : Tile) (n : Nat) : Bool :=
  x.bound n && decide (18 ≤ n) && decide (recKind (x.rec_ n) = 0) && decide (recSub (x.rec_ n) = 0)

/-- The key of a node's port in the edge tables. -/
def portKey (node port : Nat) : Nat := node * 16 + port

/-! ## The matching store (R229) -/

/-- Whether the matching store has an entry for a pair, or one free (R229). -/
def canIndex (m : List (Nat × BitVec 32)) (node : Nat) (tag : BitVec 32) : Bool :=
  m.contains (node, tag) || decide (m.length < 256)
def addIndex (m : List (Nat × BitVec 32)) (node : Nat) (tag : BitVec 32) : List (Nat × BitVec 32) :=
  if m.contains (node, tag) then m else m ++ [(node, tag)]

/-- A token of an actor's port gets an entry, where one is to be had. -/
def indexTok (x : Tile) (key stamp : Nat) (tag : BitVec 32) : Tile :=
  if canIndex x.matching (key / 16) tag then
    let mark := fun (r : FTok) => if r.stamp = stamp ∧ r.tok.tag = tag then { r with indexed := true } else r
    { x with edges := x.edges.map (fun p => if p.1 = key then (p.1, { p.2 with fifo := p.2.fifo.map mark }) else p)
             matching := addIndex x.matching (key / 16) tag }
  else x

/-- The unindexed tokens of actors' ports, as they committed; in one cycle by node, then port. -/
def unindexed (x : Tile) : List (Nat × Nat × BitVec 32) :=
  (x.edges.flatMap (fun p =>
    if x.isActor (p.1 / 16) then (p.2.fifo.filter (fun q => !q.indexed)).map (fun q => (q.stamp, p.1, q.tok.tag)) else [])).mergeSort
    (fun a b => decide (a.1 ≤ b.1))

/-- Entries that no unassigned token needs are freed, and waiting tokens are indexed in commit order (R229). -/
def reindex (x : Tile) : Tile :=
  let used := fun (m : Nat × BitVec 32) =>
    x.edges.any (fun p => decide (p.1 / 16 = m.1) && p.2.fifo.any (fun q => q.indexed && decide (q.tok.tag = m.2)))
  let x := { x with matching := x.matching.filter used }
  (unindexed x).foldl (fun x q => indexTok x q.2.1 q.1 q.2.2) x

end Sys2Proof.Machine
end

