-- ==== Sys2Proof/Machine/Ops.lean ====
section
/-! DEFINITION. The named operations over the machine's state: access to tiles and firings, records, taking a
fault (R238 to R242) and returning from one, the program counter, and the wrapper through which every
instruction word issues (R53, R60, R69, R104). -/

namespace Sys2Proof.Machine

abbrev Outcome := Host.Outcome State Fault Refusal

/-! ## Access -/

def State.tile (s : State) (t : TileId) : Tile := tabGet {} s.tiles (tileKey t)
def State.setTile (s : State) (t : TileId) (x : Tile) : State := { s with tiles := tabSet s.tiles (tileKey t) x }
def State.stack (s : State) (k : Nat) : Stack := tabGet {} s.stks k
def State.setStack (s : State) (k : Nat) (x : Stack) : State := { s with stks := tabSet s.stks k x }
def State.ctx (s : State) (c : Nat) : Ctx := tabGet {} s.ctxs c
def State.setCtx (s : State) (c : Nat) (x : Ctx) : State := { s with ctxs := tabSet s.ctxs c x }
def State.part (s : State) (p : Nat) : Part := tabGet {} s.parts p
def State.setPart (s : State) (p : Nat) (x : Part) : State := { s with parts := tabSet s.parts p x }
def State.inst? (s : State) (i : Nat) : Option Inst := s.insts.find? (fun x => x.id == i)
def State.setInst (s : State) (x : Inst) : State :=
  { s with insts := s.insts.map (fun y => if y.id = x.id then x else y) }
def State.launch? (s : State) (c l : Nat) : Option Launch :=
  s.launches.find? (fun x => x.ctx == c && x.lid == l)
def State.setLaunch (s : State) (x : Launch) : State :=
  { s with launches := s.launches.map (fun y => if y.ctx = x.ctx ∧ y.lid = x.lid then x else y) }
/-- This device's number (R421). -/
def State.dev (s : State) : Nat := s.devid.toNat % 4096

/-- The firing of an identity on a tile. -/
def Tile.firing? (x : Tile) (fid : Nat) : Option Firing := x.firings.find? (fun f => f.id == fid)
def Tile.setFiring (x : Tile) (f : Firing) : Tile :=
  { x with firings := x.firings.map (fun y => if y.id = f.id then f else y) }
def Tile.dropFiring (x : Tile) (fid : Nat) : Tile :=
  { x with firings := x.firings.filter (fun y => y.id != fid) }

def State.firing? (s : State) (t : TileId) (fid : Nat) : Option Firing := (s.tile t).firing? fid
def State.setFiring (s : State) (t : TileId) (f : Firing) : State := s.setTile t ((s.tile t).setFiring f)

/-- Schedules a step after those already scheduled. -/
def State.later (s : State) (a : Act) : State := { s with acts := s.acts ++ [a] }
def State.laterAll (s : State) (l : List Act) : State := { s with acts := s.acts ++ l }
def State.send (s : State) (m : OutMsg) : State := { s with outbox := s.outbox ++ [m] }
/-- Schedules a step at a cycle of a stack. -/
def State.at_ (s : State) (stk due : Nat) (a : Act) : State :=
  { s with timers := s.timers ++ [{ stk := stk, due := due, act := a }] }
/-- The same, in place of an earlier one of the same step. -/
def State.rearm (s : State) (stk due : Nat) (a : Act) : State :=
  { s with timers := s.timers.filter (fun t => t.act != a) ++ [{ stk := stk, due := due, act := a }] }
/-- A fresh identity. -/
def State.fresh (s : State) : Nat × State := (s.nextId, { s with nextId := s.nextId + 1 })

/-- The context and partition a firing belongs to. -/
def State.ctxOf (s : State) (f : Firing) : Nat := match s.inst? f.inst with | some i => i.ctx | none => 0
def State.partOfCtx (s : State) (c : Nat) : Nat := (s.ctx c).part.getD 0

/-- FIRID of a firing (R112). -/
def firidOf (f : Firing) : Word := BitVec.ofNat 64 (f.count.toNat * 2 ^ 32 + f.entry)

/-! ## Bytes -/

-- DEDUCED, log 151 (unsafe).
/-- n bytes at a key of physical memory, least significant first (R5, R290). -/
def memBytes (m : List Host.Cell) (k : Nat) : Nat → List Byte
  | 0 => []
  | n + 1 => tabGet 0 m k :: memBytes m (k + 1) n

/-- A number from n bytes of memory. -/
def memNat (m : List Host.Cell) (k n : Nat) : Nat := wordOfBytes (memBytes m k n)

/-- Bytes written upward from a key; a zero byte is not listed (the canonical form). -/
def memPutBytes (m : List Host.Cell) (k : Nat) : List Byte → List Host.Cell
  | [] => m
  | b :: r => memPutBytes (tabPut 0 m k b) (k + 1) r

/-- The field of `size` bytes at byte `off` of a byte list. -/
def leField (l : List Byte) (off size : Nat) : Nat := wordOfBytes ((l.drop off).take size)

/-- A field of a record under construction: value at a byte offset. -/
def fld (off size v : Nat) : Nat := v % 2 ^ (8 * size) * 2 ^ (8 * off)

/-! ## Records (R401 to R404, R420) -/

def FCode.num : FCode → Nat
  | .illegal => 0x01
  | .slot => 0x02
  | .window => 0x03
  | .race => 0x04
  | .winfull => 0x05
  | .align => 0x06
  | .xlate => 0x07
  | .xlate2 => 0x08
  | .owner => 0x09
  | .perm => 0x0A
  | .opplane => 0x0B
  | .omslot => 0x0C
  | .engine => 0x0D
  | .wave => 0x0E
  | .token => 0x0F
  | .fabric => 0x10
  | .parity => 0x11
  | .residue => 0x12
  | .deadlock => 0x13
  | .trap => 0x14
  | .brk => 0x15

/-- What a record's header says of its source (R401). -/
structure RecSrc where
  tile  : TileId
  entry : Option Nat
  ctx   : Nat
  deriving DecidableEq, Repr

/-- The SRC field. -/
def srcField (r : RecSrc) : Nat :=
  r.tile.stk % 4 * 2 ^ 14 + r.tile.x % 32 * 2 ^ 9 + r.tile.y % 16 * 2 ^ 5 + (r.entry.getD 0) % 32

/-- The first six bytes of a header, as a number. -/
def recHeader (s : State) (type code : Nat) (r : RecSrc) : Nat :=
  fld 0 1 type + fld 1 1 code + fld 2 2 (srcField r) +
  fld 4 2 (r.ctx % 1024 + s.partOfCtx r.ctx % 16 * 2 ^ 10 + (if r.entry.isSome then 2 ^ 15 else 0))

def State.queue (s : State) : QSel → RQueue
  | .ev c => (s.ctx c).evq
  | .hv p k => tabGet {} (s.part p).hvq k
  | .mg => s.mgq
def State.setQueue (s : State) (q : QSel) (x : RQueue) : State :=
  match q with
  | .ev c => s.setCtx c { s.ctx c with evq := x }
  | .hv p k => s.setPart p { s.part p with hvq := tabSet (s.part p).hvq k x }
  | .mg => { s with mgq := x }

/-- A record joins a queue with its number (QSEQ); RECORD_POST writes it. A queue that is not enabled passes it to
the management queue with its header unchanged (R420). -/
def State.post (s : State) (q : QSel) (body : Nat) : State :=
  let x := s.queue q
  let b := bytesOf 64 (body + fld 6 2 (x.head.toNat + x.waiting.length))
  let q' : QSel := if x.en || q = .mg then q else .mg
  let y := s.queue q'
  (s.setQueue q' { y with waiting := y.waiting ++ [b] }).later (.recordPost q')

/-- Cycle counter of a stack (R113). -/
def State.cyc (s : State) (stk : Nat) : Nat := (s.stack stk).cyc % 2 ^ 64

/-- COURSE values (R403). -/
inductive Course | aborted | suspended | retried | discarded | halted | none
  deriving DecidableEq, Repr
def Course.num : Course → Nat
  | .aborted => 0
  | .suspended => 1
  | .retried => 2
  | .discarded => 3
  | .halted => 4
  | .none => 5

/-- The FAULT record (R403). -/
def faultRecord (s : State) (r : RecSrc) (fi : FInfo) (word pc node tag : Nat) (c : Course) (attempt : Nat) : Nat :=
  recHeader s 1 fi.code.num r + fld 8 8 (s.cyc r.tile.stk) + fld 0x10 24 fi.detail + fld 0x28 8 word +
  fld 0x30 2 pc + fld 0x32 2 node + fld 0x34 4 tag + fld 0x38 1 c.num + fld 0x39 1 attempt + fld 0x3A 2 s.dev +
  fld 0x3C 4 fi.cmd

/-- A MIGRATE fault starts a pull of its page when none is in progress (R372). -/
def startPull (s : State) (p : Option (Nat × Nat × Nat × Nat × Nat)) : State :=
  match p with
  | none => s
  | some (stk, part, gpa, sdev, sstk) =>
    if s.pulls.any (fun x => x.stk == stk && x.part == part && x.gpa == gpa) then s
    else
      let (rid, s) := s.fresh
      State.send { s with pulls := s.pulls ++ [{ stk := stk, part := part, gpa := gpa, sdev := sdev, sstk := sstk, held := [], rid := rid }] }
        (.pull stk part gpa rid sdev sstk)

/-- Sends a fault record to the queues of R238: XLATE2 to the hypervisor queue alone (of
another device where the owner is there: partition 16 stands for that); PARITY and RESIDUE with a
copy to the management queue. -/
def postFault (s : State) (ctx : Nat) (fi : FInfo) (body : Nat) : State :=
  match fi.hv with
  | some (p, k) => if p < 16 then s.post (.hv p k) body else s
  | none =>
    let s := startPull (s.post (.ev ctx) body) fi.pull
    if fi.code = .parity ∨ fi.code = .residue then s.post .mg body else s

-- DEDUCED, log 143 (unsafe).
/-- A fault record that no firing raises: of a node, a tile, a token or a host operation (R46, R273). -/
def postNodeFault (s : State) (t : TileId) (ctx : Nat) (fi : FInfo) (node tag : Nat) (c : Course) : State :=
  postFault s ctx fi (faultRecord s { tile := t, entry := none, ctx := ctx } fi 0 0 node tag c 0)

/-! ## Keys of physical memory -/

-- DESIGN CHOICE, log 166 (unsafe).
def dramKey (stk pa : Nat) : Nat := stk * 2 ^ 49 + pa % 2 ^ 49
def scratchBase : Nat := 2 ^ 52
def scratchKey (stk bank byte : Nat) : Nat := scratchBase + (stk * 256 + bank) * 2 ^ 21 + byte
def isScratch (k : Nat) : Bool := decide (scratchBase ≤ k) && decide (k < 2 ^ 80)
def stackOfKey (k : Nat) : Nat := if isScratch k then (k - scratchBase) / 2 ^ 21 / 256 else k / 2 ^ 49
def bankOfKey (k : Nat) : Nat := (k - scratchBase) / 2 ^ 21 % 256
/-- The key by which a line of another device is known here: its owner's route and the offset asked for. -/
def awayKey (dev dstk rctx off : Nat) : Nat := 2 ^ 80 + ((dev * 4 + dstk) * 1024 + rctx) * 2 ^ 49 + off
def isAway (k : Nat) : Bool := decide (2 ^ 80 ≤ k)
def awayDev (k : Nat) : Nat := (k - 2 ^ 80) / 2 ^ 49 / 4096
def awayStk (k : Nat) : Nat := (k - 2 ^ 80) / 2 ^ 49 / 1024 % 4
def awayCtx (k : Nat) : Nat := (k - 2 ^ 80) / 2 ^ 49 % 1024
def awayOff (k : Nat) : Nat := (k - 2 ^ 80) % 2 ^ 49
/-! ## Leaving a firing's work: abort (R239), and what an abort, a kill and a retire share -/

/-- Registrations of one firing leave every window table (R157, R239). -/
def dropRegs (s : State) (t : TileId) (fid : Nat) : State :=
  { s with stks := s.stks.map (fun p => (p.1, { p.2 with
      regs := p.2.regs.filter (fun r => r.holder != .firing t fid)
      waits := p.2.waits.filter (fun w => !(match w.who with
        | .window t' f' _ => t' == t && f' == fid
        | .command t' f' _ => t' == t && f' == fid
        | _ => false)) })) }

/-- The message that ends a registration at another device, without a publication (R157, R178). -/
def releaseMsg (a : AwayReg) : OutMsg :=
  .request { rid := a.rid, stk := a.stk, ctx := a.ctx, dev := awayDev a.key, dstk := awayStk a.key, rctx := awayCtx a.key
             va := 0, off := awayOff a.key, key := a.key, who := .pull a.stk 0 0
             req := { kind := .publish, addr := 0, size := 0, val := BitVec.ofNat 1024 a.rid, cmp := 0, sg := false
                      mask := 0 }
             isOpen := false, openW := false, rowb := 0, pitch := 0, rows := 0, due := 0 }
-- DESIGN CHOICE, log 51 (unsafe).
def releaseAway (s : State) (l : List AwayReg) : State := l.foldl (fun s a => s.send (releaseMsg a)) s

/-- Registrations by stack and identity leave the tables. -/
def dropRanges (s : State) (l : List (Nat × Nat)) : State :=
  l.foldl (fun s p => s.setStack p.1 { s.stack p.1 with regs := (s.stack p.1).regs.filter (fun r => r.wid != p.2) }) s

/-- The ranges of a command that does not start (R178, R220). -/
def dropGranted (s : State) (f : Firing) : State :=
  match f.granted with
  | none => s
  | some (l, a) => releaseAway (dropRanges s l) a

/-- Registrations at other devices that are asked for and not yet answered. -/
def opensAsked (s : State) (who : RemFor → Bool) : List AwayReg :=
  (s.remote.filter (fun r => r.isOpen && r.sent && who r.who)).map (fun r =>
    { stk := r.stk, ctx := r.ctx, key := awayKey r.dev r.dstk r.rctx r.off, rid := r.rid })
/-- An open of a firing, for a window or for a command's range. -/
def RemFor.opensFor (t : TileId) (fid : Nat) : RemFor → Bool
  | .window t' f' _ => t' == t && f' == fid
  | .range t' f' _ => t' == t && f' == fid
  | _ => false

/-- A firing's windows and waiting ranges at other devices end (R157, R239); what it still waits for is not awaited. -/
def dropAway (s : State) (t : TileId) (ctx : Nat) (f : Firing) : State :=
  let s := releaseAway s (opensAsked s (RemFor.opensFor t f.id))
  let s := releaseAway s (((s.tile t).cmds.filter (fun c => c.owner == f.id)).flatMap (fun c =>
    match c.kind with | .oload _ _ _ _ _ _ => c.away | _ => []))
  let s := releaseAway s ((f.wins.filter (fun w => w.2.remote)).map (fun w =>
    { stk := t.stk, ctx := ctx, key := w.2.key, rid := w.2.wid }))
  { s with remote := s.remote.filter (fun r => match r.who with
      | .window t' f' _ => !(t' == t && f' == f.id)
      | .range t' f' _ => !(t' == t && f' == f.id)
      | .load t' f' => !(t' == t && f' == f.id)
      | .sync t' f' => !(t' == t && f' == f.id)
      | .fill t' f' => !(t' == t && f' == f.id)
      | .prefetch t' f' => !(t' == t && f' == f.id)
      | _ => true) }

/-- Waiting opens are tried again when entries leave a table (R154). -/
def retryOpens (s : State) : State :=
  s.laterAll ((s.stks.filter (fun p => !p.2.waits.isEmpty)).map (fun p => Act.wtOpenRequest p.1))

/-- Reservations of one firing leave the memory tiles (R161). -/
def dropResv (s : State) (t : TileId) (fid : Nat) : State :=
  { s with stks := s.stks.map (fun p => (p.1, { p.2 with
      resvs := p.2.resvs.filter (fun r => r.2.1 != .firing t fid) })) }

/-- Tokens taken by RECV return to the head of their FIFO, in order (R181), and are indexed again (R229). -/
def returnRecv (x : Tile) (f : Firing) : Tile :=
  reindex (f.recvd.reverse.foldl (fun x (p : Nat × Token) =>
    let k := f.node * 16 + p.1
    match tabFind x.edges k with
    | some e => { x with edges := tabSet x.edges k { e with fifo := { tok := p.2, indexed := false } :: e.fifo } }
    | none => x) x)

/-- The evaluations of a firing go on without a reader (R181); one that has failed ends. -/
def orphanEvals (l : Lcb) (fid : Nat) : Lcb :=
  { l with
    job := match l.job with
      | some j => if j.owner = fid then (if j.failed then none else some { j with orphan := true }) else some j
      | none => none
    queue := l.queue.map (fun q => match q with
      | .eval j => .eval (if j.owner = fid then { j with orphan := true } else j)
      | q => q) }

/-- An evaluation at which its firing still stands is taken back from the block: another command of the firing has failed, and its
fault is reported at this boundary (R242). -/
def withdrawEval (x : Tile) (fid : Nat) : Tile :=
  if x.firings.any (fun f => decide (f.id = fid) && decide (f.wait = .leval)) then
    let mine := fun (j : LevalJob) => decide (j.owner = fid) && !j.settled && !j.orphan
    { x with
      lcb := { x.lcb with
        job := x.lcb.job.filter (fun j => !mine j)
        queue := x.lcb.queue.filter (fun q => match q with | .eval j => !mine j | _ => true) }
      firings := x.firings.map (fun f => if f.id = fid then { f with st := .running, wait := .none } else f) }
  else x

-- DEDUCED, log 42 (unsafe).
/-- Engine state of a firing that is aborted (R181): claims undone, fills cancelled, ABRT set for banks its MMAs
add into, lookup evaluations left without a reader. -/
def abortEngines (x : Tile) (f : Firing) : Tile :=
  let fills := (x.cmds.filter (fun c => c.owner == f.id && (c.st == .running || c.st == .queued))).filterMap
    (fun c => match c.kind with | .oload o _ _ _ _ _ => some o | _ => none)
  let om := x.om.map (fun p =>
    if p.2.claimed && p.2.owner == some f.id then (p.1, ({} : OmSlot))
    else if fills.contains p.1 || p.2.armed == some f.id then
      (p.1, { p.2 with nplanes := 0, filling := false, planes := [], ws := 0, wu := 0, armed := none, got := 0 })
    else p)
  { x with
    om := om
    me := { x.me with abrt := x.me.abrt ||| f.banks }
    lcb := orphanEvals x.lcb f.id
    cmds := x.cmds.filter (fun c => !(c.owner == f.id &&
      (decide (c.st = .failed) || (match c.kind with | .oload _ _ _ _ _ _ => true | _ => false)))) }

/-- A firing with none of its work: it keeps its identity, inputs, reservations and retry count. -/
def Firing.clean (f : Firing) (st : FSt) (w : Wait) : Firing :=
  { f with
    st := st, wait := w, held := false, failed := none, pc := 0, frame := 0, slots := [], preds := 0, loops := []
    rstack := [], fpf := 0, ppr := 0, wins := [], closing := [], resv := none, steer := [], waveLast := none
    pend := [], granted := none, fetched := [], reeval := none, banks := 0, out := [], exitStatus := none, recvd := [], committed := false, retried := false, rstep := 0
    fromDrain := false, resend := none, spilled := [], unreached := none, cause := none, debug := false }

/-- The launch identities an abort frees (R116) are not reused; the held launches are gone with `out`. The abort
of R239: the firing keeps its inputs, reservations and retry count. -/
def abortFiring (s : State) (t : TileId) (f : Firing) (cause : FCode) (retries : Nat) : State :=
  let s := dropAway (dropResv (dropRegs s t f.id) t f.id) t (s.ctxOf f) f
  let x := s.tile t
  let x := abortEngines (returnRecv x f) f
  let x := { x with
    store := x.store.filter (fun e => e.owner != f.id)
    tagP := tabSet x.tagP f.node (tabGet 0 x.tagP f.node ||| f.cleared) }
  let f' := { f.clean .aborted (.cause cause) with retries := retries, cleared := 0 }
  (retryOpens (s.setTile t (x.setFiring f'))).later (.resourceGrant t)

/-! ## Taking a fault -/

/-- The class of a code (R238). -/
inductive FClass | waits | retries | program
  deriving DecidableEq, Repr
def classOf (fi : FInfo) : FClass :=
  match fi.code with
  | .xlate => .waits
  | .xlate2 => .waits
  | .fabric => .waits
  | .winfull => .waits
  | .parity => .retries
  | .residue => if fi.poison then .program else .retries
  | _ => .program

/-- The word at a firing's program counter, for its record. -/
def wordAt (s : State) (t : TileId) (pc : Nat) : Nat :=
  match tabFind (s.tile t).code pc with
  | some c => c.word.toNat
  | none => 0

/-- The evaluation of a firing that has failed in flight (R284). -/
def failedEval (x : Tile) (fid : Nat) : Option LevalJob :=
  match x.lcb.job with
  | some j => if j.failed ∧ j.owner = fid then some j else none
  | none => none

/-- The firing stands at the faulting instruction (R241); a fault clears the reservation (R161). An evaluation that failed leaves
the block, to be made again when the firing resumes. -/
def suspendFiring (s : State) (t : TileId) (f : Firing) : State :=
  let x := s.tile t
  let j := failedEval x f.id
  let s := if j.isSome then s.setTile t { x with lcb := { x.lcb with job := none } } else s
  (dropResv s t f.id).setFiring t
    { f with st := .suspended, wait := .none, held := false, resv := none, reeval := if j.isSome then j else f.reeval,
             fromDrain := f.fromDrain || decide (f.st = .draining) }

/-- An evaluation as it is made again, from its binding step, with the AC and the bindings it had. -/
def LevalJob.again (j : LevalJob) : LevalJob := { j with next := 0, bound := false, failed := false }
/-- A command as it is made again (R241): what FABRIC left unacknowledged is sent again, else its chunk is fetched anew (R347). -/
def Cmd.again (c : Cmd) : Cmd :=
  { c with st := if c.sent.isSome then .running else .queued, fault := none, asked := [], lines := [] }

/-- Whether what meets a PARITY or RESIDUE has been made again once: a command, an evaluation, or the word at pc (R238). -/
def triedAgain (x : Tile) (f : Firing) (fi : FInfo) : Bool :=
  match x.cmds.find? (fun c => decide (c.id = fi.cmd) && decide (c.owner = f.id)), failedEval x f.id with
  | some c, _ => c.retried
  | none, some j => j.retried
  | none, none => f.retried

/-- It is made again at once (R238). A failure of another command that has not been reported is next. -/
def tryAgain (s : State) (t : TileId) (f : Firing) (fi : FInfo) : State :=
  let x := s.tile t
  match x.cmds.find? (fun c => decide (c.id = fi.cmd) && decide (c.owner = f.id)), failedEval x f.id with
  | some c, _ =>
    let l := x.cmds.map (fun d => if d.id = c.id then { c.again with retried := true } else d)
    let next := (l.find? (fun d => decide (d.owner = f.id) && decide (d.st = .failed))).bind (fun d => d.fault)
    (s.setTile t { x with cmds := l }).setFiring t { f with failed := next }
  | none, some j => (s.setTile t { x with lcb := { x.lcb with job := some { j.again with retried := true } } }).setFiring t f
  | none, none => s.setFiring t { f with retried := true, resv := none }

-- DEDUCED, log 57 (unsafe).
/-- A firing that met a MIGRATE fault is looked at when the page has come (R240, R372). -/
def awaitPage (s : State) (t : TileId) (fid : Nat) (p : Option (Nat × Nat × Nat × Nat × Nat)) : State :=
  match p with
  | none => s
  | some (stk, part, gpa, _, _) =>
    { s with pulls := s.pulls.map (fun x =>
        if x.stk = stk ∧ x.part = part ∧ x.gpa = gpa then { x with waiters := x.waiters ++ [(t, fid)] } else x) }

/-- TAKING A FAULT of a firing, the one shared course of R238: the record is posted, and the firing is aborted,
retried or suspended by the fault's class and its commit state. -/
def takeFault (s : State) (t : TileId) (f : Firing) (fi : FInfo) : State :=
  let ctx := s.ctxOf f
  let s := dropGranted s f
  let s := if fi.poison then
      let x := s.tile t
      s.setTile t { x with me := { x.me with owing := tabDel x.me.owing (fi.detail / 2 ^ 64) } }
    else s
  let f := { f with granted := none, fetched := [], failed := none, spilled := [], unreached := none, cause := some fi.code }
  let src : RecSrc := { tile := t, entry := some f.entry, ctx := ctx }
  let rec_ := fun (c : Course) (n : Nat) =>
    awaitPage (postFault s ctx fi (faultRecord s src fi (wordAt s t f.pc) f.pc f.node f.tag.toNat c n)) t f.id fi.pull
  match classOf fi with
  | .program => suspendFiring (rec_ .suspended 0) t f
  | .waits =>
    if f.committed then suspendFiring (rec_ .suspended 0) t f
    else
      let s := abortFiring (rec_ .aborted 0) t f fi.code f.retries
      if fi.code = .winfull then s.later (.requeue t f.id) else s
  | .retries =>
    if f.committed then
      if triedAgain (s.tile t) f fi then suspendFiring (rec_ .suspended 1) t f
      else tryAgain (dropResv (rec_ .retried 0) t f.id) t { f with resv := none, cause := none } fi
    else if 2 ≤ f.retries then suspendFiring (rec_ .suspended f.retries) t f
    else (abortFiring (rec_ .aborted f.retries) t f fi.code (f.retries + 1)).later (.requeue t f.id)

/-! ## Issue -/

/-- Why a form does not complete now: a fault, or a condition it waits for at issue. -/
inductive Stop
  | fault (f : FInfo)
  | hold
  deriving DecidableEq, Repr

abbrev Ex (α : Type) := Except Stop α

def raise {α : Type} (c : FCode) (detail : Nat := 0) : Ex α := .error (.fault { code := c, detail := detail })
def hold {α : Type} : Ex α := .error .hold
/-- A check: the fault unless the condition holds. -/
def unless_ (b : Bool) (c : FCode) (detail : Nat := 0) : Ex Unit := if b then .ok () else raise c detail
/-- A wait at issue unless the condition holds. -/
def waitFor (b : Bool) : Ex Unit := if b then .ok () else hold

/-- The value of a predicate; p0 is 1 (R51). -/
def Firing.pred (f : Firing) (p : BitVec 3) : Bool :=
  decide (p = 0#3) || f.preds.getLsbD p.toNat
def Firing.setPred (f : Firing) (p : BitVec 3) (v : Bool) : Firing :=
  { f with preds := if v then f.preds ||| BitVec.ofNat 8 (2 ^ p.toNat)
                    else f.preds &&& ~~~(BitVec.ofNat 8 (2 ^ p.toNat)) }
/-- The guard of R53. -/
def Firing.guard (f : Firing) (g : BitVec 4) : Bool :=
  (f.pred (g.extractLsb' 0 3)) != (g.getLsbD 3)

/-- A slot's value; a slot nothing has written reads zero (R231). -/
def Firing.slot (f : Firing) (d : Nat) : Word := tabGet 0 f.slots d
def Firing.setSlot (f : Firing) (d : Nat) (v : Word) : Firing := { f with slots := tabPut 0 f.slots d v }
/-- k slots of 64 bits from a slot upward as one number, and their write (R122). -/
def Firing.slotsNat (f : Firing) (d : Nat) : Nat → Nat
  | 0 => 0
  | k + 1 => (f.slot d).toNat + 2 ^ 64 * Firing.slotsNat f (d + 1) k
def Firing.setSlotsNat (f : Firing) (d v : Nat) : Nat → Firing
  | 0 => f
  | k + 1 => Firing.setSlotsNat (f.setSlot d (BitVec.ofNat 64 v)) (d + 1) (v / 2 ^ 64) k
/-- An octet (R51, R122). -/
def Firing.octet (f : Firing) (q : BitVec 7) : Nat := f.slotsNat (8 * q.toNat) 8
def Firing.setOctet (f : Firing) (q : BitVec 7) (v : Nat) : Firing := f.setSlotsNat (8 * q.toNat) v 8

/-- A slot whose write is still to come. -/
def Firing.isPending (f : Firing) (d : Nat) : Bool :=
  f.pend.any (fun p => decide (p.d ≤ d) && decide (d < p.d + p.n))

/-- The first slot of a list beyond the frame (R52). -/
def beyond (frame : Nat) : List Nat → Option Nat
  | [] => none
  | d :: r => if d < frame then beyond frame r else some d

/-- Every slot a word names is in the frame, else SLOT; and none has a write to come, else the word waits (R52,
R53). -/
def need (f : Firing) (l : List Nat) : Ex Unit :=
  match beyond f.frame l with
  | some d => raise .slot d
  | none => if l.any f.isPending then hold else .ok ()

/-- The slots of an octet. -/
def octSlots (q : BitVec 7) : List Nat := (List.range 8).map (fun i => 8 * q.toNat + i)
def sl (d : BitVec 10) : List Nat := [d.toNat]

/-- Active loops whose last word is `pc`, innermost first: a later first word lies further inside (R105). -/
def endingLoops (f : Firing) (pc : Nat) : List (Nat × LoopCtr) :=
  (f.loops.filter (fun p => p.2.last == pc)).mergeSort (fun a b => decide (b.2.first ≤ a.2.first))

-- DEDUCED, log 18 (unsafe).
/-- The end of a loop body (R104, R105): the inner loop first; a loop that ends lets the next outer one be
looked at. -/
def loopEnds (f : Firing) : List (Nat × LoopCtr) → Nat → Firing
  | [], next => { f with pc := next }
  | (n, l) :: r, next =>
    if l.index + 1 < l.bound then
      { f with loops := tabSet f.loops n { l with index := l.index + 1 }, pc := l.first, waveLast := none }
    else loopEnds { f with loops := tabDel f.loops n, waveLast := none } r next

/-- The program counter after a word that does not transfer (R104). -/
def Firing.advance (f : Firing) : Firing :=
  let f := { f with fetched := [], retried := false, spilled := [] }
  loopEnds f (endingLoops f f.pc) (f.pc + 1)

/-- X of a wave member (R404). -/
def waveBits (w : Wave) : Nat := (waveX w).toNat

/-- The check of R60. -/
def waveOkAfter (l : Option Wave) (m : Wave) : Bool :=
  match l with
  | none => decide (m.pred = 0x3E#6) || decide (m.pred = 0x3F#6)
  | some l =>
    decide (l.succ ≠ 0x3E#6) &&
    (decide (l.succ = 0x3F#6) || decide (l.succ = m.seq)) &&
    (decide (m.pred = 0x3F#6) || decide (m.pred = l.seq)) &&
    !(decide (m.pred = 0x3F#6) && decide (l.succ = 0x3F#6)) &&
    decide (l.seq.toNat < m.seq.toNat)

-- DEDUCED, log 15 (unsafe).
/-- The check as a form makes it: WAVE with the two members' fields (R404). -/
def waveCheck (f : Firing) (m : Wave) : Ex Unit :=
  unless_ (waveOkAfter f.waveLast m) .wave
    (waveBits m + (match f.waveLast with | some l => waveBits l | none => 2 ^ 32 - 1) * 2 ^ 32)

/-- How a word stands to its wave (R58, R59). -/
inductive WaveRole
  | plain
  | member (w : Wave)
  | boundary
  deriving DecidableEq, Repr

/-- The wave record after a word. -/
def Firing.afterWave (f : Firing) : WaveRole → Firing
  | .plain => f
  | .member w => { f with waveLast := some w }
  | .boundary => { f with waveLast := none }

/-- A hardware error that strikes a unit of a tile, and the state with it spent (R90, R126). -/
def State.struck (s : State) (unit place : Nat) : Bool := s.errs.contains { unit := unit, place := place }
def State.spend (s : State) (unit place : Nat) : State := { s with errs := s.errs.erase { unit := unit, place := place } }

-- DEDUCED, log 33 (unsafe).
/-- The DETAIL bytes of PARITY and RESIDUE (R404). -/
def unitDetail (unit addr : Nat) : Nat := unit + addr * 2 ^ 64

/-- What a word's body may do to the state, before its program counter moves. -/
structure Done where
  s : State
  f : Firing
  /-- The program counter has been set. -/
  moved : Bool := false
  /-- The firing has been dealt with in the state itself: a fault was taken after an effect that stands. -/
  lost : Bool := false
  deriving DecidableEq, Repr

/-- Issue of one word of the firing `f` on tile `t` (R53, R62, R68, R69): `legal` is the part of the decode check that
needs the handler at hand and holds whatever the guard; guarded off, only the wave check remains; a form that
meets a fault takes it, one that waits is marked and changes nothing else. -/
def issueOn (t : TileId) (f : Firing) (g : BitVec 4) (role : WaveRole) (legal : Bool) (body : Ex Done)
    (s : State) : State :=
  if legal = false then takeFault s t f { code := .illegal }
  else if f.guard g = false then
    match role with
    | .member w =>
      match waveCheck f w with
      | .error (.fault fi) => takeFault s t f fi
      | .error .hold => s.setFiring t { f with held := true }
      | .ok _ => s.setFiring t ((f.afterWave role).advance)
    | _ => s.setFiring t (f.afterWave role).advance
  else
    match body with
    | .error (.fault fi) => takeFault s t f fi
    | .error .hold => s.setFiring t { f with held := true }
    | .ok d =>
      if d.lost then d.s
      else if d.moved then d.s.setFiring t (d.f.afterWave role)
      else d.s.setFiring t (d.f.afterWave role).advance

-- DESIGN CHOICE, log 4 (safe).
/-- The issuing firing, or the model's fault when there is none. -/
def withFiring (s : State) (k : TileId → Firing → State) : Outcome :=
  match s.cur with
  | none => .fault .noFiring
  | some (t, fid) =>
    match s.firing? t fid with
    | none => .fault .noFiring
    | some f => .next (k t f)

/-- Issue of a word whose body needs the state. -/
def issue (g : BitVec 4) (role : WaveRole) (legal : State → TileId → Firing → Bool)
    (body : State → TileId → Firing → Ex Done) (s : State) : Outcome :=
  withFiring s (fun t f => issueOn t f g role (legal s t f) (body s t f) s)

/-- No check beyond those of the word. -/
def always (_ : State) (_ : TileId) (_ : Firing) : Bool := true

/-- Issue of a word that changes its firing only, with the arithmetic unit whose residue check covers its result
(R90, R126): on a mismatch the result is not written. -/
def issueReg (g : BitVec 4) (unit : Nat) (body : Firing → Ex Firing) (s : State) : Outcome :=
  withFiring s (fun t f =>
    match body f with
    | .error e => issueOn t f g .plain true (.error e) s
    | .ok f' =>
      if s.struck unit (tileKey t) && f.guard g then
        issueOn t f g .plain true (.error (.fault { code := .residue, detail := unitDetail unit (tileKey t) }))
          (s.spend unit (tileKey t))
      else issueOn t f g .plain true (.ok { s := s, f := f' }) s)

/-- No residue unit. -/
def noUnit : Nat := 0

/-! ## Throttling (R417, R418) -/

/-- The issue fraction of a stack: 1 while it is above TEMPLIM. -/
def State.issueFraction (s : State) (stk : Nat) : Nat := if (s.stack stk).hot then 1 else s.issueK

-- DEDUCED, log 133 (unsafe).
/-- An MMA, LEVAL or copy form of a user tile issues only in the first k cycles of each 16-cycle period of its stack's cycle
counter (R417). -/
def throttleOpen (s : State) (t : TileId) : Bool :=
  decide (t.x = 0) || decide (16 ≤ s.issueFraction t.stk) || decide ((s.stack t.stk).cyc % 16 < s.issueFraction t.stk)

/-! ## Waking -/

/-- Every stalled firing of a tile looks at its condition again (R235). -/
def wakeTile (s : State) (t : TileId) : State :=
  s.laterAll (((s.tile t).firings.filter (fun f => f.st == .stalled)).map (fun f => Act.stallWake t f.id))

/-- The tile of a key. -/
def tileOfKey (k : Nat) : TileId := { stk := k / 272, x := k / 16 % 17, y := k % 16 }

/-- Every stalled firing of the device. -/
def wakeAll (s : State) : State :=
  s.tiles.foldl (fun s p => wakeTile s (tileOfKey p.1)) s

end Sys2Proof.Machine
end

