-- ==== Sys2Proof/Machine/Operands.lean ====
section
/-! DEFINITION. The operand forms: shape octets, octet pairs, addresses, values as they enter slots (R101, R122, R142,
R145, R147). -/

namespace Sys2Proof.Machine

/-- The units of R404 that check results. -/
def unitInt : Nat := 4
def unitFloat : Nat := 5

/-- The slots of the first m dimensions of a shape octet (R101). -/
def shapeSlots (q : BitVec 7) (m : Nat) : List Nat := (List.range m).map (fun i => 8 * q.toNat + i)
def shapeWords (f : Firing) (q : BitVec 7) (m : Nat) : List Word := (shapeSlots q m).map f.slot
/-- Sixteen slots of an octet pair (R142). -/
def pairSlots (q : BitVec 7) : List Nat := (List.range 16).map (fun i => 8 * q.toNat + i)

/-- ea of R145. -/
def effAddr (f : Firing) (src : BitVec 10) (off : BitVec 10) (scale : Nat) : Nat :=
  toBits 64 ((f.slot src.toNat).toNat + sextInt off.toNat 10 * (scale : Int))

/-- How a value enters its slots (R147, R122). -/
def landValue (f : Firing) (how : PendHow) (d v : Nat) : Firing :=
  match how with
  | .zext b => f.setSlot d (BitVec.ofNat 64 (v % 2 ^ (8 * b)))
  | .sext b => f.setSlot d (BitVec.ofNat 64 (toBits 64 (sextInt v (8 * b))))
  | .octet => f.setSlotsNat d v 8
  | .status => f.setSlot d (BitVec.ofNat 64 v)
  | .plane => f.setSlot d (BitVec.ofNat 64 v)

/-! ## Ports of the handler -/

/-- A port of the handler that a word names (R65): below NIN or NOUT, else ILLEGAL at decode. -/
def inPortOk (p : BitVec 3) (s : State) (t : TileId) (f : Firing) : Bool :=
  decide (p.toNat < hdrNin ((s.tile t).header f.node))
def outPortOk (p : BitVec 3) (s : State) (t : TileId) (f : Firing) : Bool :=
  decide (p.toNat < hdrNout ((s.tile t).header f.node))

/-- The control region is column 0 (R2, R63). -/
def isControl (t : TileId) : Bool := decide (t.x = 0)
def inControl (_ : State) (t : TileId) (_ : Firing) : Bool := isControl t

/-! ## Plain reads of more than one slot -/

/-- The instance of a firing. -/
def instOf (s : State) (f : Firing) : Option Inst := s.inst? f.inst

end Sys2Proof.Machine
end

