-- ==== Sys2Proof/Machine/Translate.lean ====
section
/-! DEFINITION. Addresses: the owner map, the scratch aperture, the two-stage walk and its faults (R145, R291, R331
to R342), and what a translation leaves behind: the dirty bit, its log and a cached step. -/

namespace Sys2Proof.Machine

/-- KIND of R342. -/
inductive AccKind | load | store | atomic | range | mport | host
  deriving DecidableEq, Repr
-- DEDUCED, log 145 (unsafe).
def AccKind.num : AccKind → Nat
  | .load => 0
  | .store => 1
  | .atomic => 2
  | .range => 3
  | .mport => 4
  | .host => 5

/-- An access as it reaches translation: the stack and context of its agent, the instance whose scratch it may
name, whether it needs W (R338), its address. -/
structure Access where
  stk   : Nat
  ctx   : Nat
  inst  : Option Nat
  kind  : AccKind
  write : Bool
  va    : Nat
  deriving DecidableEq, Repr

/-- Where an address lies: on this device, or at another device's stack, in the space of a context there. -/
inductive Place
  | here (p : XPage)
  | away (dev dstk rctx off : Nat)
  deriving DecidableEq, Repr

/-! ## Places as keys -/

def Place.key : Place → Nat
  | .here p => p.key
  | .away d k c o => awayKey d k c o

/-! ## Page tables (R334 to R337) -/

def tblIndex (a lvl : Nat) : Nat :=
  if lvl = 1 then a / 2 ^ 42 % 128 else if lvl = 2 then a / 2 ^ 29 % 8192 else a / 2 ^ 16 % 8192

def entryAddr (e : Nat) : Nat := bitsNat e 48 16 * 2 ^ 16

/-- Malformed entries with V = 1 (R335). -/
def malformed (stage lvl e : Nat) : Bool :=
  decide (bitsNat e 63 49 ≠ 0) || decide (bitsNat e 15 8 ≠ 0) || decide (bitsNat e 5 4 ≠ 0) ||
  (e.testBit 1 && decide (lvl = 1)) || (!e.testBit 1 && decide (lvl = 3)) ||
  (e.testBit 1 && decide (lvl = 2) && decide (bitsNat e 28 16 ≠ 0)) ||
  (decide (stage = 1) && (e.testBit 6 || e.testBit 7)) ||
  (decide (stage = 2) && ((!e.testBit 1 && e.testBit 6) || e.testBit 7))

/-- A failed walk: the stage as R342 codes it, the level, the cause, the GPA it concerns, the source of a migrating
page. -/
structure WalkErr where
  stage : Nat
  lvl   : Nat
  cause : Nat
  gpa   : Nat
  mig   : Option (Nat × Nat)
  deriving DecidableEq, Repr

structure Leaf where
  e    : Nat
  base : Nat
  size : Nat
  at_  : Nat
  deriving DecidableEq, Repr

/-- What an entry says at a level: a fault, a leaf, or the next table. -/
inductive EntryRes
  | err (cause : Nat) (mig : Option (Nat × Nat))
  | leaf (base size : Nat)
  | table (t : Nat)
  deriving DecidableEq, Repr
def readEntry (stage lvl e : Nat) : EntryRes :=
  if !e.testBit 0 then
    if stage = 2 ∧ e.testBit 7 then .err 3 (some (bitsNat e 27 16, bitsNat e 29 28)) else .err 1 none
  else if malformed stage lvl e then .err 2 none
  else if e.testBit 1 then
    if lvl = 2 then .leaf (entryAddr e) (2 ^ 29) else .leaf (entryAddr e) (2 ^ 16)
  else .table (entryAddr e)

/-- The stage-2 walk from table `t`, with `n` levels left. -/
def walk2 (m : List Host.Cell) (stk a : Nat) : Nat → Nat → Except WalkErr Leaf
  | 0, _ => .error { stage := 2, lvl := 3, cause := 2, gpa := a, mig := none }
  | n + 1, t =>
    let lvl := 3 - n
    let p := dramKey stk (t + 8 * tblIndex a lvl)
    let e := memNat m p 8
    match readEntry 2 lvl e with
    | .err c g => .error { stage := 2, lvl := lvl, cause := c, gpa := a, mig := g }
    | .leaf b z => .ok { e := e, base := b, size := z, at_ := p }
    | .table t' => walk2 m stk a n t'

/-- A stage-2 walk from the partition's root (R336). -/
def stage2 (m : List Host.Cell) (stk root2 a : Nat) : Except WalkErr Leaf :=
  if root2.testBit 0 then walk2 m stk a 3 (entryAddr root2)
  else .error { stage := 2, lvl := 1, cause := 6, gpa := a, mig := none }

/-- The stage-1 walk from the table page `t`, a GPA. -/
def walk1 (m : List Host.Cell) (stk root2 a : Nat) : Nat → Nat → Except WalkErr Leaf
  | 0, _ => .error { stage := 1, lvl := 3, cause := 2, gpa := 0, mig := none }
  | n + 1, t =>
    let lvl := 3 - n
    match stage2 m stk root2 t with
    | .error x => .error { x with stage := 3, gpa := t }
    | .ok l =>
      let p := dramKey stk (l.base + t % l.size + 8 * tblIndex a lvl)
      let e := memNat m p 8
      match readEntry 1 lvl e with
      | .err c g => .error { stage := 1, lvl := lvl, cause := c, gpa := 0, mig := g }
      | .leaf b z => .ok { e := e, base := b, size := z, at_ := p }
      | .table t' => walk1 m stk root2 a n t'

/-! ## Faults (R341, R342) -/

/-- The DETAIL bytes of a translation fault. -/
def xDetail (va gpa cause level stage kind ctx odev : Nat) : Nat :=
  fld 0 8 va + fld 8 8 gpa + fld 16 1 cause + fld 17 1 level + fld 18 1 stage + fld 19 1 kind + fld 20 2 ctx +
  fld 22 2 odev

/-- Whether the stack route table reaches a device (R38). -/
def routed (s : State) (stk dev : Nat) : Bool := (tabFind (s.stack stk).routes dev).isSome

-- DESIGN CHOICE, log 26 (safe).
/-- FABRIC of an access (R342, R346): where no cause is stated its byte is free. -/
def fabricInfo (s : State) (va kind ctx dev : Nat) (cause : Option Nat) : FInfo :=
  { code := .fabric, detail := xDetail va 0 (cause.getD (Config.freeWord s.tick).toNat)
      (Config.freeWord s.tick / 256).toNat (Config.freeWord s.tick / 65536).toNat kind ctx dev }

-- DESIGN CHOICE, log 25 (unsafe).
/-- OWNER and the PERM of a scratch address: R342 gives no CAUSE, LEVEL or STAGE to the first and no STAGE to the
second, so those bytes are free. -/
def ownerFault (s : State) (a : Access) : FInfo :=
  { code := .owner, detail := xDetail a.va 0 (Config.freeWord s.tick).toNat (Config.freeWord s.tick / 256).toNat
      (Config.freeWord s.tick / 65536).toNat a.kind.num a.ctx s.dev }
def scratchFault (s : State) (a : Access) : FInfo :=
  { code := .perm, detail := xDetail a.va 0 4 0 (Config.freeWord s.tick).toNat a.kind.num a.ctx s.dev }

/-- The fault of a failed walk: stage 1 XLATE, stage 2 XLATE2 to the hypervisor queue, a migrating page XLATE with a
pull. -/
def walkFault (s : State) (stk part ctx va kind : Nat) (x : WalkErr) : FInfo :=
  if x.cause = 3 then
    { code := .xlate, detail := xDetail va 0 3 x.lvl x.stage kind ctx s.dev
      pull := x.mig.map (fun g => (stk, part, x.gpa / 2 ^ 16 * 2 ^ 16, g.1, g.2)) }
  else if x.stage = 1 then { code := .xlate, detail := xDetail va 0 x.cause x.lvl 1 kind ctx s.dev }
  else { code := .xlate2, detail := xDetail va x.gpa x.cause x.lvl x.stage kind ctx s.dev, hv := some (part, stk) }

/-- A physical address lies in the partition's DRAM range on a stack (R329, R338). -/
def Part.owns (p : Part) (stk pa : Nat) : Bool :=
  let st := p.dram.toNat / 2 ^ (16 * stk) % 256
  let ln := p.dram.toNat / 2 ^ (16 * stk + 8) % 256
  decide (st * 2 ^ 29 ≤ pa) && decide (pa < (st + ln) * 2 ^ 29)

/-- A cached translation that serves an access (R337): a write needs D cached as 1. -/
def MtlbEntry.serves (e : MtlbEntry) (part ctx off : Nat) (write : Bool) : Bool :=
  decide (e.part = part) && decide (e.ctx = ctx) && decide (e.off ≤ off) && decide (off < e.off + e.len) &&
  e.r1 && e.r2 && (!write || (e.w1 && e.w2 && e.dirty))

-- DEDUCED, log 23 (safe).
-- DESIGN CHOICE, log 24 (unsafe).
/-- Translation at the owner stack, in the space of context `ctx` (R337 to R339): the cached step where the MTLB
still holds one, else the walk. With either root disabled nothing is served (R336); an offset past bit 48 is one of the
scratch aperture, which another stack's space has not (R291). -/
def ownerXlate (s : State) (stk ctx off : Nat) (write : Bool) (va kind : Nat) : Except FInfo XPage :=
  let part := s.partOfCtx ctx
  let pt := s.part part
  let root1 := (tabGet 0 (s.ctx ctx).s1root stk).toNat
  let root2 := (tabGet 0 pt.s2root stk).toNat
  let serving := fun (e : MtlbEntry) =>
    root1.testBit 0 && root2.testBit 0 && e.serves part ctx off write && Config.mtlbHit (s.tick * 2 ^ 49 + off)
  if 2 ^ 49 ≤ off then
    .error { code := .perm, detail := xDetail va 0 4 0 (Config.freeWord s.tick).toNat kind ctx s.dev }
  else
    match (s.stack stk).mtlb.find? serving with
    | some e => .ok { stk := stk, key := dramKey stk (e.pa + (off - e.off)), off := off - e.off, size := e.len
                      gpa := e.gpa, leaf := none, step := none }
    | none =>
      if !root1.testBit 0 then
        .error (walkFault s stk part ctx va kind { stage := 1, lvl := 1, cause := 6, gpa := 0, mig := none })
      else
        match walk1 s.mem stk root2 off 3 (entryAddr root1) with
        | .error x => .error (walkFault s stk part ctx va kind x)
        | .ok l1 =>
          let gpa := l1.base + off % l1.size
          if !(l1.e.testBit 2 && (!write || l1.e.testBit 3)) then
            .error { code := .perm, detail := xDetail va 0 4 0 1 kind ctx s.dev }
          else
            match stage2 s.mem stk root2 gpa with
            | .error x => .error (walkFault s stk part ctx va kind x)
            | .ok l2 =>
              let pa := l2.base + gpa % l2.size
              let bad := fun c => FInfo.mk .xlate2 (xDetail va gpa c 0 2 kind ctx s.dev) (some (part, stk)) none false 0
              if !(l2.e.testBit 2 && (!write || l2.e.testBit 3)) then .error (bad 4)
              else if !pt.owns stk pa then .error (bad 5)
              else
                let z := Nat.min l1.size l2.size
                let o := off % z
                .ok { stk := stk, key := dramKey stk pa, off := o, size := z, gpa := gpa - o
                      leaf := if write && !l2.e.testBit 6 then some l2.at_ else none
                      step := some { part := part, ctx := ctx, off := off - o, len := z, gpa := gpa - o, pa := pa - o
                                     w1 := l1.e.testBit 3, r1 := l1.e.testBit 2, w2 := l2.e.testBit 3
                                     r2 := l2.e.testBit 2, dirty := write || l2.e.testBit 6, l1 := l1.size, l2 := l2.size } }

/-- The scratch aperture (R291): `o` is the offset in the instance's scratch. -/
def scratchPage (i : Inst) (o : Nat) : Option XPage :=
  let c := i.sways * 131072
  if c = 0 ∨ c * (i.w * i.h) ≤ o then none
  else
    let n := o / c
    let b := 16 * (i.ox + n / i.h - 1) + (i.oy + n % i.h)
    some { stk := i.stk, key := scratchKey i.stk b (o % c), off := o % 65536, size := 65536, gpa := 0
           leaf := none, step := none }

def State.omapEntry (s : State) (ctx n : Nat) : Nat := (tabGet 0 (s.ctx ctx).omap n).toNat

/-- The source of a page that has no owner any more (R374): one still to come from a device that no route reaches, or that has been reset. -/
def lostSource (s : State) (e : FInfo) : Option Nat :=
  match e.pull with
  | some (stk, part, gpa, d, _) =>
    if (decide (d ≠ s.dev) && !routed s stk d) ||
        s.pulls.any (fun x => decide (x.stk = stk) && decide (x.part = part) && decide (x.gpa = gpa) && x.lost) then some d else none
  | none => none

/-- Translation for an agent of this device: a page without an owner is FABRIC with CAUSE 6 (R374). -/
def agentXlate (s : State) (stk ctx off : Nat) (write : Bool) (va kind : Nat) : Except FInfo XPage :=
  match ownerXlate s stk ctx off write va kind with
  | .ok p => .ok p
  | .error e =>
    match lostSource s e with
    | some d => .error (fabricInfo s va kind ctx d (some 6))
    | none => .error e

/-- Where an address lies, or the first fault of R341. -/
def locate (s : State) (a : Access) : Except FInfo Place :=
  if a.va / 2 ^ 56 ≠ 0 then .error (ownerFault s a)
  else
    let lown := a.va / 2 ^ 50 % 64
    let scr := a.va.testBit 49
    let off := a.va % 2 ^ 49
    if lown = 63 then
      if scr then
        match a.inst.bind s.inst? with
        | some i => match scratchPage i off with | some p => .ok (.here p) | none => .error (scratchFault s a)
        | none => .error (scratchFault s a)
      else (agentXlate s a.stk a.ctx off a.write a.va a.kind.num).map .here
    else
      let e := s.omapEntry a.ctx lown
      if !e.testBit 31 then .error (ownerFault s a)
      else if scr then .error (scratchFault s a)
      else
        let dev := bitsNat e 27 16
        let stk := bitsNat e 15 14
        if dev = s.dev then (agentXlate s stk a.ctx off a.write a.va a.kind.num).map .here
        else .ok (.away dev stk (bitsNat e 9 0) off)

/-- As an exception of a form. -/
def locateX (s : State) (a : Access) : Ex Place :=
  match locate s a with
  | .error f => .error (.fault f)
  | .ok p => .ok p

end Sys2Proof.Machine
end

