-- ==== Sys2Proof/Machine/Home.lean ====
section
/-! DEFINITION. What a home does: every write of memory, with the reservations it breaks and the DRAM contents it
covers (R161, R167, R289), sync accesses and atomics (R159, R164, R300), the dirty bit and its log (R339, R369). -/

namespace Sys2Proof.Machine

/-! ## Homes -/

/-- Columns of a partition on a stack, as column number − 1 (R329). -/
def Part.colsOn (p : Part) (stk : Nat) : List Nat := (List.range 16).filter (fun c => p.cols.getLsbD (16 * stk + c))
def Part.banksOn (p : Part) (stk : Nat) : List Nat :=
  (p.colsOn stk).flatMap (fun c => (List.range 16).map (fun y => 16 * c + y))

/-- The bank of the home memory tile of a key (R288, R291). -/
def homeBank (s : State) (k : Nat) : Nat :=
  if isScratch k then bankOfKey k
  else
    let stk := k / 2 ^ 49
    let pa := k % 2 ^ 49
    let l := pa / 128
    match s.parts.find? (fun p => p.2.exist && p.2.owns stk pa) with
    | none => l % 256
    | some p =>
      let b := p.2.banksOn stk
      if b.length = 0 then l % 256
      else b.getD (Nat.xor (Nat.xor l (l / 2 ^ 11)) (l / 2 ^ 22) % b.length) 0

/-- A line of DRAM may have a copy in its home bank's cache ways: its partition has a bank on the stack, and the home bank is not
wholly scratch (R285, R288, R289). -/
def cached (s : State) (k : Nat) : Bool :=
  !isScratch k &&
  (match s.parts.find? (fun p => p.2.exist && p.2.owns (k / 2 ^ 49) (k % 2 ^ 49)) with
   | none => false
   | some p => !(p.2.banksOn (k / 2 ^ 49)).isEmpty &&
      (match tabFind (s.stack (k / 2 ^ 49)).banks (homeBank s k) with | some b => decide (b.2 < 16) | none => true))

-- DEDUCED, log 171 (unsafe).
/-- The owner tag of a scratch bank lets a write beat of a context pass (R285, R358). -/
def beatOk (s : State) (ctx k : Nat) : Bool :=
  !isScratch k || (tabFind (s.stack (stackOfKey k)).banks (bankOfKey k)).any (fun b => b.1 == ctx)

/-! ## Writing at a home -/

/-- The bytes of `data` chosen by `mask`, below the n-th, written from a key upward. -/
def maskPut (m : List Host.Cell) (k data mask : Nat) : Nat → List Host.Cell
  | 0 => m
  | n + 1 =>
    let m' := maskPut m k data mask n
    if mask.testBit n then tabPut 0 m' (k + n) (BitVec.ofNat 8 (data / 2 ^ (8 * n))) else m'

/-- A granule of a line with a written byte. -/
def granuleHit (line mask g : Nat) : Bool :=
  decide (g / 128 = line / 128) && decide (mask / 2 ^ (g % 128) % 256 ≠ 0)

/-- The vertical bus that serves a key of DRAM, and whether it has failed (R396, R397). -/
def busOf (k : Nat) : Nat := k / 2 ^ 49 * 128 + k % 2 ^ 49 / 2 ^ 29 % 128
-- DEDUCED, log 131 (unsafe).
def busFailed (s : State) (k : Nat) : Bool := !isScratch k && decide ((tabGet {} s.buses (busOf k)).sbt.toNat / 2 ^ 30 = 3)

/-- A write that a failed bus drops is recorded in the management queue (R396). -/
def dropWrite (s : State) (line : Nat) : State :=
  s.post .mg (faultRecord s { tile := { stk := stackOfKey line, x := 0, y := 0 }, entry := none, ctx := 0 }
    { code := .parity, detail := unitDetail 10 line } 0 0 0 0 .discarded 0)

/-- A masked write of one line at its home, seen by every later access: reservations on its granules end, and the DRAM
contents under a line that becomes dirty in a cache way are kept. -/
def writeMasked (s : State) (line data mask : Nat) : State :=
  if mask = 0 then s
  else if busFailed s line then dropWrite s line
  else
    let stk := stackOfKey line
    let x := s.stack stk
    { s.setStack stk { x with
        resvs := x.resvs.filter (fun r => !granuleHit line mask r.2.2)
        dirty := if (tabFind x.dirty line).isSome || !cached s line then x.dirty
                 else tabSet x.dirty line (BitVec.ofNat 1024 (memNat s.mem line 128)) }
      with mem := maskPut s.mem line data mask 128 }

/-- Bytes within one line, written at their home. -/
def homeWrite (s : State) (k : Nat) (b : List Byte) : State :=
  let o := k % 128
  writeMasked s (k - o) (wordOfBytes b * 2 ^ (8 * o)) ((2 ^ b.length - 1) * 2 ^ o)

/-- Bytes that run over several lines of one page. -/
def homeWriteAll : Nat → State → Nat → List Byte → State
  | 0, s, _, _ => s
  | n + 1, s, k, b =>
    if b.isEmpty then s
    else
      let r := 128 - k % 128
      homeWriteAll n (homeWrite s k (b.take r)) (k + r) (b.drop r)

/-! ## Reservations (R161) -/

/-- A holder's reservation leaves the tables. -/
def dropHolder (s : State) (h : Holder) : State :=
  { s with stks := s.stks.map (fun p => (p.1, { p.2 with resvs := p.2.resvs.filter (fun r => r.2.1 != h) })) }

/-- A reservation enters the table of its memory tile; the 65th evicts the oldest. -/
def setResv (s : State) (h : Holder) (g : Nat) : State :=
  let s := dropHolder s h
  let b := homeBank s g
  let stk := stackOfKey g
  let x := s.stack stk
  let old := x.resvs.filter (fun r => r.1 == b)
  let keep := match old with
    | e :: _ => if 64 ≤ old.length then x.resvs.erase e else x.resvs
    | [] => x.resvs
  s.setStack stk { x with resvs := keep ++ [(b, h, g)] }

def hasResv (s : State) (h : Holder) (g : Nat) : Bool :=
  (s.stack (stackOfKey g)).resvs.any (fun r => r.2.1 == h && r.2.2 == g)

/-! ## Sync accesses and atomics at the home (R159, R164) -/

/-- The new value of an atomic; `n` is the size in bits. -/
def atomicNew (k : HomeKind) (sg : Bool) (n old x cmp : Nat) : Nat :=
  match k with
  | .aadd => (old + x) % 2 ^ n
  | .aand => Nat.land old x
  | .aor => Nat.lor old x
  | .axor => Nat.xor old x
  | .amin => if sg then (if sextInt old n ≤ sextInt x n then old else x) else Nat.min old x
  | .amax => if sg then (if sextInt x n ≤ sextInt old n then old else x) else Nat.max old x
  | .axchg => x
  | .acas => if old = cmp then x else old
  | _ => old

/-- A line's dirty cache copy has been written back: DRAM holds what every access reads (R167). -/
def clean (s : State) (line : Nat) : State :=
  let k := stackOfKey line
  s.setStack k { s.stack k with dirty := tabDel (s.stack k).dirty line }

/-- A request performed at its home, in one step (R300): what changes and what it answers. -/
def homeOp (s : State) (who : Option Holder) (r : HomeReq) : State × RemAns :=
  let old := memNat s.mem r.addr r.size
  let n := 8 * r.size
  let x := r.val.toNat % 2 ^ n
  let g := r.addr / 8 * 8
  let put := fun (s : State) (v : Nat) => homeWrite s r.addr (bytesOf r.size v)
  let line := r.addr / 128 * 128
  match r.kind with
  | .load => (s, .data (BitVec.ofNat 1024 old))
  | .ldx => (match who with | some h => setResv s h g | none => s, .data (BitVec.ofNat 1024 old))
  | .store => (put s x, .data 0)
  | .stx =>
    match who with
    | some h => if hasResv s h g then (put (dropHolder s h) x, .data 0) else (dropHolder s h, .stxFail)
    | none => (s, .stxFail)
  | .publish => (writeMasked s line r.val.toNat r.mask.toNat, .data 0)
  | .pflush => (clean s line, .data 0)
  | .pclean => (clean s line, .data 0)
  | .pinv =>
    let k := stackOfKey line
    match tabFind (s.stack k).dirty line with
    | none => (s, .data 0)
    | some d =>
      (clean (if Config.writtenBack s.tick then s else writeMasked s line d.toNat (2 ^ 128 - 1)) line, .data 0)
  | .wqry => (s, .data 0)
  | .bind => (s, .data 0)
  | .probe => (s, .data 0)
  | k => (put s (atomicNew k r.sg n old x (r.cmp.toNat % 2 ^ n)), .data (BitVec.ofNat 1024 old))

/-! ## What a translation leaves behind (R339, R369) -/

/-- An entry of the dirty-page log. -/
def dlogAppend (s : State) (stk ctx gpa : Nat) : State :=
  let p := s.partOfCtx ctx
  let pt := s.part p
  let lr := tabGet {} pt.dlog stk
  if !(lr.en && (tabGet 0 pt.dlogctx (stk * 16 + ctx / 64)).getLsbD (ctx % 64)) then s
  else if (lr.head - lr.tail).toNat = lr.size.toNat then
    s.setPart p { pt with dlog := tabSet pt.dlog stk { lr with ovf := true } }
  else
    let k := dramKey stk (entryAddr lr.base.toNat + 8 * (lr.head.toNat % lr.size.toNat))
    let e := stk % 4 * 2 ^ 62 + ctx % 1024 * 2 ^ 52 + gpa / 2 ^ 16 % 2 ^ 33 * 2 ^ 16 + 1
    (homeWrite s k (bytesOf 8 e)).setPart p { pt with dlog := tabSet pt.dlog stk { lr with head := lr.head + 1 } }

/-- The use of a translated page: its step is cached, its D bit set and logged. -/
def noteUse (s : State) (p : XPage) : State :=
  match p.step with
  | none => s
  | some e =>
    let x := s.stack p.stk
    let l := x.mtlb.filter (fun q => !(q.part == e.part && q.ctx == e.ctx && q.off == e.off))
    let s := s.setStack p.stk { x with mtlb := l ++ [e] }
    match p.leaf with
    | none => s
    | some k =>
      let s := homeWrite s k [BitVec.ofNat 8 (memNat s.mem k 1) ||| 0x40#8]
      dlogAppend s p.stk e.ctx e.gpa

def notePlace (s : State) : Place → State
  | .here p => noteUse s p
  | .away _ _ _ _ => s

end Sys2Proof.Machine
end

