-- ==== Sys2Proof/Machine/Windows.lean ====
section
/-! DEFINITION. Access windows and engine ranges: their rectangles, the window table of the owner stack, conflicts
line by line, grants and closes (R148 to R158, R178, R296); the store buffer and its spills (R149, R150); the remote
data cache (R293, R294); requests that leave the device (R346, R347). -/

namespace Sys2Proof.Machine

/-! ## Rectangles (R152) -/

/-- The first covered byte at or above an address. -/
def Rect.next (r : Rect) (a : Nat) : Option Nat :=
  if r.rows = 0 ∨ r.rowb = 0 then none
  else if a ≤ r.base then some r.base
  else if r.rows = 1 ∨ r.pitch = 0 then (if a < r.base + r.rowb then some a else none)
  else
    let n := (a - r.base) / r.pitch
    if r.rows ≤ n then none
    else if (a - r.base) % r.pitch < r.rowb then some a
    else if n + 1 < r.rows then some (r.base + (n + 1) * r.pitch)
    else none

def Rect.covers (r : Rect) (a : Nat) : Bool := r.next a == some a
/-- A line holds a covered byte. -/
def Rect.touches (r : Rect) (line : Nat) : Bool :=
  match r.next line with | some b => decide (b < line + 128) | none => false
/-- The covered bytes of a line, as a mask. -/
def Rect.mask (r : Rect) (line : Nat) : Nat → Nat
  | 0 => 0
  | n + 1 => r.mask line n + (if r.covers (line + n) then 2 ^ n else 0)
def Rect.last (r : Rect) : Nat := r.base + (r.rows - 1) * r.pitch + r.rowb - 1

/-- The first covered byte of several rectangles at or above an address. -/
def areaNext (l : List Rect) (a : Nat) : Option Nat :=
  l.foldl (fun (m : Option Nat) r => match m, r.next a with
    | some x, some y => some (Nat.min x y)
    | none, y => y
    | x, none => x) none
def areaTouches (l : List Rect) (line : Nat) : Bool := l.any (fun r => r.touches line)
-- DEDUCED, log 30 (unsafe).
def areaBase (l : List Rect) : Nat := (areaNext l 0).getD 0

/-- The end of the run of covered bytes that holds a covered address. -/
def Rect.runEnd (r : Rect) (a : Nat) : Nat :=
  if r.rows ≤ 1 ∨ r.pitch = 0 then r.base + r.rowb else r.base + (a - r.base) / r.pitch * r.pitch + r.rowb

def Window.rect (w : Window) : Rect := { base := w.base.toNat, rowb := w.rowb, pitch := w.pitch, rows := w.rows }

/-- The firing's own windows cover every one of n bytes, by windows of mode W where asked (R148). -/
def covered (f : Firing) (va n : Nat) (needW : Bool) : Bool :=
  (List.range n).all (fun i => f.wins.any (fun w => (!needW || w.2.w) && w.2.rect.covers (va + i)))

/-- The firing's windows cover every byte of an area, by windows of mode W where asked (R178): run by run. -/
def insideFrom (f : Firing) (needW : Bool) (l : List Rect) : Nat → Nat → Bool
  | 0, _ => false
  | n + 1, cur =>
    match areaNext l cur with
    | none => true
    | some a =>
      match f.wins.find? (fun w => (!needW || w.2.w) && w.2.rect.covers a) with
      | none => false
      | some w =>
        let ends := (l.filter (fun r => r.covers a)).map (fun r => r.runEnd a)
        insideFrom f needW l n (ends.foldl Nat.min (w.2.rect.runEnd a))
def inside (f : Firing) (needW : Bool) (l : List Rect) : Bool :=
  insideFrom f needW l (((l ++ f.wins.map (fun w => w.2.rect)).map (fun r => r.rows)).foldl (· + ·) 0 + l.length + 2) 0

/-- A registration touches a physical line. -/
def Reg.touches (r : Reg) (line : Nat) : Bool :=
  r.pages.any (fun p => decide (p.pa ≤ line) && decide (line < p.pa + p.len) &&
    areaTouches r.area (p.va + (line - p.pa)))

/-- The first line at or above `cur` that a registration touches within one of its pages. -/
def Reg.nextLine (r : Reg) (p : RegPage) (cur : Nat) : Option Nat :=
  match areaNext r.area (p.va + (cur - p.pa)) with
  | none => none
  | some b => if b < p.va + p.len then some ((p.pa + (b - p.va)) / 128 * 128) else none

/-- Two registrations touch a common line below `hi`, from `cur` on. -/
def meet (a b : Reg) (x y : RegPage) (hi : Nat) : Nat → Nat → Bool
  | 0, _ => false
  | n + 1, cur =>
    match a.nextLine x cur, b.nextLine y cur with
    | some u, some v =>
      if u = v then decide (u < hi)
      else if hi ≤ Nat.max u v then false
      else meet a b x y hi n (Nat.max u v)
    | _, _ => false

def meetPages (a b : Reg) (x y : RegPage) : Bool :=
  let lo := Nat.max x.pa y.pa
  let hi := Nat.min (x.pa + x.len) (y.pa + y.len)
  decide (lo < hi) && meet a b x y hi ((hi - lo) / 128 + 1) lo

/-- R153: different holders, a common physical line, at least one W. -/
def conflicts (a b : Reg) : Bool :=
  decide (a.holder ≠ b.holder) && (a.w || b.w) &&
  a.pages.any (fun x => b.pages.any (fun y => meetPages a b x y))

/-! ## Registration (R152 to R154, R178) -/

/-- The pages a rectangle touches, in ascending address, each translated in turn; `more` is the fault of a 257th. -/
def collectPages (s : State) (a : Access) (r : List Rect) (more : FInfo) :
    Nat → Nat → List (Nat × XPage) → Except FInfo (List (Nat × XPage))
  | 0, cur, acc => match areaNext r cur with | none => .ok acc.reverse | some _ => .error more
  | n + 1, cur, acc =>
    match areaNext r cur with
    | none => .ok acc.reverse
    | some b =>
      match locate s { a with va := b } with
      | .error f => .error f
      | .ok (.away _ _ _ _) => .error more
      | .ok (.here p) => collectPages s a r more n (b - p.off + p.size) ((b - p.off, p) :: acc)

def regPage (q : Nat × XPage) : RegPage :=
  { va := q.1, len := q.2.size, pa := q.2.key - q.2.off, gpa := q.2.gpa }

/-- Entries of the window table in use (R296). -/
def wtUsed (x : Stack) : Nat := (x.regs.map (fun r => r.pages.length)).foldl (· + ·) 0

def raceInfo (va ctx : Nat) (o : Reg) : FInfo :=
  { code := .race, detail := fld 0 8 va +
      fld 8 1 ((if o.ctx = ctx then 0 else 1) + (if o.range then 2 else 0)) }

def firstConflict (s : State) (stk : Nat) (r : Reg) : Option Reg := (s.stack stk).regs.find? (conflicts r)

/-- A range that is to be registered: where it lies and the pages found, or the route of a range of another device. -/
inductive Claim
  | here (stk : Nat) (r : Reg) (uses : List XPage)
  | away (dev dstk rctx off : Nat) (w : Bool) (r : List Rect)
  deriving DecidableEq, Repr

/-- A rectangle's claim on the window table of its owner, or the first translation fault (R178, R341). -/
def claim (s : State) (a : Access) (holder : Holder) (range : Bool) (wid : Nat) (r : List Rect) (more : FInfo) :
    Except FInfo Claim :=
  match locate s { a with va := areaBase r } with
  | .error f => .error f
  | .ok (.away d k c o) => .ok (.away d k c o a.write r)
  | .ok (.here p0) =>
    match collectPages s a r more 256 0 [] with
    | .error f => .error f
    | .ok l =>
      .ok (.here p0.stk { wid := wid, holder := holder, range := range, ctx := a.ctx, w := a.write
                          area := r, pages := l.map regPage, closing := false }
        (l.map (·.2)))

/-- The registrations of claims on tables of this device, each with its stack, and the pages they use. -/
def claimRegs (l : List Claim) : List (Nat × Reg) :=
  l.filterMap (fun c => match c with | .here k r _ => some (k, r) | .away _ _ _ _ _ _ => none)
def claimUses (l : List Claim) : List XPage :=
  l.flatMap (fun c => match c with | .here _ _ u => u | .away _ _ _ _ _ _ => [])

/-- The first registration that meets a conflict, and with what. -/
def regsConflict (s : State) (l : List (Nat × Reg)) : Option (Reg × Reg) :=
  l.findSome? (fun p => (firstConflict s p.1 p.2).map (fun o => (p.2, o)))

/-- The tables have the entries that registrations need. -/
def regsFit (s : State) (l : List (Nat × Reg)) : Bool :=
  (List.range 4).all (fun k =>
    decide (wtUsed (s.stack k) + ((l.filter (fun p => p.1 == k)).map (fun p => p.2.pages.length)).foldl (· + ·) 0 ≤ 4096))

/-- Registrations enter their tables, each at its owner's stack; their pages are marked as used (R339); a replayed open that
waited for their holder is looked at (R408). -/
def enterRegs (s : State) (l : List (Nat × Reg)) (uses : List XPage) : State :=
  let s := l.foldl (fun s p => s.setStack p.1 { s.stack p.1 with regs := (s.stack p.1).regs ++ [p.2] }) (uses.foldl noteUse s)
  s.laterAll ((s.stks.filter (fun p => p.2.waits.any (fun w => w.winner.isSome))).map (fun p => Act.wtOpenRequest p.1))

/-- A request waits for entries (R154): at most 4096 cycles; or, in a replay, for the holder it has lost to (R408). It stands in the
order of the first stack that it asks. -/
def queueOpen (s : State) (rid : Nat) (who : WtFor) (l : List (Nat × Reg)) (uses : List XPage) (winner : Option Nat) : State :=
  let stk := match l.head? with | some p => p.1 | none => 0
  let due := s.cyc stk + 4096
  let w : WtReq := { rid := rid, who := who, regs := l, uses := uses, due := due, decided := false, winner := winner }
  let s := s.setStack stk { s.stack stk with waits := (s.stack stk).waits ++ [w] }
  if winner.isSome then s else s.at_ stk due (.winfullTimeout stk rid)

def winfullInfo (va n : Nat) : FInfo := { code := .winfull, detail := fld 0 8 va + fld 8 8 n }

/-- A sync access or atomic meets an open window or range (R159, R165). -/
def windowTouched (s : State) (key : Nat) : Option Reg :=
  (s.stack (stackOfKey key)).regs.find? (fun r => r.touches (key / 128 * 128))

/-! ## The remote data cache (R293, R294) -/

def rdcFind (s : State) (stk ctx line : Nat) : Option RdcLine :=
  ((s.stack stk).rdc.find? (fun l => l.ctx == ctx && l.key == line))
def rdcFilter (s : State) (stk : Nat) (keep : RdcLine → Bool) : State :=
  s.setStack stk { s.stack stk with rdc := (s.stack stk).rdc.filter keep }
/-- The lines that the remote data cache of a stack holds: 32 MiB (R2). -/
def rdcLines : Nat := 262144

/-- Bytes of a line replaced under a mask. -/
def mergeLine (d : BitVec 1024) (new : BitVec 1024) (mask : Nat) : Nat → BitVec 1024
  | 0 => d
  | n + 1 =>
    let d := mergeLine d new mask n
    if mask.testBit n then
      (d &&& ~~~(BitVec.ofNat 1024 (255 * 2 ^ (8 * n)))) ||| (new &&& BitVec.ofNat 1024 (255 * 2 ^ (8 * n)))
    else d

/-- A published byte of a remote line updates the copy (R156). -/
def rdcUpdate (s : State) (stk ctx line : Nat) (new : BitVec 1024) (mask : Nat) : State :=
  s.setStack stk { s.stack stk with rdc := (s.stack stk).rdc.map (fun l =>
    if l.ctx = ctx ∧ l.key = line then { l with data := mergeLine l.data new mask 128 } else l) }

/-- A line fills the cache (R293): with what this stack has published to it and the home has not yet acknowledged; the oldest line
leaves where all are held. -/
def rdcFill (s : State) (stk ctx line : Nat) (d : BitVec 1024) : State :=
  let mine := fun (r : RemOut) =>
    decide (r.stk = stk) && decide (r.ctx = ctx) && decide (r.key = line) && (match r.who with | .publish _ _ _ => true | _ => false)
  let d := (s.remote.filter mine).foldl (fun d r => mergeLine d r.req.val r.req.mask.toNat 128) d
  let l := (s.stack stk).rdc.filter (fun l => !(l.ctx == ctx && l.key == line))
  s.setStack stk { s.stack stk with rdc := (if l.length < rdcLines then l else l.drop 1) ++ [{ ctx := ctx, key := line, data := d }] }

/-- A window of a firing touches a line known by its key. -/
def Window.touchesKey (s : State) (t : TileId) (fid : Nat) (w : Window) (line : Nat) : Bool :=
  if w.remote then
    decide (w.key / 2 ^ 49 = line / 2 ^ 49) && isAway line &&
      w.rect.touches (w.base.toNat - awayOff w.key + awayOff line)
  else (s.stack (stackOfKey line)).regs.any (fun r => r.wid == w.wid && r.holder == .firing t fid && r.touches line)

/-- Some window of a context's firings on a stack touches a line. -/
def ctxWindowTouches (s : State) (stk ctx line : Nat) : Bool :=
  s.tiles.any (fun p =>
    decide ((tileOfKey p.1).stk = stk) && p.2.firings.any (fun f =>
      decide (s.ctxOf f = ctx) && f.wins.any (fun w => w.2.touchesKey s (tileOfKey p.1) f.id line)))

/-- Scopes from DEVICE up. -/
def scopeWide : Scope → Bool
  | .device => true
  | .plane => true
  | .system => true
  | _ => false

/-- The invalidation of an acquire at DEVICE scope or wider. -/
def acqInvalidate (s : State) (stk ctx : Nat) (sc : Scope) : State :=
  if scopeWide sc then
    rdcFilter s stk (fun l => decide (l.ctx ≠ ctx) || ctxWindowTouches s stk ctx l.key)
  else s

/-- A claim touches a line known by its key. -/
def Claim.touches (key : Nat) : Claim → Bool
  | .here _ r _ => r.touches key
  | .away d k c o _ r => decide (key / 2 ^ 49 = awayKey d k c o / 2 ^ 49) && isAway key && areaTouches r (areaBase r - o + awayOff key)

/-- The lines of a granted window leave the cache of the issuing stack (R155). -/
def rdcDropClaim (s : State) (stk ctx : Nat) (c : Claim) : State :=
  match c with
  | .here k _ _ => if k = stk then s else rdcFilter s stk (fun l => !(l.ctx == ctx && c.touches l.key))
  | .away _ _ _ _ _ _ => rdcFilter s stk (fun l => !(l.ctx == ctx && c.touches l.key))

/-! ## Requests that leave the device (R346, R347) -/

-- DEDUCED, log 48 (unsafe).
/-- Requests that are performed at most once (R347): sync stores, atomics and publications. -/
def onceOnly : HomeKind → Bool
  | .load => false
  | .ldx => false
  | .wqry => false
  | .bind => false
  | .probe => false
  | .pflush => false
  | .pclean => false
  | .pinv => false
  | _ => true

/-- The end of a registration: a publication of no bytes that names the request that opened it (R156, R157). -/
def isNotice (q : HomeReq) : Bool := q.kind == .publish && decide (q.mask = 0)

/-- Requests that carry an identifier and are counted (R347). -/
def RemOut.counted (r : RemOut) : Bool := !r.isOpen && onceOnly r.req.kind && !isNotice r.req

/-- A request is sent, with the REMTO of its partition. -/
def transmit (s : State) (r : RemOut) : State :=
  let due := s.cyc r.stk + (s.part (s.partOfCtx r.ctx)).remto.toNat
  let r := { r with sent := true, due := due }
  let s : State := { s with remote := s.remote.map (fun q => if q.rid = r.rid then r else q) }
  (s.send (.request r)).at_ r.stk due (.remtoExpiry r.rid)

/-- Requests that wait at their memory tile are sent, in order, while fewer than 256 counted ones of their stack to their owner stack
are unacknowledged (R347). -/
def pumpRemote (s : State) : State :=
  (s.remote.filter (fun r => !r.sent)).foldl (fun s r =>
    let out := s.remote.filter (fun q => q.sent && q.counted && q.stk == r.stk && q.dev == r.dev && q.dstk == r.dstk)
    if !r.counted || decide (out.length < 256) then transmit s r else s) s


/-- What a request asks besides its place: a home operation, or an open of a rectangle. -/
structure Ask where
  req    : HomeReq
  isOpen : Bool := false
  openW  : Bool := false
  rowb   : Nat := 0
  pitch  : Nat := 0
  rows   : Nat := 0
  range  : Bool := false
  winner : Option Nat := none
  deriving DecidableEq, Repr

/-- A request is held at its memory tile until its response arrives, and sent as soon as R347 lets it go; a form that was sent before
goes out under its first identifier. -/
def sendRemote (s : State) (stk ctx va key : Nat) (who : RemFor) (a : Ask) (again : Option Nat) : Nat × State :=
  let (n, s) := s.fresh
  let rid := again.getD n
  let r : RemOut := { rid := rid, stk := stk, ctx := ctx, dev := awayDev key, dstk := awayStk key, rctx := awayCtx key
                      va := va, off := awayOff key, key := key, who := who, req := a.req, isOpen := a.isOpen, openW := a.openW
                      rowb := a.rowb, pitch := a.pitch, rows := a.rows, due := 0, sent := false, range := a.range
                      winner := a.winner }
  (rid, pumpRemote { s with remote := s.remote.filter (fun q => q.rid != rid) ++ [r] })


/-! ## The store buffer (R149, R150, R179) -/

def blankReq : HomeReq := { kind := .load, addr := 0, size := 0, val := 0, cmp := 0, sg := false, mask := 0 }

/-- The masked bytes of an entry go to their home, and the request that takes them to another device; `cid` is the close they belong
to, 0 for none. -/
def publishBytes (s : State) (t : TileId) (ctx fid cid : Nat) (e : SbEntry) (mask : Nat) : State × Option Nat :=
  if isAway e.key then
    let q : HomeReq := { blankReq with kind := .publish, size := 128, val := e.data, mask := BitVec.ofNat 128 mask }
    let (rid, s) := sendRemote s t.stk ctx e.line e.key (.publish t fid cid) { req := q } none
    (rdcUpdate s t.stk ctx e.key e.data mask, some rid)
  else
    let s := writeMasked s e.key e.data.toNat mask
    (if stackOfKey e.key = t.stk then s else rdcUpdate s t.stk ctx e.key e.data mask, none)

/-- A firing of a tile passes its first commit point through an act of another. -/
def commitFid (s : State) (t : TileId) (fid : Nat) : State :=
  let x := s.tile t
  s.setTile t { x with firings := x.firings.map (fun f => if f.id = fid then { f with committed := true } else f) }

/-- Entries of an owner. -/
def owned (l : List SbEntry) (fid : Nat) : Nat := (l.filter (fun e => e.owner == fid)).length

/-- The owner with most entries; the list is oldest first, so among equals the one with the oldest entry. -/
def biggestOwner (all : List SbEntry) : List SbEntry → Option SbEntry → Option SbEntry
  | [], best => best
  | e :: r, none => biggestOwner all r (some e)
  | e :: r, some b => biggestOwner all r (if owned all b.owner < owned all e.owner then some e else some b)

-- DEDUCED, log 22 (unsafe).
/-- The victim of a spill. -/
def spillVictim (l : List SbEntry) (fid : Nat) : Option SbEntry :=
  match l.find? (fun e => e.owner == fid) with
  | some e => some e
  | none => biggestOwner l l none

/-- A store of the firing to a line needs a spill first: it has no entry of the line, and all 32 are held. -/
def needsSpill (s : State) (t : TileId) (fid key : Nat) : Bool :=
  !(s.tile t).store.any (fun e => e.owner == fid && e.key == key) && decide (32 ≤ (s.tile t).store.length)

/-- A spill: one line is written to its home; its owner, which is committed, and the request where the home is another device's. -/
def spill (s : State) (t : TileId) (fid : Nat) : State × Option (Nat × Option Nat) :=
  let x := s.tile t
  match spillVictim x.store fid with
  | none => (s, none)
  | some e =>
    let ctx := match x.firing? e.owner with | some f => s.ctxOf f | none => 0
    let (s, rid) := publishBytes (s.setTile t { x with store := x.store.erase e }) t ctx e.owner 0 e e.mask.toNat
    (commitFid s t e.owner, some (e.owner, rid))

/-- A store into the buffer: it merges with the firing's entry of the line or takes a new one. -/
def bufferStore (s : State) (t : TileId) (fid line key data mask : Nat) : State :=
  let x := s.tile t
  match x.store.find? (fun e => e.owner == fid && e.key == key) with
  | some e =>
    let e' := { e with data := mergeLine e.data (BitVec.ofNat 1024 data) mask 128, mask := e.mask ||| BitVec.ofNat 128 mask }
    s.setTile t { x with store := x.store.map (fun y => if y = e then e' else y) }
  | none =>
    let e : SbEntry := { line := line, key := key, data := mergeLine 0 (BitVec.ofNat 1024 data) mask 128
                         mask := BitVec.ofNat 128 mask, owner := fid }
    s.setTile t { x with store := x.store ++ [e] }

/-- What the word at a firing's pc has spilled or drained to other devices has been accepted at its homes (R150, R179). -/
def accepted (s : State) (f : Firing) : Bool := !s.remote.any (fun r => f.spilled.contains r.rid)

/-- Bytes of the firing's own buffer on a line. -/
def ownBytes (s : State) (t : TileId) (fid key : Nat) : Nat × Nat :=
  match (s.tile t).store.find? (fun e => e.owner == fid && e.key == key) with
  | some e => (e.data.toNat, e.mask.toNat)
  | none => (0, 0)

/-- A number with n bytes, each from `own` where `mask` has it, else from `d`. -/
def pickBytes (d own mask : Nat) : Nat → Nat
  | 0 => 0
  | n + 1 => pickBytes d own mask n +
      (if mask.testBit n then own / 2 ^ (8 * n) % 256 else d / 2 ^ (8 * n) % 256) * 2 ^ (8 * n)

/-- Early drain (R179): those of the firing's buffered lines that lie in an area are written to their homes, and stay its own under its
windows. The requests that take lines to other devices; none where no line lies there. -/
def earlyDrain (s : State) (t : TileId) (ctx fid : Nat) (lies : SbEntry → Bool) : State × Option (List Nat) :=
  let x := s.tile t
  let l := x.store.filter (fun e => e.owner == fid && lies e)
  if l.isEmpty then (s, none)
  else
    let s := s.setTile t { x with store := x.store.filter (fun e => !l.contains e) }
    let (s, out) := l.foldl (fun (p : State × List Nat) e =>
      let (s, rid) := publishBytes p.1 t ctx fid 0 e e.mask.toNat
      (s, p.2 ++ rid.toList)) (s, [])
    (commitFid s t fid, some out)

/-! ## Closing (R156, R422) -/

-- DEDUCED, log 165 (unsafe).
/-- The bytes of an entry's line that a window covers, at whatever address its registration maps the line. -/
def Window.maskOf (s : State) (t : TileId) (fid : Nat) (w : Window) (e : SbEntry) : Nat :=
  let vas :=
    if w.remote then
      if w.key / 2 ^ 49 = e.key / 2 ^ 49 ∧ isAway e.key then [w.base.toNat - awayOff w.key + awayOff e.key] else []
    else ((s.stack w.stk).regs.filter (fun r => r.wid == w.wid && r.holder == .firing t fid)).flatMap (fun r =>
      (r.pages.filter (fun p => decide (p.pa ≤ e.key) && decide (e.key < p.pa + p.len))).map (fun p => p.va + (e.key - p.pa)))
  (e.line :: vas).foldl (fun m v => Nat.lor m (w.rect.mask v 128)) 0

/-- What a close publishes of one entry. -/
def closeEntry (s : State) (t : TileId) (ctx fid cid : Nat) (w : Window) (e : SbEntry) : State × Bool :=
  let m := Nat.land e.mask.toNat (w.maskOf s t fid e)
  if m = 0 then (s, false)
  else
    let s := (publishBytes s t ctx fid cid e m).1
    let x := s.tile t
    let left := e.mask &&& ~~~(BitVec.ofNat 128 m)
    let l := if left = 0 then x.store.erase e else x.store.map (fun y => if y = e then { e with mask := left } else y)
    (s.setTile t { x with store := l }, true)

/-- Step 2 over the buffer in its order; how many lines were written here, and how many sent to another device. -/
def closeEntries (t : TileId) (ctx fid cid : Nat) (w : Window) : List SbEntry → State → Nat × Nat → State × Nat × Nat
  | [], s, n => (s, n)
  | e :: l, s, n =>
    let (s, b) := closeEntry s t ctx fid cid w e
    closeEntries t ctx fid cid w l s (if !b then n else if isAway e.key then (n.1, n.2 + 1) else (n.1 + 1, n.2))

/-- The notice of a close to another device (R422). -/
def sendNotice (s : State) (c : CloseRec) (a : AwayReg) (va : Nat) : State :=
  let s : State := { s with closes := s.closes.map (fun x => if x.cid = c.cid then { x with acks := 1, notice := none } else x) }
  (sendRemote s a.stk a.ctx va a.key (.publish c.t c.fid c.cid)
    { req := { blankReq with kind := .publish, val := BitVec.ofNat 1024 a.rid } } none).2

/-- A PPREF is cancelled when no window of its firing touches its line any more. -/
def cancelPrefetches (s : State) (t : TileId) (f : Firing) : State :=
  { s with remote := s.remote.filter (fun r => match r.who with
      | .prefetch t' fid => !(t' == t && fid == f.id) || f.wins.any (fun w => w.2.touchesKey s t f.id r.key)
      | _ => true) }

-- DESIGN CHOICE, log 27 (unsafe).
/-- A close of one window of a firing: the window covers no more, its buffered bytes go home, and its entries wait for the
acknowledgements; at another device, for the notice, which follows them. -/
def closeWindow (s : State) (t : TileId) (f : Firing) (n : Nat) (w : Window) : State × Firing :=
  let ctx := s.ctxOf f
  let (cid, s) := s.fresh
  let mine := (s.tile t).store.filter (fun e => e.owner == f.id)
  let (s, here, away) := closeEntries t ctx f.id cid w mine s (0, 0)
  let f := { f with wins := tabDel f.wins n, closing := f.closing ++ [(n, cid)], committed := true }
  let reg : AwayReg := { stk := t.stk, ctx := ctx, key := w.key, rid := w.wid }
  let c : CloseRec := { cid := cid, t := t, fid := f.id, win := n, stk := w.stk, wid := w.wid, acks := here + away
                        notice := if w.remote then some (reg, w.base.toNat) else none }
  let s := cancelPrefetches { s with closes := s.closes ++ [c] } t f
  if here + away ≠ 0 then (s.laterAll (List.replicate here (.closeAck cid)), f)
  else if w.remote then (sendNotice s c reg w.base.toNat, f)
  else (s.later (.closeComplete cid), f)

/-- Every open window, in ascending number. -/
def closeAll (s : State) (t : TileId) : Firing → List (Nat × Window) → State × Firing
  | f, [] => (s, f)
  | f, (n, w) :: l =>
    let (s, f) := closeWindow s t f n w
    closeAll s t f l

end Sys2Proof.Machine
end

