-- ==== Sys2Proof/Machine/Replay.lean ====
section
/-! DEFINITION. Record and replay (R407, R408, R304): the entries that a RECORD launch logs, and the order in which a
REPLAY launch is forced to take them. -/

namespace Sys2Proof.Machine

/-- The launch of an instance, of a firing. -/
def launchOfInst (s : State) (inst : Nat) : Option Launch := (s.inst? inst).bind (fun i => s.launch? i.ctx i.lid)
def launchOf (s : State) (f : Firing) : Option Launch := launchOfInst s f.inst

/-- An entry of the log (R407), without its data. -/
structure LogEntry where
  kind : Nat
  src  : Nat
  obj  : Nat
  val  : Nat
  deriving DecidableEq, Repr

-- DESIGN CHOICE, log 67 (unsafe).
def LogEntry.bits (e : LogEntry) : Nat := fld 0 1 e.kind + fld 2 2 e.src + fld 4 4 e.obj + fld 8 8 e.val

def rlogBase (r : LogRegs) : Nat := entryAddr r.base.toNat
/-- Bytes of the data area that entries not yet consumed hold. -/
def dataUsed (r : LogRegs) : Nat :=
  ((r.parts.filter (fun p => decide ((BitVec.ofNat 32 p.1 - r.tail).toNat < (r.head - r.tail).toNat))).map
    (fun p => p.2)).foldl (· + ·) 0

/-- Contents put into the data area, a byte ring. -/
def putData (s : State) (stk base size : Nat) : Nat → List Byte → State
  | _, [] => s
  | off, b :: l => putData (homeWrite s (dramKey stk (base + off % size)) [b]) stk base size (off + 1) l

/-- One entry appended to the log of a partition on a stack; none where the ring or its data area is full, and the agent waits. An
entry with contents names their offset above the low 16 bits of VALUE. -/
def appendLog (s : State) (part stk : Nat) (e : LogEntry) (data : List Byte) : Option State :=
  let pt := s.part part
  let r := tabGet {} pt.rlog stk
  if !r.en then some s
  else
    let size := r.size.toNat
    if (r.head - r.tail).toNat = size ∨ 64 * size < dataUsed r + data.length then none
    else
      let base := rlogBase r
      let off := r.dhead % (64 * size)
      let v := if data.isEmpty then e.val else e.val % 2 ^ 16 + off * 2 ^ 16
      let s := putData s stk (base + 16 * size) (64 * size) off data
      let s := homeWriteAll 2 s (dramKey stk (base + 16 * (r.head.toNat % size))) (bytesOf 16 { e with val := v }.bits)
      let r' := { r with head := r.head + 1, dhead := r.dhead + data.length
                         parts := if data.isEmpty then r.parts else r.parts ++ [(r.head.toNat, data.length)] }
      some (s.setPart part { s.part part with rlog := tabSet (s.part part).rlog stk r' })

/-- What an agent of an instance logs: nothing unless its launch has RECORD. -/
def record (s : State) (inst : Nat) (e : LogEntry) (data : List Byte) : Option State :=
  match s.inst? inst, launchOfInst s inst with
  | some i, some l => if l.record then appendLog s i.part i.stk e data else some s
  | _, _ => some s

/-- The entries of a log that a launch has not consumed, in order. -/
def logLeft (s : State) (part stk : Nat) (l : Launch) : List (Nat × LogEntry) :=
  let r := tabGet {} (s.part part).rlog stk
  let n := (r.head - r.tail).toNat
  (List.range n).filterMap (fun k =>
    let j := (r.tail.toNat + k) % 2 ^ 32
    if l.replayed.contains (stk, j) then none
    else
      let b := memNat s.mem (dramKey stk (rlogBase r + 16 * (j % r.size.toNat))) 16
      some (j, { kind := b % 256, src := b / 2 ^ 16 % 2 ^ 16, obj := b / 2 ^ 32 % 2 ^ 32, val := b / 2 ^ 64 }))

/-- Contents of an entry. -/
def logData (s : State) (part stk off n : Nat) : List Byte :=
  let r := tabGet {} (s.part part).rlog stk
  (List.range n).flatMap (fun i =>
    memBytes s.mem (dramKey stk (rlogBase r + 16 * r.size.toNat + (off + i) % (64 * r.size.toNat))) 1)

/-- What the log says of a choice: the launch is not replayed; the choice comes now, and the log with it consumed;
another comes first; or nothing in the log matches. -/
inductive Forced
  | free
  | now (s : State)
  | wait
  | diverged

/-- The choice `val` on an object. -/
def forced (s : State) (inst kind obj val : Nat) : Forced :=
  match s.inst? inst, launchOfInst s inst with
  | some i, some l =>
    if !l.replay then .free
    else
      let left := (logLeft s i.part i.stk l).filter (fun e => e.2.kind == kind && e.2.obj == obj)
      match left with
      | [] => .diverged
      | (j, e) :: _ =>
        if e.val = val then .now (s.setLaunch { l with replayed := (i.stk, j) :: l.replayed })
        else if left.any (fun e => e.2.val == val) then .wait
        else .diverged
  | _, _ => .free

-- DEDUCED, log 68 (unsafe).
/-- The value that the log gives next for an object, for a choice that the log makes. -/
def logged (s : State) (inst kind obj : Nat) : Option Nat :=
  match s.inst? inst, launchOfInst s inst with
  | some i, some l =>
    if !l.replay then none
    else ((logLeft s i.part i.stk l).find? (fun e => e.2.kind == kind && e.2.obj == obj)).map (fun e => e.2.val)
  | _, _ => none

def replaying (s : State) (inst : Nat) : Bool :=
  match launchOfInst s inst with | some l => l.replay | none => false

/-- SRC of an entry of a firing. -/
def logSrc (t : TileId) (f : Firing) : Nat := srcField { tile := t, entry := some f.entry, ctx := 0 }

/-- An atomic's entry: its granule, and the acting firing's FIRID and PC. -/
def atomicEntry (t : TileId) (f : Firing) (va : Nat) : LogEntry :=
  { kind := 2, src := logSrc t f, obj := va % 2 ^ 49 / 8 % 2 ^ 32, val := (firidOf f).toNat % 2 ^ 52 + f.pc % 2 ^ 12 * 2 ^ 52 }

/-- An atomic of the firing under RECORD and REPLAY: the state in which it is performed. A choice that cannot match the
log halts the launch, and the word does not issue. -/
def atomicTurn (s : State) (t : TileId) (f : Firing) (va : Nat) : Ex (State ⊕ Done) :=
  let e := atomicEntry t f va
  match forced s f.inst 2 e.obj e.val with
  | .wait => hold
  | .diverged => .ok (.inr { s := s.later (.diverged f.inst), f := { f with held := true }, moved := true })
  | .free =>
    match record s f.inst e [] with
    | some s => .ok (.inl s)
    | none => hold
  | .now s => .ok (.inl s)

/-- An open that RACE decides (R304): logged with the winning holder; under REPLAY it waits until the logged winner holds
the line. -/
def holderValue : Holder → Nat
  | .firing t fid => srcField { tile := t, entry := none, ctx := 0 } + fid % 2 ^ 46 * 2 ^ 16
  | .saved _ t fid => srcField { tile := t, entry := none, ctx := 0 } + fid % 2 ^ 46 * 2 ^ 16
  | .inst i => 2 ^ 62 + i % 2 ^ 62
  | .host n => 2 ^ 63 + n % 2 ^ 62
  | .remote d k c r => 2 ^ 63 + 2 ^ 62 + ((d * 4 + k) * 1024 + c) * 2 ^ 24 + r % 2 ^ 24
/-- An open that RACE has decided, by its launch's log: the log's stack, the entry and the winner, where a replayed launch has not
consumed it. The object is a window's number, 8 and up for the ranges of a command, 256 and up for an MPORT's node. -/
def lostOpen (s : State) (inst src obj : Nat) : Option (Nat × Nat × Nat) :=
  match s.inst? inst, launchOfInst s inst with
  | some i, some l =>
    if !l.replay then none
    else ((logLeft s i.part i.stk l).find? (fun e => e.2.kind == 6 && e.2.src == src && e.2.obj == obj)).map
      (fun e => (i.stk, e.1, e.2.val))
  | _, _ => none

/-- Whether a replayed open has to wait: the log says it lost to a holder that does not hold the lines. -/
def openWaits (s : State) (inst src obj : Nat) (o : Option Reg) : Bool :=
  match lostOpen s inst src obj with
  | none => false
  | some e => match o with | some r => holderValue r.holder != e.2.2 | none => true

-- DEDUCED, log 162 (unsafe).
/-- An open has lost to a holder: its entry in a replayed log is consumed, and a recorded launch logs it. None where the log is full. -/
def raceDecided (s : State) (inst src obj winner : Nat) : Option State :=
  let s := match lostOpen s inst src obj, launchOfInst s inst with
    | some e, some l => s.setLaunch { l with replayed := (e.1, e.2.1) :: l.replayed }
    | _, _ => s
  record s inst { kind := 6, src := src, obj := obj, val := winner } []

def rangeObj (i : Nat) : Nat := 8 + i
def mportObj (node : Nat) : Nat := 256 + node

end Sys2Proof.Machine
end

