-- ==== Sys2Proof/Machine/Memory.lean ====
section
/-! DEFINITION. The memory, window and synchronisation forms, OP 0x28 to 0x2E (R145 to R167), and the steps by which
loads return, opens are granted and closes complete (R151, R153 to R156, R300, R422). -/

namespace Sys2Proof.Machine

/-! ## Addresses -/

def accessOf (s : State) (t : TileId) (f : Firing) (k : AccKind) (w : Bool) (va : Nat) : Access :=
  { stk := t.stk, ctx := s.ctxOf f, inst := some f.inst, kind := k, write := w, va := va }

/-- An address in a record. -/
def vaDetail (va : Nat) : Nat := fld 0 8 va

-- DESIGN CHOICE, log 47 (unsafe).
/-- A word whose request to another device has been sent: the firing stands at it until the answer (R346). -/
def awaitRemote (s : State) (t : TileId) (f : Firing) (va key : Nat) (who : RemFor) (a : Ask) (p : Option Pend) :
    Done :=
  let (rid, s) := sendRemote s t.stk (s.ctxOf f) va key who a f.resend
  let pend := match p with | some p => [{ p with src := .remote rid }] | none => []
  { s := s, f := { f with wait := .remote rid, pend := f.pend ++ pend, resend := none }, moved := true }

/-- The route to another device exists, else FABRIC (R38, R346). -/
def reach (s : State) (t : TileId) (f : Firing) (k : AccKind) (va dev : Nat) : Ex Unit :=
  if routed s t.stk dev then .ok () else .error (.fault (fabricInfo s va k.num (s.ctxOf f) dev none))

/-- A read of a line goes to DRAM: no dirty copy of it is cached, and the zero map does not answer it (R290). -/
def readsDram (s : State) (l : Nat) : Bool :=
  !isScratch l && (tabFind (s.stack (stackOfKey l)).dirty l).isNone && decide (memNat s.mem l 128 ≠ 0)

/-- An uncorrectable error of the bank, or of the bus or the DRAM that a read of the line reaches (R396, R399). -/
def lineSound (s : State) (key : Nat) : Ex Unit :=
  let l := key / 128 * 128
  let bad := fun u => Except.error (Stop.fault { code := .parity, detail := unitDetail u l })
  if s.struck 9 l then bad 9
  else if !readsDram s l then .ok ()
  else if busFailed s l then bad 10
  else if s.struck 11 l then bad 11
  else .ok ()

/-! ## Plain loads and stores (R147 to R151) -/

/-- The line's data for a plain load on this device: from the RDC where the home is another stack's and a copy is
still held, else from the home (R151, R293). -/
def lineData (s : State) (stk ctx key : Nat) : BitVec 1024 × State :=
  let l := key / 128 * 128
  if stackOfKey l = stk then (BitVec.ofNat 1024 (memNat s.mem l 128), s)
  else
    match rdcFind s stk ctx l with
    | some c =>
      if Config.rdcDropped (s.tick * 2 ^ 80 + l) then
        let d := BitVec.ofNat 1024 (memNat s.mem l 128)
        (d, rdcFill s stk ctx l d)
      else (c.data, s)
    | none =>
      let d := BitVec.ofNat 1024 (memNat s.mem l 128)
      (d, rdcFill s stk ctx l d)

-- DESIGN CHOICE, log 20 (unsafe).
/-- A plain load of n bytes into slots from `d`. -/
def runLoad (g : BitVec 4) (wv : Wave) (slots : List Nat) (d : Nat) (src off : BitVec 10) (n : Nat) (how : PendHow)
    (s : State) : Outcome :=
  issue g (.member wv) always (fun s t f => do
    need f (slots ++ sl src)
    let ea := effAddr f src off n
    unless_ (ea % n == 0) .align (vaDetail ea)
    waveCheck f wv
    unless_ (covered f ea n false) .window (vaDetail ea)
    let p ← locateX s (accessOf s t f .load false ea)
    let s := notePlace s p
    let o := p.key % 128
    let (ow, mk) := ownBytes s t f.id (p.key - o)
    let own := ow / 2 ^ (8 * o)
    let mask := mk / 2 ^ o % 2 ^ n
    if mask = 2 ^ n - 1 then pure { s := s, f := landValue f how d (pickBytes 0 own mask n) }
    else
      match p with
      | .here x =>
        lineSound s x.key
        let (l, s) := lineData s t.stk (s.ctxOf f) x.key
        pure { s := s, f := landValue f how d (pickBytes (l.toNat / 2 ^ (8 * o)) own mask n) }
      | .away dev _ _ _ =>
        match rdcFind s t.stk (s.ctxOf f) (p.key - o), Config.rdcDropped (s.tick * 2 ^ 80 + ea) with
        | some l, false => pure { s := s, f := landValue f how d (pickBytes (l.data.toNat / 2 ^ (8 * o)) own mask n) }
        | _, _ =>
          reach s t f .load ea dev
          pure (awaitRemote s t f ea (p.key - o) (.load t f.id) { req := { blankReq with kind := .load, size := 128 } }
            (some { src := .leval, d := d, n := slots.length, how := how, own := own, mask := mask }))) s

-- DEDUCED, log 164 (safe).
/-- A plain store of n bytes of `v`. -/
def runStore (g : BitVec 4) (wv : Wave) (slots : List Nat) (src off : BitVec 10) (n : Nat) (v : Firing → Nat)
    (s : State) : Outcome :=
  issue g (.member wv) always (fun s t f => do
    need f (slots ++ sl src)
    let ea := effAddr f src off n
    unless_ (ea % n == 0) .align (vaDetail ea)
    waveCheck f wv
    unless_ (covered f ea n true) .window (vaDetail ea)
    let p ← locateX s (accessOf s t f .store true ea)
    let s := notePlace s p
    let o := p.key % 128
    let put := fun (s : State) => bufferStore s t f.id (ea - o) (p.key - o) (v f % 2 ^ (8 * n) * 2 ^ (8 * o)) ((2 ^ n - 1) * 2 ^ o)
    waitFor (accepted s f)
    if needsSpill s t f.id (p.key - o) then
      match spill s t f.id with
      | (s, some (who, rid)) =>
        let f := if who = f.id then { f with committed := true } else f
        match rid with
        | some r => pure { s := s.setFiring t { f with held := true, spilled := [r] }, f := f, lost := true }
        | none => pure { s := put s, f := f }
      | (s, none) => pure { s := put s, f := f }
    else pure { s := put s, f := f }) s

def slotVal (d : BitVec 10) (f : Firing) : Nat := (f.slot d.toNat).toNat

/-- LDB (R147). -/
def execLdb (o : MEMo) (s : State) : Outcome := runLoad o.g o.wave (sl o.d) o.d.toNat o.s o.off 1 (.zext 1) s
/-- LDBS (R147). -/
def execLdbs (o : MEMo) (s : State) : Outcome := runLoad o.g o.wave (sl o.d) o.d.toNat o.s o.off 1 (.sext 1) s
/-- LDH (R147). -/
def execLdh (o : MEMo) (s : State) : Outcome := runLoad o.g o.wave (sl o.d) o.d.toNat o.s o.off 2 (.zext 2) s
/-- LDHS (R147). -/
def execLdhs (o : MEMo) (s : State) : Outcome := runLoad o.g o.wave (sl o.d) o.d.toNat o.s o.off 2 (.sext 2) s
/-- LDW (R147). -/
def execLdw (o : MEMo) (s : State) : Outcome := runLoad o.g o.wave (sl o.d) o.d.toNat o.s o.off 4 (.zext 4) s
/-- LDWS (R147). -/
def execLdws (o : MEMo) (s : State) : Outcome := runLoad o.g o.wave (sl o.d) o.d.toNat o.s o.off 4 (.sext 4) s
/-- LDD (R147). -/
def execLdd (o : MEMo) (s : State) : Outcome := runLoad o.g o.wave (sl o.d) o.d.toNat o.s o.off 8 (.zext 8) s
/-- LDV (R147, R122). -/
def execLdv (o : MEMVo) (s : State) : Outcome :=
  runLoad o.g o.wave (octSlots o.d) (8 * o.d.toNat) o.s o.off 64 .octet s
/-- STB (R147). -/
def execStb (o : MEMo) (s : State) : Outcome := runStore o.g o.wave (sl o.d) o.s o.off 1 (slotVal o.d) s
/-- STH (R147). -/
def execSth (o : MEMo) (s : State) : Outcome := runStore o.g o.wave (sl o.d) o.s o.off 2 (slotVal o.d) s
/-- STW (R147). -/
def execStw (o : MEMo) (s : State) : Outcome := runStore o.g o.wave (sl o.d) o.s o.off 4 (slotVal o.d) s
/-- STD (R147). -/
def execStd (o : MEMo) (s : State) : Outcome := runStore o.g o.wave (sl o.d) o.s o.off 8 (slotVal o.d) s
/-- STV (R147, R122). -/
def execStv (o : MEMVo) (s : State) : Outcome :=
  runStore o.g o.wave (octSlots o.d) o.s o.off 64 (fun f => f.octet o.d) s
/-- STZ: a line of zeros (R147, R149). -/
def execStz (o : LINEo) (s : State) : Outcome := runStore o.g o.wave [] o.s o.off 128 (fun _ => 0) s

/-- The data of a plain load arrives: its slots are written and the firing goes on after the load (R151). -/
def returnLoad (t : TileId) (fid rid : Nat) (data : Nat) (s : State) : State :=
  match s.firing? t fid with
  | none => s
  | some f =>
    match f.pend.find? (fun p => p.src == .remote rid) with
    | none => s
    | some p =>
      let f := { f with pend := f.pend.filter (fun q => q.src != .remote rid), wait := .none }
      s.setFiring t (landValue f p.how p.d (pickBytes data p.own p.mask 64)).advance

/-- LOAD_RETURN (R151). -/
def execLoadReturn (t : TileId) (fid rid : Nat) (data : BitVec 512) (s : State) : Outcome :=
  .next (returnLoad t fid rid data.toNat s)

/-! ## Windows (R152 to R158) -/

/-- The limits of R152 that the fields alone decide. -/
def rectOk (r : Rect) : Bool :=
  decide (1 ≤ r.rowb) && decide (r.rowb ≤ 2 ^ 24) && decide (r.pitch ≤ 2 ^ 40) && decide (1 ≤ r.rows) &&
  decide (r.rows ≤ 2 ^ 20) && (decide (r.rows = 1) || decide (r.rowb ≤ r.pitch)) &&
  decide (r.last / 2 ^ 50 = r.base / 2 ^ 50)

/-- The firing's window once granted; the word after the WOPEN is next (R155). -/
def grantWindow (f : Firing) (n : Nat) (w : Window) : Firing :=
  { f with wins := tabSet f.wins n w, wait := .none, st := if f.st = .stalled then .running else f.st }

-- DEDUCED, log 29 (safe).
/-- WOPENR and WOPENW (R152 to R155). -/
def runOpen (wr : Bool) (o : WOPENo) (s : State) : Outcome :=
  issue o.g .boundary always (fun s t f => do
    let n := o.win.toNat
    need f [o.s.toNat, o.s.toNat + 1, o.s.toNat + 2, o.s.toNat + 3]
    unless_ (tabFind f.wins n).isNone .illegal
    waitFor (!f.closing.any (fun c => c.1 == n))
    let v := fun i => (f.slot (o.s.toNat + i)).toNat
    let r : Rect := { base := v 0, rowb := v 1, pitch := v 2, rows := v 3 }
    unless_ (rectOk r) .window (vaDetail r.base)
    let (wid, s) := s.fresh
    let a := accessOf s t f .range wr r.base
    match claim s a (.firing t f.id) false wid [r] { code := .window, detail := vaDetail r.base } with
    | .error e => .error (.fault e)
    | .ok c =>
      let win : Window := { w := wr, base := BitVec.ofNat 64 r.base, rowb := r.rowb, pitch := r.pitch, rows := r.rows
                            wid := wid, stk := 0, remote := false, key := 0 }
      match c with
      | .away d k x off _ _ =>
        reach s t f .range r.base d
        let dn := awaitRemote s t f r.base (awayKey d k x off) (.window t f.id n)
          { req := blankReq, isOpen := true, openW := wr, rowb := r.rowb, pitch := r.pitch, rows := r.rows
            winner := (lostOpen s f.inst (logSrc t f) n).map (fun e => e.2.2) } none
        pure { dn with f := { dn.f with st := .stalled } }
      | .here k rg uses =>
        waitFor (!openWaits s f.inst (logSrc t f) n (firstConflict s k rg))
        match firstConflict s k rg with
        | some o =>
          match raceDecided s f.inst (logSrc t f) n (holderValue o.holder) with
          | none => hold
          | some s => pure { s := takeFault s t f (raceInfo (areaBase rg.area) a.ctx o), f := f, lost := true }
        | none =>
          if regsFit s [(k, rg)] then
            pure { s := rdcDropClaim (enterRegs s [(k, rg)] uses) t.stk a.ctx c, f := grantWindow f n { win with stk := k } }
          else
            pure { s := queueOpen s wid (.window t f.id n) [(k, rg)] uses none
                   f := { f with st := .stalled, wait := .window n wid }, moved := true }) s

/-- WOPENR (R152). -/
def execWopenr (o : WOPENo) (s : State) : Outcome := runOpen false o s
/-- WOPENW (R152). -/
def execWopenw (o : WOPENo) (s : State) : Outcome := runOpen true o s


/-- WCLOSE (R156). -/
def execWclose (o : WINo) (s : State) : Outcome :=
  issue o.g .boundary always (fun s t f => do
    match tabFind f.wins o.win.toNat with
    | none => raise .illegal
    | some w =>
      let (s, f) := closeWindow s t f o.win.toNat w
      pure { s := s, f := f }) s

/-- WCLOSEA (R156). -/
def execWclosea (g : BitVec 4) (s : State) : Outcome :=
  issue g .boundary always (fun s t f => do
    let (s, f) := closeAll s t f f.wins
    pure { s := s, f := f }) s

/-- What the window table says of a line to a holder (R158): OTHW and OTHR. -/
def othersAt (s : State) (key : Nat) (me : Holder) : Nat :=
  let l := (s.stack (stackOfKey key)).regs.filter (fun r => !r.range && r.holder != me && r.touches (key / 128 * 128))
  (if l.any (fun r => !r.w) then 1 else 0) + (if l.any (fun r => r.w) then 2 else 0)

/-- OWNW and OWNM of R158. -/
def ownWindows (f : Firing) (va : Nat) : Nat :=
  let l := f.wins.filter (fun w => w.2.rect.covers va)
  (l.map (fun w => 2 ^ w.1)).foldl (· + ·) 0 + (if l.any (fun w => w.2.w) then 256 else 0)

-- DEDUCED, log 52 (unsafe).
/-- WQRY (R158). -/
def execWqry (o : DS) (s : State) : Outcome :=
  issue o.g .boundary always (fun s t f => do
    need f (sl o.d ++ sl o.s)
    let va := (f.slot o.s.toNat).toNat
    match locate s (accessOf s t f .load false va) with
    | .error _ => pure { s := s, f := f.setSlot o.d.toNat (BitVec.ofNat 64 (2 ^ 63)) }
    | .ok (.here p) =>
      let v := ownWindows f va + othersAt s p.key (.firing t f.id) * 512
      pure { s := s, f := f.setSlot o.d.toNat (BitVec.ofNat 64 v) }
    | .ok (.away d k x off) =>
      if routed s t.stk d then
        pure (awaitRemote s t f va (awayKey d k x off) (.load t f.id) { req := { blankReq with kind := .wqry } }
          (some { src := .leval, d := o.d.toNat, n := 1, how := .status, own := ownWindows f va, mask := 0 }))
      else pure { s := s, f := f.setSlot o.d.toNat (BitVec.ofNat 64 (2 ^ 63)) }) s

/-- A waiting request is granted: its registrations enter their tables, and WINDOW_GRANT tells who waits. -/
def grantRegs (s : State) (stk : Nat) (w : WtReq) : State :=
  let x := s.stack stk
  let s := s.setStack stk { x with waits := x.waits.map (fun y => if y.rid = w.rid then { y with decided := true } else y) }
  (enterRegs s w.regs w.uses).later (.windowGrant stk w.rid)

/-- The address and context of a waiting request. -/
def WtReq.base (w : WtReq) : Nat := match w.regs.head? with | some p => areaBase p.2.area | none => 0
def WtReq.ctx (w : WtReq) : Nat := match w.regs.head? with | some p => p.2.ctx | none => 0
def WtReq.entries (w : WtReq) : Nat := (w.regs.map (fun p => p.2.pages.length)).foldl (· + ·) 0

/-! ## Host operations (R297) -/

def State.hostOp? (s : State) (op : Nat) : Option HostOp := s.hostOps.find? (fun h => h.op == op)
def State.setHostOp (s : State) (h : HostOp) : State := { s with hostOps := s.hostOps.map (fun x => if x.op = h.op then h else x) }

/-- An operation leaves, with its registrations and what it has asked of other devices. -/
def endHostOp (s : State) (h : HostOp) : State :=
  let mine := fun (r : RemOut) => r.who == .host h.op
  let s := releaseAway s (h.away ++ (s.remote.filter (fun r => mine r && r.isOpen)).map (fun r =>
    { stk := r.stk, ctx := r.ctx, key := awayKey r.dev r.dstk r.rctx r.off, rid := r.rid }))
  let s := dropRanges s h.regs
  let s : State := { s with remote := s.remote.filter (fun r => !mine r), hostOps := s.hostOps.filter (fun x => x.op != h.op)
                            stks := s.stks.map (fun p => (p.1, { p.2 with waits := p.2.waits.filter (fun w => w.who != .host h.op) })) }
  retryOpens s

/-- A host operation is refused or fails: an error completion, and the record in the context's event queue (R297, R331, R342). -/
def hostFails (s : State) (op : Nat) (e : FInfo) : State :=
  match s.hostOp? op with
  | none => s
  | some h => (postNodeFault (endHostOp s h) { stk := 0, x := 0, y := 0 } h.ctx e 0 0 .none).send (.host h.ctx 4 [])

/-- The lines of n bytes from an address: where each part starts and how long it is. -/
def lineParts : Nat → Nat → Nat → List (Nat × Nat)
  | 0, _, _ => []
  | k + 1, va, n => if n = 0 then [] else let m := Nat.min n (128 - va % 128); (va, m) :: lineParts k (va + m) (n - m)
def HostOp.parts (h : HostOp) : List (Nat × Nat) := lineParts (h.n / 128 + 2) h.va h.n
def HostOp.access (h : HostOp) (va : Nat) : Access := { stk := 0, ctx := h.ctx, inst := none, kind := .host, write := h.w, va := va }

/-- One line of a host operation: performed at its home here, or asked of its home elsewhere. -/
def hostLine (s : State) (h : HostOp) (va n : Nat) : Except FInfo State :=
  match locate s (h.access va) with
  | .error e => .error e
  | .ok (.here p) =>
    if h.w then .ok (homeWrite (noteUse s p) p.key ((h.data.drop (va - h.va)).take n))
    else
      match lineSound s p.key with
      | .error (.fault e) => .error e
      | _ => .ok ((noteUse s p).setHostOp { h with lines := h.lines ++ [(va / 128, BitVec.ofNat 1024 (memNat s.mem (p.key / 128 * 128) 128))] })
  | .ok (.away d k c o) =>
    if routed s 0 d then
      let q : HomeReq := if h.w then
          { blankReq with kind := .publish, size := 128, val := BitVec.ofNat 1024 (wordOfBytes ((h.data.drop (va - h.va)).take n) * 2 ^ (8 * (va % 128)))
                          mask := BitVec.ofNat 128 ((2 ^ n - 1) * 2 ^ (va % 128)) }
        else { blankReq with kind := .load, size := 128 }
      let (rid, s) := sendRemote s 0 h.ctx (va / 128 * 128) (awayKey d k c (o / 128 * 128)) (.host h.op) { req := q } none
      .ok (s.setHostOp { h with out := h.out ++ [rid] })
    else .error (fabricInfo s va AccKind.host.num h.ctx d none)

/-- The bytes that a read returns. -/
def HostOp.bytes (h : HostOp) : List Byte :=
  h.parts.flatMap (fun p =>
    let d := match h.lines.find? (fun l => l.1 == p.1 / 128) with | some l => l.2.toNat | none => 0
    ((bytesOf 128 d).drop (p.1 % 128)).take p.2)

/-- An operation with nothing outstanding completes (R297). -/
def hostSettle (s : State) (op : Nat) : State :=
  match s.hostOp? op with
  | none => s
  | some h => if h.out.isEmpty then (endHostOp s h).send (.host h.ctx 3 (if h.w then [] else h.bytes)) else s

def hostLines (op : Nat) : List (Nat × Nat) → State → State
  | [], s => hostSettle s op
  | p :: l, s =>
    match s.hostOp? op with
    | none => s
    | some h =>
      match hostLine s h p.1 p.2 with
      | .error e => hostFails s op e
      | .ok s => hostLines op l s

/-- An open of a host operation has been granted; the accesses follow the last one. -/
def hostGranted (s : State) (op rid : Nat) (a : List AwayReg) : State :=
  match s.hostOp? op with
  | none => s
  | some h =>
    let h := { h with opens := h.opens.filter (fun q => q != rid), away := h.away ++ a }
    let s := s.setHostOp h
    if h.opens.isEmpty then hostLines op h.parts s else s

/-- An access of a host operation has been answered. -/
def hostAnswered (s : State) (op rid va v : Nat) : State :=
  match s.hostOp? op with
  | none => s
  | some h =>
    hostSettle (s.setHostOp { h with out := h.out.filter (fun q => q != rid), lines := h.lines ++ [(va / 128, BitVec.ofNat 1024 v)] }) op

/-- A request of a firing fails: the fault is taken at its WOPEN or command (R153, R154); of another device, it is answered, with
the holder that a RACE was lost to. -/
def failOpen (s : State) (stk : Nat) (w : WtReq) (e : FInfo) (holder : Nat) : State :=
  let x := s.stack stk
  let s := s.setStack stk { x with waits := x.waits.filter (fun y => y.rid != w.rid) }
  let take := fun t fid =>
    match s.firing? t fid with
    | some f => takeFault s t { f with st := .running, wait := .none } e
    | none => s
  match w.who with
  | .window t fid _ => take t fid
  | .command t fid cmd =>
    let y := s.tile t
    let s := s.setTile t { y with cmds := y.cmds.filter (fun c => c.id != cmd) }
    match s.firing? t fid with
    | some f => takeFault s t { f with st := .running, wait := .none } e
    | none => s
  | .remote dev k _ rid => s.send (.answer dev k rid (if e.code = .race then .race holder else .fault e.code.num 0 0 0))
  | .host op => hostFails s op e

/-- The log entry of a waiting request that RACE decides (R304): its instance, source and object. -/
def WtReq.logged (s : State) (w : WtReq) (i : Nat) : Option (Nat × Nat × Nat) :=
  match w.who with
  | .window t fid n => (s.firing? t fid).map (fun f => (f.inst, logSrc t f, n))
  | .command t fid _ => (s.firing? t fid).map (fun f => (f.inst, logSrc t f, rangeObj i))
  | _ => none

/-- A waiting request loses to a registration (R153); where the launch's log is full, it waits. -/
def loseOpen (s : State) (stk : Nat) (w : WtReq) (r o : Reg) : State :=
  let v := holderValue o.holder
  let e := raceInfo (areaBase r.area) r.ctx o
  match w.logged s (w.regs.findIdx (fun p => p.2 == r)) with
  | none => failOpen s stk w e v
  | some (inst, src, obj) =>
    match raceDecided s inst src obj v with
    | some s => failOpen s stk w e v
    | none => s

/-- A registration that a waiting request conflicts with, held by a given holder where the request has lost to that one (R408). -/
def WtReq.loses (s : State) (w : WtReq) : Option (Reg × Reg) :=
  match w.winner with
  | none => regsConflict s w.regs
  | some v => w.regs.findSome? (fun p =>
      ((s.stack p.1).regs.find? (fun o => conflicts p.2 o && decide (holderValue o.holder = v))).map (fun o => (p.2, o)))

/-- The waiting requests of a stack are looked at in order; each is granted when its own entries are free (R153, R154). -/
def tryOpens (stk : Nat) : List WtReq → State → State
  | [], s => s
  | w :: l, s =>
    if w.decided then tryOpens stk l s
    else
      match w.loses s with
      | some (r, o) => tryOpens stk l (loseOpen s stk w r o)
      | none => tryOpens stk l (if w.winner.isNone && regsFit s w.regs then grantRegs s stk w else s)

/-- WT_OPEN_REQUEST (R153). -/
def execWtOpenRequest (stk : Nat) (s : State) : Outcome := .next (tryOpens stk (s.stack stk).waits s)

/-- WINFULL_TIMEOUT (R154). -/
def execWinfullTimeout (stk rid : Nat) (s : State) : Outcome :=
  .next (match (s.stack stk).waits.find? (fun w => w.rid == rid && !w.decided) with
    | none => s
    | some w => failOpen s stk w (winfullInfo w.base w.entries) 0)

/-- A granted range's lines leave the RDC of the issuing stack, where the owner is another (R155). -/
def rdcDropReg (s : State) (stk owner : Nat) (r : Reg) : State :=
  if owner = stk then s else rdcFilter s stk (fun l => !(l.ctx == r.ctx && r.touches l.key))

/-- CLOSE_ACK (R422): the last one completes the close, at another device once the notice that follows it is acknowledged. -/
def closeAcked (s : State) (cid : Nat) : State :=
  match s.closes.find? (fun c => c.cid == cid) with
  | none => s
  | some c =>
    let s := { s with closes := s.closes.map (fun x => if x.cid = cid then { x with acks := x.acks - 1 } else x) }
    if 1 < c.acks then s
    else match c.notice with
      | some (a, va) => sendNotice s c a va
      | none => s.later (.closeComplete cid)
def execCloseAck (cid : Nat) (s : State) : Outcome := .next (closeAcked s cid)

/-- CLOSE_COMPLETE (R156 step 3): the entries leave the table; opens that wait are looked at again, and a draining
firing goes on. -/
def closeDone (s : State) (cid : Nat) : State :=
  match s.closes.find? (fun c => c.cid == cid) with
  | none => s
  | some c =>
    let s := { s with closes := s.closes.filter (fun x => x.cid != cid) }
    let x := s.stack c.stk
    let s := s.setStack c.stk { x with regs := x.regs.filter (fun r => r.wid != c.wid) }
    let s := match s.firing? c.t c.fid with
      | some f =>
        let s := s.setFiring c.t { f with closing := f.closing.filter (fun p => p.2 != cid) }
        if f.st = .draining then s.later (.retire c.t c.fid) else s
      | none => s
    retryOpens s
def execCloseComplete (cid : Nat) (s : State) : Outcome := .next (closeDone s cid)

/-! ## Sync accesses and atomics (R159 to R165) -/

def sizeBytes : Size → Nat
  | .b => 1
  | .h => 2
  | .w => 4
  | .d => 8

/-- Earlier memory forms have completed as a release requires (R160): every close has reached step 3 and every
request sent for the firing has been answered, but for the one that the word at its pc sends again. -/
def relReady (s : State) (t : TileId) (f : Firing) : Bool :=
  f.closing.isEmpty && !s.remote.any (fun r => some r.rid != f.resend && (match r.who with
    | .publish t' fid _ => t' == t && fid == f.id
    | .sync t' fid => t' == t && fid == f.id
    | _ => false))

def isAcq : Order → Bool
  | .acq => true
  | .ar => true
  | .sc => true
  | _ => false
def isRel : Order → Bool
  | .rel => true
  | .ar => true
  | .sc => true
  | _ => false

/-- The order in which a sync access meets its faults: ALIGN, translation, RACE, FABRIC (R69). The place it goes to. -/
def syncPlace (s : State) (t : TileId) (f : Firing) (k : AccKind) (w : Bool) (ea n : Nat) : Ex Place := do
  unless_ (ea % n == 0) .align (vaDetail ea)
  let p ← locateX s (accessOf s t f k w ea)
  match p with
  | .here x =>
    match windowTouched s x.key with
    | some o => .error (.fault (raceInfo ea (s.ctxOf f) o))
    | none =>
      lineSound s x.key
      pure p
  | .away d _ _ _ =>
    reach s t f k ea d
    pure p

/-- The result of a home operation as it enters a slot. -/
def syncHow (sg : Bool) (n : Nat) : PendHow := if sg then .sext n else .zext n

/-- LDA and LDX (R159, R161). -/
def runSyncLoad (x : Bool) (o : SYNCo) (s : State) : Outcome :=
  issue o.g .boundary always (fun s t f => do
    need f (sl o.d ++ sl o.s)
    let n := sizeBytes o.size
    let ea := effAddr f o.s o.off n
    let p ← syncPlace s t f .load false ea n
    let s := notePlace s p
    let k : HomeKind := if x then .ldx else .load
    match p with
    | .here y =>
      let (s, a) := homeOp s (some (.firing t f.id)) { blankReq with kind := k, addr := y.key, size := n }
      let v := match a with | .data v => v.toNat | _ => 0
      let s := if isAcq o.order then acqInvalidate s t.stk (s.ctxOf f) o.scope else s
      let f := landValue f (syncHow o.sg n) o.d.toNat v
      pure { s := s
             f := if x then { f with resv := some { va := BitVec.ofNat 64 ea, size := n, granule := some (y.key / 8 * 8) } }
                  else f }
    | .away d st c off =>
      let s := if isAcq o.order then acqInvalidate s t.stk (s.ctxOf f) o.scope else s
      let s := if x then dropHolder s (.firing t f.id) else s
      let f := if x then { f with resv := some { va := BitVec.ofNat 64 ea, size := n, granule := none } } else f
      pure (awaitRemote s t f ea (awayKey d st c off) (.sync t f.id) { req := { blankReq with kind := k, size := n } }
        (some { src := .leval, d := o.d.toNat, n := 1, how := syncHow o.sg n }))) s

/-- LDA (R159). -/
def execLda (o : SYNCo) (s : State) : Outcome := runSyncLoad false o s
/-- LDX (R159, R161). -/
def execLdx (o : SYNCo) (s : State) : Outcome := runSyncLoad true o s

/-- STL (R159). -/
def execStl (o : SYNCo) (s : State) : Outcome :=
  issue o.g .boundary always (fun s t f => do
    need f (sl o.d ++ sl o.s)
    let n := sizeBytes o.size
    let ea := effAddr f o.s o.off n
    let p ← syncPlace s t f .store true ea n
    waitFor (!isRel o.order || relReady s t f)
    let s := notePlace s p
    let q : HomeReq := { blankReq with kind := .store, size := n, val := BitVec.ofNat 1024 (slotVal o.d f) }
    match p with
    | .here y =>
      pure { s := (homeOp s (some (.firing t f.id)) { q with addr := y.key }).1, f := { f with committed := true } }
    | .away d st c off =>
      pure (awaitRemote s t f ea (awayKey d st c off) (.sync t f.id) { req := q } none)) s

/-- STX (R159, R161). -/
def execStx (o : ATOMo) (s : State) : Outcome :=
  issue o.g .boundary always (fun s t f => do
    need f (sl o.d ++ sl o.s ++ sl o.t)
    let n := sizeBytes o.size
    let ea := effAddr f o.s o.off n
    let p ← syncPlace s t f .atomic true ea n
    waitFor (!isRel o.order || relReady s t f)
    let me := Holder.firing t f.id
    let same := match f.resv with
      | some r => decide (r.va.toNat = ea) && decide (r.size = n)
      | none => false
    let f' := { f with resv := none }
    let q : HomeReq := { blankReq with kind := .stx, size := n, val := BitVec.ofNat 1024 (slotVal o.d f) }
    let fail := fun (s : State) => ({ s := dropHolder s me, f := f'.setSlot o.t.toNat 1 } : Done)
    match p with
    | .here y =>
      if same && hasResv s me (y.key / 8 * 8) then
        let s := notePlace s p
        pure { s := (homeOp s (some me) { q with addr := y.key }).1
               f := { f'.setSlot o.t.toNat 0 with committed := true } }
      else pure (fail s)
    | .away d st c off =>
      if same then
        pure (awaitRemote s t f' ea (awayKey d st c off) (.sync t f.id) { req := q }
          (some { src := .leval, d := o.t.toNat, n := 1, how := .status }))
      else pure (fail s)) s

/-- An atomic (R164, R165); RECORD and REPLAY order it on its granule (R407, R408). -/
def runAtomic (k : HomeKind) (o : ATOMo) (s : State) : Outcome :=
  issue o.g .boundary always (fun s t f => do
    need f (sl o.d ++ sl o.s ++ sl o.t)
    let n := sizeBytes o.size
    let ea := effAddr f o.s o.off n
    let p ← syncPlace s t f .atomic true ea n
    waitFor (!isRel o.order || relReady s t f)
    match ← (if f.resend.isSome then pure (Sum.inl s) else atomicTurn s t f ea) with
    | .inr d => pure d
    | .inl s =>
      let s := notePlace s p
      let q : HomeReq := { blankReq with kind := k, size := n, val := BitVec.ofNat 1024 (slotVal o.t f)
                                         cmp := f.slot o.d.toNat, sg := o.sg }
      let s := if isAcq o.order then acqInvalidate s t.stk (s.ctxOf f) o.scope else s
      match p with
      | .here y =>
        let (s, a) := homeOp s (some (.firing t f.id)) { q with addr := y.key }
        let v := match a with | .data v => v.toNat | _ => 0
        pure { s := s, f := { landValue f (syncHow o.sg n) o.d.toNat v with committed := true } }
      | .away d st c off =>
        pure (awaitRemote s t f ea (awayKey d st c off) (.sync t f.id) { req := q }
          (some { src := .leval, d := o.d.toNat, n := 1, how := syncHow o.sg n }))) s

/-- AADD (R164). -/
def execAadd (o : ATOMo) (s : State) : Outcome := runAtomic .aadd o s
/-- AAND (R164). -/
def execAand (o : ATOMo) (s : State) : Outcome := runAtomic .aand o s
/-- AOR (R164). -/
def execAor (o : ATOMo) (s : State) : Outcome := runAtomic .aor o s
/-- AXOR (R164). -/
def execAxor (o : ATOMo) (s : State) : Outcome := runAtomic .axor o s
/-- AMIN (R164). -/
def execAmin (o : ATOMo) (s : State) : Outcome := runAtomic .amin o s
/-- AMAX (R164). -/
def execAmax (o : ATOMo) (s : State) : Outcome := runAtomic .amax o s
/-- AXCHG (R164). -/
def execAxchg (o : ATOMo) (s : State) : Outcome := runAtomic .axchg o s
/-- ACAS (R164). -/
def execAcas (o : ATOMo) (s : State) : Outcome := runAtomic .acas o s

/-- HOME_PERFORM (R300): one request, performed at its home in one step. -/
def execHomePerform (r : HomeReq) (s : State) : Outcome := .next (homeOp s none r).1

/-! ## Fences (R166) -/

/-- Attached commands of a firing that have not completed. -/
def cmdsPending (x : Tile) (fid : Nat) : Bool :=
  x.cmds.any (fun c => c.owner == fid && (c.st == .queued || c.st == .running))
/-- No evaluation of a firing is under way or waits (R281). -/
def evalsIdle (l : Lcb) (fid : Nat) : Bool :=
  let mine := fun (j : LevalJob) => decide (j.owner = fid) && !j.orphan
  !(match l.job with | some j => mine j | none => false) &&
  !l.queue.any (fun q => match q with | .eval j => mine j | _ => false)
/-- Every engine command of a firing has completed. -/
def enginesIdle (x : Tile) (fid : Nat) : Bool :=
  !cmdsPending x fid && !x.me.queue.any (fun j => j.owner == fid) && !x.me.drains.any (fun d => d.owner == fid) &&
  evalsIdle x.lcb fid

def runFence (engines ack : Bool) (o : FENo) (s : State) : Outcome :=
  issue o.g .boundary always (fun s t f => do
    waitFor (!o.rel || relReady s t f)
    waitFor (!(engines && o.acq) || enginesIdle (s.tile t) f.id)
    waitFor (!(ack && o.rel) || !cmdsPending (s.tile t) f.id)
    pure { s := if o.acq then acqInvalidate s t.stk (s.ctxOf f) o.scope else s, f := f }) s

/-- FENCE (R166). -/
def execFence (o : FENo) (s : State) : Outcome := runFence false false o s
/-- FENCEE (R166). -/
def execFencee (o : FENo) (s : State) : Outcome := runFence true false o s
/-- GFENCE (R166). -/
def execGfence (o : FENo) (s : State) : Outcome := runFence true true o s

/-! ## Plane-store maintenance (R167) -/

/-- A firing's buffered bytes of a line are discarded. -/
def discardOwn (s : State) (t : TileId) (fid key : Nat) : State :=
  let x := s.tile t
  s.setTile t { x with store := x.store.filter (fun e => !(e.owner == fid && e.key == key)) }

-- DEDUCED, log 28 (unsafe).
/-- PFLUSH, PINV and PCLEAN; at another device PINV takes effect, and commits the firing, when its home has answered. -/
def runLine (k : HomeKind) (needW drop : Bool) (o : LINEo) (s : State) : Outcome :=
  issue o.g (.member o.wave) always (fun s t f => do
    need f (sl o.s)
    let ea := effAddr f o.s o.off 128
    unless_ (ea % 128 == 0) .align (vaDetail ea)
    waveCheck f o.wave
    unless_ (covered f ea 128 needW) .window (vaDetail ea)
    let p ← locateX s (accessOf s t f (if needW then .store else .load) needW ea)
    let s := notePlace s p
    let ctx := s.ctxOf f
    match p with
    | .here y =>
      let f := if needW then { f with committed := true } else f
      if isScratch y.key then pure { s := s, f := f }
      else
        let s := (homeOp (if needW then discardOwn s t f.id p.key else s) none { blankReq with kind := k, addr := y.key }).1
        pure { s := if drop && decide (y.stk ≠ t.stk) then rdcFilter s t.stk (fun l => !(l.ctx == ctx && l.key == y.key))
                    else s
               f := f }
    | .away d _ _ _ =>
      reach s t f .load ea d
      let s := if drop then rdcFilter s t.stk (fun l => !(l.ctx == ctx && l.key == p.key)) else s
      pure (awaitRemote s t f ea p.key (.sync t f.id) { req := { blankReq with kind := k } } none)) s

/-- PFLUSH (R167). -/
def execPflush (o : LINEo) (s : State) : Outcome := runLine .pflush false true o s
/-- PINV (R167). -/
def execPinv (o : LINEo) (s : State) : Outcome := runLine .pinv true true o s
/-- PCLEAN (R167). -/
def execPclean (o : LINEo) (s : State) : Outcome := runLine .pclean false false o s

/-- PPREF (R167): dropped outside the firing's windows and where the address cannot be translated. -/
def execPpref (o : LINEo) (s : State) : Outcome :=
  issue o.g (.member o.wave) always (fun s t f => do
    need f (sl o.s)
    let ea := effAddr f o.s o.off 128 / 128 * 128
    waveCheck f o.wave
    if !(f.wins.any (fun w => w.2.rect.touches ea)) then pure { s := s, f := f }
    else
      match locate s (accessOf s t f .load false ea) with
      | .error _ => pure { s := s, f := f }
      | .ok (.here y) =>
        if isScratch y.key || decide (y.stk = t.stk) then pure { s := s, f := f }
        else pure { s := (lineData s t.stk (s.ctxOf f) y.key).2, f := f }
      | .ok (.away d k c off) =>
        if routed s t.stk d then
          pure { s := (sendRemote s t.stk (s.ctxOf f) ea (awayKey d k c off) (.prefetch t f.id)
                        { req := { blankReq with kind := .load, size := 128 } } none).2, f := f }
        else pure { s := s, f := f }) s

end Sys2Proof.Machine
end

