-- ==== Sys2Proof/Machine/Control.lean ====
section
/-! DEFINITION. Transfers, hardware loops, ending, yielding and waiting: OP 0x10 to 0x13 (R102 to R110). -/

namespace Sys2Proof.Machine

/-- A word loaded for the tile's configuration (R50). -/
def loaded (s : State) (t : TileId) (pc : Nat) : Bool := ((s.tile t).code.any (fun p => p.1 == pc)) && decide (pc < 4096)

/-- Loops that a BR or JR to `pc` leaves (R107). -/
def leaveLoops (f : Firing) (pc : Nat) : Firing :=
  { f with loops := f.loops.filter (fun p => decide (p.2.first ≤ pc) && decide (pc ≤ p.2.last)) }

/-- A transfer to word `pc`, or ILLEGAL at the transferring word (R50). -/
def transfer (s : State) (t : TileId) (f : Firing) (pc : Int) : Ex Nat :=
  if 0 ≤ pc ∧ loaded s t pc.toNat then .ok pc.toNat else raise .illegal

/-- A transfer: the retry of a PARITY or RESIDUE ends with its word (R238). -/
def jump (s : State) (f : Firing) (pc : Nat) : Done := { s := s, f := { f with pc := pc, retried := false }, moved := true }

/-- The offset of BR and CALL. -/
def off29 (o : BitVec 29) : Int := sextInt o.toNat 29

/-- BR (R102): a taken one to its own word or above it ends the wave (R59). -/
def execBr (o : HJ) (s : State) : Outcome :=
  issue o.g .plain always (fun s t f => do
    let pc ← transfer s t f (f.pc + off29 o.off)
    let f' := leaveLoops f pc
    pure (jump s (if pc ≤ f.pc then { f' with waveLast := none } else f') pc)) s

/-- CALL (R102, R103). -/
def execCall (o : HJ) (s : State) : Outcome :=
  issue o.g .boundary always (fun s t f => do
    unless_ (decide (f.rstack.length < 4)) .illegal
    let pc ← transfer s t f (f.pc + off29 o.off)
    pure (jump s { f with rstack := (f.pc + 1) :: f.rstack } pc)) s

/-- RET (R102, R103). -/
def execRet (g : BitVec 4) (s : State) : Outcome :=
  issue g .boundary always (fun s t f => do
    match f.rstack with
    | [] => raise .illegal
    | r :: l =>
      let pc ← transfer s t f r
      pure (jump s { f with rstack := l } pc)) s

/-- JR (R102). -/
def execJr (o : OneS) (s : State) : Outcome :=
  issue o.g .boundary always (fun s t f => do
    need f (sl o.s)
    let pc ← transfer s t f (f.slot o.s.toNat).toNat
    pure (jump s (leaveLoops f pc) pc)) s

/-- OP of a stored word (R49). -/
def wordOp (s : State) (t : TileId) (pc : Nat) : Nat := wordAt s t pc / 2 ^ 56 % 128

/-- The conditions of R105 on a loop whose body is the next `len` words. -/
def loopOk (s : State) (t : TileId) (f : Firing) (lc len : Nat) : Bool :=
  (tabFind f.loops lc).isNone && loaded s t (f.pc + len) &&
  !(decide (0x10 ≤ wordOp s t (f.pc + len)) && decide (wordOp s t (f.pc + len) ≤ 0x13)) &&
  f.loops.all (fun p => !(decide (p.2.first ≤ f.pc) && decide (f.pc ≤ p.2.last) && decide (p.2.last < f.pc + len)))

/-- The start of a loop of c iterations (R104). -/
def startLoop (s : State) (f : Firing) (lc c len : Nat) : Done :=
  if c = 0 then jump s f (f.pc + len + 1)
  else
    let l : LoopCtr := { index := 0, bound := c, first := f.pc + 1, last := f.pc + len }
    jump s { f with loops := tabSet f.loops lc l } (f.pc + 1)

/-- LOOP (R104, R105). -/
def execLoop (o : LOOPo) (s : State) : Outcome :=
  issue o.g .boundary always (fun s t f => do
    need f (sl o.s)
    unless_ (loopOk s t f o.lc.toNat o.len.toNat) .illegal
    pure (startLoop s f o.lc.toNat (Nat.min (f.slot o.s.toNat).toNat (2 ^ 32 - 1)) o.len.toNat)) s

/-- LOOPI (R104, R105). -/
def execLoopi (o : LOOPIo) (s : State) : Outcome :=
  issue o.g .boundary always (fun s t f => do
    unless_ (loopOk s t f o.lc.toNat o.len.toNat) .illegal
    pure (startLoop s f o.lc.toNat o.count.toNat o.len.toNat)) s

/-- What a plain read of several bytes found, or the request it must make first. -/
inductive ReadRes
  | got (b : List Byte) (s : State)
  | ask (d : Done)

/-- A plain read of n bytes by a form that is no load (R106, R116), line by line: the firing's own bytes, the RDC, the
homes. A line of another device that no copy holds is asked for first, and the word issues again with it. -/
def plainRead (t : TileId) (f : Firing) : Nat → State → Nat → Nat → List Byte → Ex ReadRes
  | 0, s, _, _, acc => .ok (.got acc s)
  | k + 1, s, va, n, acc =>
    if n = 0 then .ok (.got acc s)
    else
      match locate s (accessOf s t f .load false va) with
      | .error e => .error (.fault e)
      | .ok p =>
        let s := notePlace s p
        let o := p.key % 128
        let line := p.key - o
        let m := Nat.min n (128 - o)
        let (own, mask) := ownBytes s t f.id line
        let take := fun (d : Nat) => (bytesOf 128 (pickBytes d own mask 128)).drop o |>.take m
        match p with
        | .here x =>
          match lineSound s x.key with
          | .error e => .error e
          | .ok _ =>
            let (l, s) := lineData s t.stk (s.ctxOf f) x.key
            plainRead t f k s (va + m) (n - m) (acc ++ take l.toNat)
        | .away dev _ _ _ =>
          match rdcFind s t.stk (s.ctxOf f) line, f.fetched.find? (fun q => q.1 == line) with
          | some l, _ => plainRead t f k s (va + m) (n - m) (acc ++ take l.data.toNat)
          | none, some l => plainRead t f k (rdcFill s t.stk (s.ctxOf f) line l.2) (va + m) (n - m) (acc ++ take l.2.toNat)
          | none, none =>
            match reach s t f .load va dev with
            | .error e => .error e
            | .ok _ => .ok (.ask (awaitRemote s t f va line (.fill t f.id)
                { req := { blankReq with kind := .load, size := 128 } } none))

/-- LOOPS (R104 to R106). -/
def execLoops (o : LOOPSo) (s : State) : Outcome :=
  issue o.g .boundary always (fun s t f => do
    need f (sl o.s)
    let va := (f.slot o.s.toNat).toNat
    unless_ (loopOk s t f o.lc.toNat o.len.toNat) .illegal
    unless_ (va % 64 == 0) .align (vaDetail va)
    let a := va + 8 * o.dim.toNat
    unless_ (covered f a 4 false) .window (vaDetail a)
    match plainRead t f 2 s a 4 [] with
    | .error e => .error e
    | .ok (.ask d) => pure d
    | .ok (.got b s) => pure (startLoop s { f with fetched := [] } o.lc.toNat (wordOfBytes b) o.len.toNat)) s

/-- LBRK (R108). -/
def execLbrk (o : LCo) (s : State) : Outcome :=
  issue o.g .boundary always (fun s _ f => do
    match tabFind f.loops o.lc.toNat with
    | none => raise .illegal
    | some l =>
      let keep := f.loops.filter (fun p => !(decide (l.first ≤ p.2.first) && decide (p.2.last ≤ l.last)))
      pure (jump s { f with loops := keep } (l.last + 1))) s

/-- A firing that issues nothing more enters DRAINING, and its retire begins (R110, R236). -/
def drain (s : State) (t : TileId) (f : Firing) : Done :=
  { s := s.later (.retire t f.id), f := { f with st := .draining, rstep := 0 }, moved := true }

-- DEDUCED, log 16 (unsafe).
/-- EXIT (R110). -/
def execExit (g : BitVec 4) (s : State) : Outcome := issue g .plain always (fun s t f => pure (drain s t f)) s

/-- EXITR (R110). -/
def execExitr (o : OneS) (s : State) : Outcome :=
  issue o.g .plain always (fun s t f => do
    need f (sl o.s)
    pure (drain s t { f with exitStatus := some (f.slot o.s.toNat) })) s

/-- YIELD (R110): the firing is the youngest from here on. -/
def execYield (g : BitVec 4) (s : State) : Outcome :=
  issue g .plain always (fun s _ f =>
    pure { s := { s with nextAge := s.nextAge + 1 }, f := { f.advance with st := .ready, age := s.nextAge }
           moved := true }) s

/-- WAITP (R110, R190). -/
def execWaitp (o : M16) (s : State) : Outcome :=
  issue o.g .plain always (fun s t f =>
    if tabGet 0 (s.tile t).tagP f.node &&& o.m ≠ 0 then pure { s := s, f := f }
    else pure { s := s, f := { f with st := .stalled, wait := .tags o.m }, moved := true }) s

/-- NOP (R110, R62). -/
def execNop (o : NOPo) (s : State) : Outcome :=
  match o.wave with
  | none => issue o.g .plain always (fun s _ f => pure { s := s, f := f }) s
  | some w =>
    issue o.g (.member w) always (fun s _ f => do
      waveCheck f w
      pure { s := s, f := f }) s

end Sys2Proof.Machine
end

