-- ==== Sys2Proof/Machine/Alu.lean ====
section
/-! DEFINITION. What the integer, address, bit-field and predicate forms compute from operand values (R88 to
R101), apart from the machine: views of a slot at a width, exact results, the one narrowing at the end. -/

namespace Sys2Proof.Machine

/-- The bits of a width (R56). -/
def widthBits : Width → Nat
  | .w64 => 64
  | .w32 => 32
  | .w16 => 16
  | .w8 => 8

/-- The low n bits read unsigned (R88). -/
def uview (n : Nat) (x : Word) : Nat := x.toNat % 2 ^ n

/-- The low n bits read signed (R88). -/
def sview (n : Nat) (x : Word) : Int := sextInt x.toNat n

/-- An exact result narrowed to n bits and zero-extended to the slot (R88). -/
def narrow (n : Nat) (r : Int) : Word := BitVec.ofNat 64 (toBits n r)

/-- A natural result narrowed likewise. -/
def narrowN (n : Nat) (r : Nat) : Word := BitVec.ofNat 64 (r % 2 ^ n)

/-- The shift count of OP 0x01: bits [5:0] of T (R92). -/
def shiftCount (t : Word) : Nat := t.toNat % 64

/-- a rotated left by k within n bits (R92). -/
def rotl (n k a : Nat) : Nat := (a * 2 ^ (k % n) + a / 2 ^ (n - k % n)) % 2 ^ n

/-- Bits i and n − 1 − i exchanged (R94). -/
def brevN : Nat → Nat → Nat
  | 0, _ => 0
  | n + 1, a => (a % 2) * 2 ^ n + brevN n (a / 2)

/-- The number of one bits among the low n (R94). -/
def popN : Nat → Nat → Nat
  | 0, _ => 0
  | n + 1, a => a % 2 + popN n (a / 2)

/-- Trailing zero bits within n (R94). -/
def ctzN : Nat → Nat → Nat
  | 0, _ => 0
  | n + 1, a => if a % 2 = 1 then 0 else 1 + ctzN n (a / 2)

/-- Leading zero bits within n (R94). -/
def clzN (n a : Nat) : Nat := ctzN n (brevN n a)

/-- The two-source forms of OP 0x00 to 0x02 (R92, R93); `d` is the old value of slot D (MAD reads it). -/
inductive Alu3 | add | sub | and | or | xor | andn | orn | xnor | shl | shr | sar | rol | min | max | minu | maxu
  | mul | mulh | mulhu | mad | divu | remu | absd
  deriving DecidableEq, Repr

/-- f of R92 and R93 with the narrowing of R88. -/
def alu3 (f : Alu3) (w : Width) (s t d : Word) : Word :=
  let n := widthBits w
  let a := uview n s
  let b := uview n t
  let sa := sview n s
  let sb := sview n t
  let k := shiftCount t
  match f with
  | .add => narrowN n (a + b)
  | .sub => narrow n ((a : Int) - b)
  | .and => narrowN n (a &&& b)
  | .or => narrowN n (a ||| b)
  | .xor => narrowN n (a ^^^ b)
  | .andn => narrowN n (a &&& (2 ^ n - 1 - b))
  | .orn => narrowN n (a ||| (2 ^ n - 1 - b))
  | .xnor => narrowN n (2 ^ n - 1 - (a ^^^ b))
  | .shl => if n ≤ k then 0 else narrowN n (a * 2 ^ k)
  | .shr => if n ≤ k then 0 else narrowN n (a / 2 ^ k)
  | .sar => narrow n (sa / (2 : Int) ^ (Nat.min k (n - 1)))
  | .rol => narrowN n (rotl n k a)
  | .min => narrowN n (if sa < sb then a else b)
  | .max => narrowN n (if sb < sa then a else b)
  | .minu => narrowN n (if a < b then a else b)
  | .maxu => narrowN n (if b < a then a else b)
  | .mul => narrowN n (a * b)
  | .mulh => narrow n (sa * sb / (2 : Int) ^ n)
  | .mulhu => narrowN n (a * b / 2 ^ n)
  | .mad => narrowN n (uview n d + a * b)
  | .divu => if b = 0 then narrowN n (2 ^ n - 1) else narrowN n (a / b)
  | .remu => if b = 0 then narrowN n a else narrowN n (a % b)
  | .absd => narrowN n (sa - sb).natAbs

/-- The one-source forms of OP 0x03 (R94). -/
inductive Alu2 | mov | neg | not | abs | clz | ctz | popc | brev
  deriving DecidableEq, Repr

/-- f of R94 with the narrowing of R88. -/
def alu2 (f : Alu2) (w : Width) (s : Word) : Word :=
  let n := widthBits w
  let a := uview n s
  let sa := sview n s
  match f with
  | .mov => narrowN n a
  | .neg => narrow n (-sa)
  | .not => narrowN n (2 ^ n - 1 - a)
  | .abs => narrowN n sa.natAbs
  | .clz => narrowN n (clzN n a)
  | .ctz => narrowN n (ctzN n a)
  | .popc => narrowN n (popN n a)
  | .brev => narrowN n (brevN n a)

/-- The immediate forms of OP 0x04 (R95). -/
inductive AluK | add | and | or | xor | shl | shr | sar | mul
  deriving DecidableEq, Repr

/-- imm19 sign-extended (R57, R89). -/
def imm19 (i : BitVec 19) : Int := sextInt i.toNat 19

/-- R95 at 64 bits. -/
def aluK (f : AluK) (s : Word) (i : BitVec 19) : Word :=
  let v := imm19 i
  let b := toBits 64 v
  match f with
  | .add => narrow 64 ((s.toNat : Int) + v)
  | .and => narrowN 64 (s.toNat &&& b)
  | .or => narrowN 64 (s.toNat ||| b)
  | .xor => narrowN 64 (s.toNat ^^^ b)
  | .shl => narrowN 64 (s.toNat * 2 ^ (i.toNat % 64))
  | .shr => narrowN 64 (s.toNat / 2 ^ (i.toNat % 64))
  | .sar => narrow 64 (sview 64 s / (2 : Int) ^ (i.toNat % 64))
  | .mul => narrow 64 ((s.toNat : Int) * v)

/-- LI (R96). -/
def constLi (i : BitVec 29) : Word := narrow 64 (sextInt i.toNat 29)
/-- LUI (R96): [57:29] the immediate, [63:58] copies of its bit 28, the rest 0. -/
def constLui (i : BitVec 29) : Word := narrow 64 (sextInt i.toNat 29 * (2 : Int) ^ 29)
/-- LTOP (R96). -/
def constLtop (d : Word) (i : BitVec 29) : Word :=
  BitVec.ofNat 64 (i.toNat % 64 * 2 ^ 58 + d.toNat % 2 ^ 58)

/-- BFX and BFXS (R97). -/
def bitField (sg : Bool) (s : Word) (pos len : Nat) : Word :=
  let v := s.toNat / 2 ^ pos % 2 ^ len
  if sg then narrow 64 (sextInt v len) else narrowN 64 v

/-- BFI (R97): bits above 63 are dropped. -/
def bitInsert (d s t : Word) (pos len : Nat) : Word :=
  let q := pos + t.toNat % 64
  let low := d.toNat % 2 ^ q
  let high := d.toNat / 2 ^ (q + len)
  narrowN 64 (low + s.toNat % 2 ^ len * 2 ^ q + high * 2 ^ (q + len))

/-- The conditions of CMP and CMPI (R98). -/
inductive Cond | eq | ne | lt | le | ltu | leu | tst
  deriving DecidableEq, Repr

/-- R98 from the unsigned and signed views. -/
def condHolds (c : Cond) (a b : Nat) (sa sb : Int) : Bool :=
  match c with
  | .eq => decide (a = b)
  | .ne => decide (a ≠ b)
  | .lt => decide (sa < sb)
  | .le => decide (sa ≤ sb)
  | .ltu => decide (a < b)
  | .leu => decide (a ≤ b)
  | .tst => decide (a &&& b ≠ 0)

/-- CMP at a width. -/
def cmpW (c : Cond) (w : Width) (s t : Word) : Bool :=
  let n := widthBits w
  condHolds c (uview n s) (uview n t) (sview n s) (sview n t)

/-- CMPI at 64 bits; b is the immediate as a 64-bit pattern. -/
def cmpK (c : Cond) (s : Word) (i : BitVec 19) : Bool :=
  condHolds c s.toNat (toBits 64 (imm19 i)) (sview 64 s) (imm19 i)

/-! Shape records (R101) -/

/-- The bound and the stride of one slot of a shape octet. -/
def shapeBound (x : Word) : Nat := x.toNat % 2 ^ 32
def shapeStride (x : Word) : Int := sextInt (x.toNat / 2 ^ 32) 32

/-- AGEN over the dimensions used, innermost first. -/
def agenWalk : List Word → Nat → Int → Int
  | [], _, off => off
  | [x], i, off => off + (i : Int) * shapeStride x
  | x :: y :: r, i, off =>
    let b := shapeBound x
    if b = 0 then agenWalk (y :: r) i off
    else agenWalk (y :: r) (i / b) (off + ((i % b : Nat) : Int) * shapeStride x)

/-- The exact product of bounds. -/
def boundProductExact : List Word → Nat
  | [] => 1
  | x :: r => shapeBound x * boundProductExact r

/-- A product of bounds; above 2^64 − 1 it counts as 2^64. -/
def boundProduct (l : List Word) : Nat := Nat.min (boundProductExact l) (2 ^ 64)

end Sys2Proof.Machine
end

