-- ==== Sys2Proof/Machine/Tokens.lean ====
section
/-! DEFINITION. Tokens: the flit and its checks (R35 to R42), edges with their positions and places (R43 to R45, R183,
R228, R268, R269), the router network (R38, R39, R46, R47), and what a tile does with a token that arrives. -/

namespace Sys2Proof

open Sys2Proof.Machine

/-! ## The flit (R35 to R37, R40 to R42) -/

/-- The header as a number (R36). -/
def Token.header (k : Token) : Nat :=
  k.rsv.toNat + k.bytes.toNat * 2 ^ 4 + k.steer.toNat * 2 ^ 11 + k.stv.toNat * 2 ^ 14 + k.last.toNat * 2 ^ 15 +
  k.fmt.toNat * 2 ^ 16 + k.skip.toNat * 2 ^ 20 + k.seq.toNat * 2 ^ 28 + k.tag.toNat * 2 ^ 44 + k.ctx.toNat * 2 ^ 76 +
  k.kind.toNat * 2 ^ 86 + k.pri.toNat * 2 ^ 89 + k.port.toNat * 2 ^ 91 + k.node.toNat * 2 ^ 95 + k.ty.toNat * 2 ^ 105 +
  k.tx.toNat * 2 ^ 109 + k.stk.toNat * 2 ^ 114 + k.dev.toNat * 2 ^ 116

/-- Even parity of 40-bit groups: bit j covers flit bits 40j to 40j + 39 (R35). -/
def parityBits (body : Nat) : Nat → Nat
  | 0 => 0
  | j + 1 => parityBits body j + popN 40 (body / 2 ^ (40 * j) % 2 ^ 40) % 2 * 2 ^ j

def Token.body (k : Token) : Nat := k.header + k.payload.toNat * 2 ^ 128
/-- The token with its parity. -/
def Token.sealed (k : Token) : Token := { k with par := BitVec.ofNat 16 (parityBits k.body 16) }
def Token.parityOk (k : Token) : Bool := decide (k.par.toNat = parityBits k.body 16)
-- DESIGN CHOICE, log 125 (unsafe).
/-- The 656 bits. -/
def Token.flit (k : Token) : Nat := k.body + k.par.toNat * 2 ^ 640

/-- A token from its 656 bits. -/
def tokenOfFlit (n : Nat) : Token :=
  { dev := BitVec.ofNat 12 (bitsNat n 127 116), stk := BitVec.ofNat 2 (bitsNat n 115 114)
    tx := BitVec.ofNat 5 (bitsNat n 113 109), ty := BitVec.ofNat 4 (bitsNat n 108 105)
    node := BitVec.ofNat 10 (bitsNat n 104 95), port := BitVec.ofNat 4 (bitsNat n 94 91)
    pri := BitVec.ofNat 2 (bitsNat n 90 89), kind := BitVec.ofNat 3 (bitsNat n 88 86)
    ctx := BitVec.ofNat 10 (bitsNat n 85 76), tag := BitVec.ofNat 32 (bitsNat n 75 44)
    seq := BitVec.ofNat 16 (bitsNat n 43 28), skip := BitVec.ofNat 8 (bitsNat n 27 20)
    fmt := BitVec.ofNat 4 (bitsNat n 19 16), last := n.testBit 15, stv := n.testBit 14
    steer := BitVec.ofNat 3 (bitsNat n 13 11), bytes := BitVec.ofNat 7 (bitsNat n 10 4), rsv := BitVec.ofNat 4 n
    payload := BitVec.ofNat 512 (bitsNat n 639 128), par := BitVec.ofNat 16 (bitsNat n 655 640) }

def kData : Nat := 0
def kReq : Nat := 1
def kCtrl : Nat := 2
def kStat : Nat := 3
def kFault : Nat := 4
def kBcast : Nat := 5
def kResp : Nat := 6
def kFill : Nat := 7

/-- Bytes of an element of a format; none where a token of it holds no elements (R33, R42). -/
def fmtBytes (f : Nat) : Option Nat :=
  if f = 2 ∨ f = 3 ∨ f = 8 ∨ f = 9 then some 1
  else if f = 4 ∨ f = 5 ∨ f = 10 then some 2
  else if f = 6 ∨ f = 11 then some 4
  else if f = 12 then some 8
  else none

-- DEDUCED, log 167 (unsafe).
/-- The receiver's checks on a token alone (R37, R40 to R42). -/
def Token.malformed (k : Token) : Bool :=
  let n := k.bytes.toNat
  let kd := k.kind.toNat
  let c0 := k.payload.toNat % 256
  let cnt := k.payload.toNat % 2 ^ 16
  decide (64 < n) || decide (k.payload.toNat / 2 ^ (8 * n) ≠ 0) || decide (13 ≤ k.fmt.toNat) || decide (17 ≤ k.tx.toNat) ||
  decide (k.rsv ≠ 0) || (!k.stv && decide (k.steer ≠ 0)) ||
  (decide (1 ≤ kd) && decide (kd ≤ 5) && decide (k.fmt ≠ 0)) ||
  (decide (kd = kReq) && (decide (n ≠ 2) || decide (cnt = 0) || decide (256 < cnt))) ||
  (decide (kd = kCtrl) && (decide (c0 = 0) || decide (6 ≤ c0))) ||
  (decide (kd = kData) && (match fmtBytes k.fmt.toNat with | some w => decide (n % w ≠ 0) | none => false))

/-- The tile a token is bound for on this device. -/
def Token.tile (k : Token) : TileId := { stk := k.stk.toNat, x := Nat.min k.tx.toNat 16, y := k.ty.toNat }

/-- A token under construction. -/
def blankTok : Token :=
  { dev := 0, stk := 0, tx := 0, ty := 0, node := 0, port := 0, pri := 0, kind := 0, ctx := 0, tag := 0, seq := 0, skip := 0
    fmt := 0, last := false, stv := false, steer := 0, bytes := 64, rsv := 0, payload := 0, par := 0 }

/-- The low n bytes of a payload. -/
def cutPayload (v n : Nat) : BitVec 512 := BitVec.ofNat 512 (v % 2 ^ (8 * n))

end Sys2Proof

namespace Sys2Proof.Machine

/-! ## The network (R38, R39, R46) -/

/-- A token enters the network at a tile. -/
def inject (s : State) (t : TileId) (k : Token) (direct : Bool) : State :=
  let (id, s) := s.fresh
  { s with net := s.net ++ [{ id := id, tok := k.sealed, at_ := t, tries := 0, src := t, direct := direct }] }

def State.setNet (s : State) (n : NetTok) : State := { s with net := s.net.map (fun x => if x.id = n.id then n else x) }
def State.dropNet (s : State) (id : Nat) : State := { s with net := s.net.filter (fun x => x.id != id) }

/-- A token to a place of a stack of this device. -/
def addressed (s : State) (k : Token) (t : TileId) (node port : Nat) : Token :=
  { k with dev := BitVec.ofNat 12 s.dev, stk := BitVec.ofNat 2 t.stk, tx := BitVec.ofNat 5 t.x, ty := BitVec.ofNat 4 t.y
           node := BitVec.ofNat 10 node, port := BitVec.ofNat 4 port }

def nearer (a d : Nat) : Nat := if a < d then a + 1 else if d < a then a - 1 else a
/-- One hop: along X to the column, then along Y to the row (R38). -/
def hopTo (a d : TileId) : TileId :=
  if a.x ≠ d.x then { a with x := nearer a.x d.x } else { a with y := nearer a.y d.y }

/-- The port tile of an exit. -/
def exitAt (stk e : Nat) : TileId :=
  { stk := stk, x := Config.exitTile stk e % 17, y := Config.exitTile stk e / 17 % 16 }

-- DEDUCED, log 142 (unsafe).
/-- A TOKEN record of a discarded token (R46). -/
def tokenRecord (s : State) (t : TileId) (k : Token) (sub val : Nat) : State :=
  let fi : FInfo := { code := .token, detail := fld 0 2 sub + fld 8 8 val }
  if (s.ctx k.ctx.toNat).part.isSome then postNodeFault s t k.ctx.toNat fi k.node.toNat k.tag.toNat .discarded
  else s.post .mg (faultRecord s { tile := t, entry := none, ctx := k.ctx.toNat } fi 0 0 k.node.toNat k.tag.toNat .discarded 0)

/-! ## The producer's end of an edge (R43, R183, R228, R268) -/

/-- Tokens on their way to an input port. -/
def inFlight (s : State) (t : TileId) (node port : Nat) : Nat :=
  (s.net.filter (fun n => decide (n.tok.dev.toNat = s.dev) && decide (n.tok.stk.toNat = t.stk) &&
    decide (n.tok.tx.toNat = t.x) && decide (n.tok.ty.toNat = t.y) && decide (n.tok.node.toNat = node) &&
    decide (n.tok.port.toNat = port) && decide (n.tok.kind.toNat ≠ kReq) && decide (n.tok.kind.toNat ≠ kCtrl))).length

/-- Places that live firings of an actor hold on one of its outputs. -/
def reservedOn (s : State) (t : TileId) (key : Nat) : Nat :=
  (((s.tile t).firings.filter (fun f => f.node == key / 16)).map (fun f => tabGet 0 f.reserved (key % 16))).foldl (· + ·) 0

/-- Free places of an output's edge (R228, R269); an output without an edge never holds its node back (R244). -/
def outSpace (s : State) (t : TileId) (key : Nat) : Nat :=
  match tabFind (s.tile t).outs key with
  | none => 65536
  | some o =>
    match tabFind (s.tile o.dst).edges (portKey o.dnode o.dport) with
    | none => 65536
    | some e =>
      e.depth - (e.early.length + e.fifo.length + inFlight s o.dst o.dnode o.dport + o.waiting.length + reservedOn s t key)

/-- What a node that is no actor may emit on an output: on a pull edge only positions that requests cover (R268). -/
def outRoom (s : State) (t : TileId) (key : Nat) : Nat :=
  match tabFind (s.tile t).outs key with
  | none => 65536
  | some o => if o.pull then Nat.min (outSpace s t key) (o.covered - o.made) else outSpace s t key
def outBound (s : State) (t : TileId) (key : Nat) : Bool := (tabFind (s.tile t).outs key).isSome

def State.setOut (s : State) (t : TileId) (key : Nat) (o : OutEdge) : State :=
  s.setTile t { s.tile t with outs := tabSet (s.tile t).outs key o }
def State.setEdge (s : State) (t : TileId) (key : Nat) (e : Edge) : State :=
  s.setTile t { s.tile t with edges := tabSet (s.tile t).edges key e }

/-- A token takes the next position of an output's edge and is sent, or waits for a request to cover it (R43,
R183); an unbound output discards it. -/
def emit (s : State) (t : TileId) (key : Nat) (k : Token) : State :=
  match tabFind (s.tile t).outs key with
  | none => s
  | some o =>
    let k := { addressed s k o.dst o.dnode o.dport with seq := o.next, skip := BitVec.ofNat 8 o.skip }
    let lasts := if k.last then k.tag :: o.lastSent.filter (· != k.tag) else o.lastSent
    let o' := { o with next := o.next + 1, skip := 0, made := o.made + 1, lastSent := lasts }
    if o.pull && (decide (o.covered ≤ o.made) || !o.waiting.isEmpty) then
      s.setOut t key { o' with waiting := o.waiting ++ [(o.made, k)] }
    else inject (s.setOut t key o') t k false

/-- One skipped position; after 255 in a row the next is sent though all zero (R43). -/
def skipOne (s : State) (t : TileId) (key : Nat) (zero : Token) : State :=
  match tabFind (s.tile t).outs key with
  | none => s
  | some o =>
    if 255 ≤ o.skip then emit s t key zero
    else s.setOut t key { o with next := o.next + 1, skip := o.skip + 1, made := o.made + 1 }
def skipN (t : TileId) (key : Nat) (zero : Token) : Nat → State → State
  | 0, s => s
  | n + 1, s => skipN t key zero n (skipOne s t key zero)

/-- Tokens whose positions requests now cover are sent. `n` bounds the list. -/
def sendCovered (t : TileId) (key : Nat) : Nat → State → State
  | 0, s => s
  | n + 1, s =>
    match tabFind (s.tile t).outs key with
    | none => s
    | some o =>
      match o.waiting with
      | [] => s
      | (p, k) :: r =>
        if p < o.covered then sendCovered t key n (inject (s.setOut t key { o with waiting := r }) t k false)
        else s

/-- Requests at hand that start where the covered positions end. -/
def coverChain : Nat → OutEdge → OutEdge
  | 0, o => o
  | n + 1, o =>
    match o.reqs.find? (fun q => decide (q.1 ≤ o.covered)) with
    | none => o
    | some q => coverChain n { o with reqs := o.reqs.erase q, covered := Nat.max o.covered (q.1 + q.2) }

-- DEDUCED, log 157 (unsafe).
/-- A request reaches the producer of a pull edge (R40): it covers n positions from the one it names, the nearest with that number;
positions beyond a gap wait for the request that names it. What is left of it after a LAST covers the next stream. -/
def coverMore (s : State) (t : TileId) (key first n : Nat) : State :=
  match tabFind (s.tile t).outs key with
  | none => s
  | some o =>
    let d := (first + 2 ^ 16 - o.covered % 2 ^ 16) % 2 ^ 16
    let q := if d < 2 ^ 15 then (o.covered + d, n) else (o.covered + d - 2 ^ 16, n)
    let o := coverChain (o.reqs.length + 1) { o with reqs := o.reqs ++ [q] }
    sendCovered t key o.waiting.length (s.setOut t key o)

/-- The request of a consumer (R40, R187, R268): its SEQ is the first position not yet requested. -/
def askMore (s : State) (t : TileId) (key n : Nat) (pri : BitVec 2) (ctx : Nat) : State :=
  match tabFind (s.tile t).edges key with
  | none => s
  | some e =>
    let k := { blankTok with kind := 1, bytes := 2, payload := BitVec.ofNat 512 n, seq := BitVec.ofNat 16 e.asked, pri := pri
                             ctx := BitVec.ofNat 10 ctx }
    inject (s.setEdge t key { e with asked := e.asked + n }) t (addressed s k e.src e.srcNode e.srcPort) false

/-! ## The sink (R44, R45, R48, R229, R269) -/

/-- What an edge does with a token: it commits tokens, up to one whose fault is then reported; it holds one; it has no place yet; or
the position lies too far on. -/
inductive Taken
  | commit (e : Edge) (l : List Token) (fault : Option Token)
  | held (e : Edge)
  | full
  | far
  deriving DecidableEq, Repr

/-- Commits what is in order, from the tokens held; `bad` tells those that cannot be taken. -/
def commitChain (bad : Token → Bool) : Nat → Edge → List Token → Edge × List Token × Option Token
  | 0, e, acc => (e, acc.reverse, none)
  | n + 1, e, acc =>
    match e.early.find? (fun k => k.seq - (k.skip.setWidth 16) == e.expect) with
    | none => (e, acc.reverse, none)
    | some k =>
      if bad k then ({ e with early := e.early.erase k }, acc.reverse, some k)
      else commitChain bad n { e with early := e.early.erase k, expect := k.seq + 1 } (k :: acc)

-- DEDUCED, log 158 (unsafe).
/-- An arrival at an edge (R44). A token that cannot be taken keeps its place in the order: its fault is reported when it is the oldest,
and its position never commits. -/
def Edge.take (e : Edge) (bad : Token → Bool) (k : Token) : Taken :=
  let d := (k.seq - k.skip.setWidth 16 - e.expect).toNat
  if 512 ≤ d then .far
  else if d = 0 then
    if bad k then .commit e [] (some k)
    else if e.depth ≤ e.fifo.length then .full
    else
      let (e, l, f) := commitChain bad e.early.length { e with expect := k.seq + 1, arrived := e.arrived + 1 + k.skip.toNat } [k]
      .commit e l f
  else if e.depth ≤ e.fifo.length + e.early.length then .full
  else .held { e with early := e.early ++ [k], arrived := e.arrived + 1 + k.skip.toNat }

-- DEDUCED, log 146 (unsafe).
/-- The zero tokens of the positions a token skips, as an actor port materialises them (R45). -/
def materialise (k : Token) : List Token :=
  ((List.range k.skip.toNat).map (fun i =>
    { k with seq := k.seq - k.skip.setWidth 16 + BitVec.ofNat 16 i, skip := 0, fmt := 0, payload := 0, last := false
             stv := false, steer := 0, bytes := 0 })) ++ [k]

/-- Tokens commit on an actor's port: stamped, indexed where an entry is to be had, and P is set (R189). -/
def landTokens (x : Tile) (node port : Nat) : List Token → Tile
  | [] => x
  | k :: r =>
    let key := portKey node port
    let ix := canIndex x.matching node k.tag
    let x := match tabFind x.edges key with
      | some e =>
        let q : FTok := { tok := k, indexed := ix, stamp := x.stamp + 1 }
        { x with edges := tabSet x.edges key { e with fifo := e.fifo ++ [q] } }
      | none => x
    let x := { x with
      stamp := x.stamp + 1
      matching := if ix then addIndex x.matching node k.tag else x.matching
      tagP := tabSet x.tagP node (tabGet 0 x.tagP node ||| BitVec.ofNat 16 (2 ^ port)) }
    landTokens x node port r

/-- A change of depth takes effect when the edge's tokens held have committed; a shortening when it is empty; a longer edge
when the tile's pool of 512 has the entries (R48, R188, R269). -/
def applyReconf (x : Tile) (key : Nat) : Tile :=
  match tabFind x.edges key with
  | none => x
  | some e =>
    match e.reconf with
    | none => x
    | some d =>
      let pool := (x.edges.map (fun p => p.2.depth)).foldl (· + ·) 0
      let ok := if d < e.depth then e.early.isEmpty && e.fifo.isEmpty && decide (e.asked ≤ e.arrived)
                else e.early.isEmpty && decide (pool + d ≤ 512 + e.depth)
      if ok then { x with edges := tabSet x.edges key { e with depth := d, reconf := none } } else x

/-- The changes of depth that wait at a tile are looked at: tokens have committed or left, or entries of the pool are free (R188). -/
def reconfAll (x : Tile) : Tile :=
  x.edges.foldl (fun x p => if p.2.reconf.isSome then applyReconf x p.1 else x) x

/-! ## Arrival at a tile (R40, R41, R46) -/

-- DEDUCED, log 82 (unsafe).
/-- Which tokens a node's edge takes by kind: STAT for a statistics ADDE, DATA or STAT for a WRITE MPORT, PIS and PIU for
the ME's ports, DATA for other operators, and any but REQ, CTRL and OMFILL for an actor or CHAN. -/
def kindOk (x : Tile) (node : Nat) (k : Token) : Bool :=
  let kd := k.kind.toNat
  let r := x.rec_ node
  if 18 ≤ node then decide (kd ≠ kReq) && decide (kd ≠ kCtrl) && decide (kd ≠ kFill)
  else if node = 16 then decide (kd = kData) && decide (k.fmt.toNat ≤ 1)
  else if node = 2 ∨ node = 3 then if recSub r = 2 then decide (kd = kStat) else decide (kd = kData)
  else if node = 13 ∨ node = 14 then decide (kd = kData) || decide (kd = kStat)
  else if node = 8 ∨ node = 9 ∨ node = 7 ∨ node = 10 then decide (kd = kData) || decide (kd = kStat)
  else decide (kd = kData)

/-- MERGE in arrival order (R258). -/
def isArrival (x : Tile) (node : Nat) : Bool := decide (node = 10) && x.bound 10 && decide (recSub (x.rec_ 10) = 0)

/-- A token that carries no position of an edge: a completion or a plane message takes the next one. -/
def placeless (k : Token) : Bool := decide (k.kind.toNat = kBcast) || decide (k.kind.toNat = kResp)

/-- What becomes of an arrival. -/
inductive Arrived
  | done (s : State)
  | wait
  | bad (sub : Nat)

-- DEDUCED, log 148 (unsafe).
/-- A data token at a node's port. -/
def arriveData (s : State) (t : TileId) (k : Token) (direct : Bool) : Arrived :=
  let x := s.tile t
  let node := k.node.toNat
  let key := portKey node k.port.toNat
  let bad := fun (k : Token) => k.malformed || !kindOk x node k
  match tabFind x.edges key with
  | none => .bad (if k.malformed then 8 else 9)
  | some e =>
    if isArrival x node then
      if bad k then .bad 8
      else if e.depth ≤ e.fifo.length then .wait
      else
        let q : FTok := { tok := k, indexed := false, stamp := x.stamp }
        let e := { e with fifo := e.fifo ++ [q], arrived := e.arrived + 1 + k.skip.toNat }
        .done (s.setTile t { x with stamp := x.stamp + 1, edges := tabSet x.edges key e })
    else if direct then .bad 8
    else
      let k := if placeless k then { k with seq := e.expect, skip := 0 } else k
      match e.take bad k with
      | .far => .bad 8
      | .full => .wait
      | .held e => .done (s.setEdge t key e)
      | .commit e l fault =>
        let s := match fault with
          | some b => tokenRecord s t b 8 (b.header % 2 ^ 64)
          | none => s
        let x := { x with edges := tabSet x.edges key e }
        if x.isActor node then
          .done (s.setTile t (reconfAll (landTokens x node k.port.toNat (l.flatMap materialise))))
        else
          let q : List FTok := l.map (fun k => { tok := k, indexed := false, stamp := x.stamp })
          let e := { e with fifo := e.fifo ++ q }
          .done (s.setTile t (reconfAll { x with stamp := x.stamp + 1, edges := tabSet x.edges key e }))

/-- A control token (R41). -/
def arriveCtrl (s : State) (t : TileId) (k : Token) : Arrived :=
  let x := s.tile t
  let node := k.node.toNat
  let key := portKey node k.port.toNat
  let c := k.payload.toNat % 256
  if c = 1 then
    let d := k.payload.toNat / 256 % 2 ^ 16
    if k.port = 15 ∧ node < 16 then .bad 8
    else if (tabFind x.edges key).isNone then .bad 9
    else if d < 2 ∨ 256 < d then .bad 8
    else .done (s.later (.reconfCtrl t node k.port.toNat d))
  else if c = 2 then
    if (node = 13 ∨ node = 14) ∧ k.port = 15 ∧ x.bound node then
      .done (s.later (.relatch t node (BitVec.ofNat 64 (k.payload.toNat / 2 ^ 64))
        (BitVec.ofNat 24 (k.payload.toNat / 2 ^ 128))))
    else .bad 8
  else if node < 16 ∧ k.port = 15 then .bad 8
  else
    match x.inst with
    | none => .bad 9
    | some i => if c = 3 then .done (s.later (.dhold i)) else if c = 4 then .done (s.later (.dfree i)) else .done (s.later (.halt t))

/-- A token at its destination tile. -/
def arrive (s : State) (t : TileId) (k : Token) (direct : Bool) : Arrived :=
  let x := s.tile t
  let here := match x.inst.bind s.inst? with | some i => decide (i.ctx = k.ctx.toNat) | none => false
  let key := portKey k.node.toNat k.port.toNat
  let plain := decide (k.kind.toNat ≠ kCtrl) && decide (k.kind.toNat ≠ kReq)
  if k.malformed && !(plain && here) then .bad 8
  else if !here then .bad 9
  else if k.kind.toNat = kCtrl then arriveCtrl s t k
  else if k.kind.toNat = kReq then
    match tabFind x.outs key with
    | some o => if o.pull then .done (coverMore s t key k.seq.toNat (k.payload.toNat % 2 ^ 16)) else .bad 9
    | none => .bad 9
  else arriveData s t k direct

/-! ## Hops (R38, R39, R46) -/

/-- The next hop of a token: another tile, the device's edge by a link, a port of a node here, or no route. -/
def nextHop (s : State) (n : NetTok) : Hop :=
  let k := n.tok
  let a := n.at_
  if k.dev.toNat ≠ s.dev then
    match tabFind (s.stack a.stk).routes k.dev.toNat with
    | none => .noRoute
    | some link =>
      let k := (tabGet {} s.links link).stk
      if k = a.stk then
        let e := exitAt a.stk (4 + link)
        if a = e then .out link else .tile (hopTo a e)
      else
        let e := exitAt a.stk k
        if a = e then .tile (exitAt k a.stk) else .tile (hopTo a e)
  else if k.stk.toNat ≠ a.stk then
    let e := exitAt a.stk k.stk.toNat
    if a = e then .tile (exitAt k.stk.toNat a.stk) else .tile (hopTo a e)
  else if a = k.tile then .here k.node.toNat k.port.toNat
  else .tile (hopTo a k.tile)

-- DESIGN CHOICE, log 159 (unsafe).
/-- Whether the queue of its priority at its next hop has a place for a token (R39); at its own tile, whether its port takes it. A failed
hop lets tokens pass once the FAULT graph has repaired or retired it (R46). -/
def canGo (s : State) (n : NetTok) : Bool :=
  let h := nextHop s n
  if s.badHops.contains (n.at_, h) then decide (Config.hopFate (tileKey n.at_) s.tick ≠ 0)
  else match h with
    | .tile b =>
      let next := nextHop s { n with at_ := b }
      let q := s.net.filter (fun m => decide (m.at_ = b) && decide (m.tok.pri = n.tok.pri) && decide (nextHop s m = next))
      q.isEmpty || decide (q.length ≤ Config.hopCredits (tileKey b))
    | .here _ _ => (match arrive s n.at_ n.tok n.direct with | .wait => false | _ => true)
    | .out link => let q := (tabGet {} s.links link).txQueue; q.isEmpty || decide (q.length ≤ Config.hopCredits (tileKey n.at_))
    | .noRoute => true

/-- The first tokens of the four queues of a router output, by falling priority (R39). -/
def queueHeads (s : State) (a : TileId) (h : Hop) : List NetTok :=
  let q := s.net.filter (fun n => decide (n.at_ = a) && decide (nextHop s n = h))
  [3, 2, 1, 0].filterMap (fun p => q.find? (fun n => decide (n.tok.pri.toNat = p)))

/-- Grants in a row that an output has made over a waiting lower priority. -/
def grantCount (s : State) (a : TileId) (h : Hop) : Nat :=
  match s.grants.find? (fun g => decide (g.1 = a) && decide (g.2.1 = h)) with | some g => g.2.2 | none => 0

-- DEDUCED, log 160 (unsafe).
/-- The token that a router output grants next: of the highest priority that can go, or after 15 such grants the next lower one. -/
def granted (s : State) (a : TileId) (h : Hop) : Option NetTok :=
  match (queueHeads s a h).filter (fun n => !n.refused && canGo s n) with
  | [] => none
  | [n] => some n
  | n :: m :: _ => some (if 15 ≤ grantCount s a h then m else n)

/-- A grant is counted while a lower priority waits. -/
def noteGrant (s : State) (n : NetTok) : State :=
  let a := n.at_
  let h := nextHop s n
  let heads := queueHeads s a h
  let lower := heads.any (fun m => decide (m.tok.pri.toNat < n.tok.pri.toNat))
  let higher := heads.any (fun m => decide (n.tok.pri.toNat < m.tok.pri.toNat))
  let rest := s.grants.filter (fun g => !(decide (g.1 = a) && decide (g.2.1 = h)))
  { s with grants := if lower && !higher then rest ++ [(a, h, grantCount s a h + 1)] else rest }

/-- A parity refusal at the next hop (R46): the token is sent again 2 cycles later; after eight in a row the hop has failed. -/
def refuseHop (s : State) (n : NetTok) (at_ : TileId) : State :=
  let s := s.spend 3 (tileKey at_)
  if 7 ≤ n.tries then
    let fi : FInfo := { code := .parity, detail := unitDetail 3 (tileKey at_) }
    let s : State := { s.setNet { n with tries := 0 } with badHops := s.badHops ++ [(n.at_, nextHop s n)] }
    s.post .mg (faultRecord s { tile := n.at_, entry := none, ctx := n.tok.ctx.toNat } fi 0 0 n.tok.node.toNat n.tok.tag.toNat .none 0)
  else (s.setNet { n with tries := n.tries + 1, refused := true }).at_ n.at_.stk (s.cyc n.at_.stk + 2) (.tokenResend n.id)

-- DESIGN CHOICE, log 161 (unsafe).
/-- A hop that has failed, as the FAULT graph leaves it (R46): repaired, it takes the token again; retired, it discards what it holds. -/
def mendHop (s : State) (n : NetTok) : State :=
  let h := (n.at_, nextHop s n)
  if Config.hopFate (tileKey n.at_) s.tick = 1 then { s with badHops := s.badHops.filter (fun x => x != h) }
  else if Config.hopFate (tileKey n.at_) s.tick = 0 then s
  else s.dropNet n.id

/-- A token moves to the end of its queue at the next router. -/
def moveTok (s : State) (n : NetTok) (b : TileId) : State :=
  let s := s.dropNet n.id
  { s with net := s.net ++ [{ n with at_ := b, tries := 0 }] }

/-- Data flits leave a link while it may send and its replay buffer has room (R388, R410). -/
def pumpLink (n : Nat) : Nat → State → State
  | 0, s => s
  | k + 1, s =>
    let l := tabGet {} s.links n
    match l.txQueue with
    | [] => s
    | f :: r =>
      if !l.up || l.txStop || decide (1024 ≤ l.replay.length) then s
      else
        let m : Link := { l with txQueue := r, replay := l.replay ++ [(l.txNext, f)], txNext := (l.txNext + 1) % 65535 }
        let s : State := { s with links := tabSet s.links n m }
        let s := if l.replay.isEmpty then s.rearm l.stk ((s.stack l.stk).cyc + 1500) (.replayTimeout n) else s
        pumpLink n k (s.send (.flit n l.txNext f))

/-- A token reaches the port tile of its link (R47). -/
def enterLink (s : State) (n : Nat) (k : Token) : State :=
  let l := tabGet {} s.links n
  pumpLink n (l.txQueue.length + 1) { s with links := tabSet s.links n { l with txQueue := l.txQueue ++ [BitVec.ofNat 656 k.flit] } }

/-- A token that its output grants takes its hop; `arrived` is what becomes of it at a port of its tile. -/
def hopStep (s : State) (id : Nat) (arrived : State → NetTok → State) : State :=
  match s.net.find? (fun n => n.id == id) with
  | none => s
  | some n =>
    let h := nextHop s n
    if (granted s n.at_ h).map (fun m => m.id) ≠ some id then s
    else if s.badHops.contains (n.at_, h) then mendHop s n
    else
      match h with
      | .here _ _ => if s.struck 3 (tileKey n.at_) then refuseHop s n n.at_ else arrived (noteGrant s n) n
      | .noRoute =>
        postNodeFault ((noteGrant s n).dropNet id) n.src n.tok.ctx.toNat (fabricTok s n) n.tok.node.toNat n.tok.tag.toNat .discarded
      | .out link => enterLink ((noteGrant s n).dropNet id) link n.tok
      | .tile b => if s.struck 3 (tileKey b) then refuseHop s n b else moveTok (noteGrant s n) n b
where
  /-- FABRIC of a token whose device no route reaches: R342 gives it no address. -/
  fabricTok (s : State) (n : NetTok) : FInfo :=
    { code := .fabric, detail := fld 20 2 n.tok.ctx.toNat + fld 22 2 n.tok.dev.toNat }

/-- The watchdog of an instance is cleared (R274). -/
def progress (s : State) (inst : Option Nat) : State :=
  match inst.bind s.inst? with
  | some i => s.setInst { i with wd := s.cyc i.stk }
  | none => s

/-- A token at its port (R44 to R46): accepted, held in the network until there is a place, or discarded with a record. -/
def landTok (s : State) (n : NetTok) : State :=
  let t := n.at_
  match arrive s t n.tok n.direct with
  | .done s => progress (s.dropNet n.id) (s.tile t).inst
  | .wait => s
  | .bad sub => tokenRecord (s.dropNet n.id) t n.tok sub (if sub = 8 then n.tok.header % 2 ^ 64 else n.tok.node.toNat)

/-- ROUTE_TOKEN (R38, R39): one hop of a token that its output grants; at its own tile TOKEN_RECEIVE follows. -/
def routeTok (id : Nat) (s : State) : State :=
  match (s.net.find? (fun n => n.id == id)).map (nextHop s) with
  | some (.here _ _) => s.later (.tokenReceive id)
  | _ => hopStep s id (fun s _ => s)
def execRouteToken (n : Nat) (s : State) : Outcome := .next (routeTok n s)

/-- TOKEN_RECEIVE (R44 to R46). -/
def receiveTok (id : Nat) (s : State) : State :=
  match s.net.find? (fun n => n.id == id) with
  | none => s
  | some n =>
    match nextHop s n with
    | .here _ _ => hopStep s id landTok
    | _ => s
def execTokenReceive (n : Nat) (s : State) : Outcome := .next (receiveTok n s)

/-- TOKEN_RESEND (R46). -/
def resendTok (id : Nat) (s : State) : State :=
  { s with net := s.net.map (fun n => if n.id = id then { n with refused := false } else n) }
def execTokenResend (n : Nat) (s : State) : Outcome := .next (resendTok n s)

/-- RECONF at a consumer (R41, R48). -/
def reconfEdge (t : TileId) (node port depth : Nat) (s : State) : State :=
  let x := s.tile t
  let key := portKey node port
  match tabFind x.edges key with
  | none => s
  | some e => s.setTile t (reconfAll { x with edges := tabSet x.edges key { e with reconf := some depth } })
def execReconfCtrl (t : TileId) (node port depth : Nat) (s : State) : Outcome := .next (reconfEdge t node port depth s)

/-- REQ at the producer of a pull edge (R40): `first` is the position it names. -/
def execReqToken (t : TileId) (node port first count : Nat) (s : State) : Outcome :=
  .next (coverMore s t (portKey node port) first count)

/-- The first token of a port. -/
def headTok (s : State) (t : TileId) (node port : Nat) : Option Token :=
  match tabFind (s.tile t).edges (portKey node port) with
  | some e => e.fifo.head?.map (fun q => q.tok)
  | none => none

/-- The first token of a port leaves its FIFO; a waiting change of depth is looked at. -/
def popTok (s : State) (t : TileId) (node port : Nat) : State :=
  let x := s.tile t
  let key := portKey node port
  match tabFind x.edges key with
  | none => s
  | some e => s.setTile t (reconfAll { x with edges := tabSet x.edges key { e with fifo := e.fifo.drop 1 } })

end Sys2Proof.Machine
end

