-- ==== Sys2Proof/Machine/Engine.lean ====
section
/-! DEFINITION. What the engine commands share (R177 to R181, R34, R69, R209 to R211, R242): descriptors, ranges, reading
and writing memory, attachment, completion and failure. -/

namespace Sys2Proof.Machine

/-- The DETAIL bytes of ENGINE and TOKEN (R404). -/
def subDetail (sub val : Nat) : Nat := fld 0 2 sub + fld 8 8 val
def engineInfo (sub val : Nat) : FInfo := { code := .engine, detail := subDetail sub val }

/-! ## Descriptors (R32 to R34) -/

-- DEDUCED, log 34 (unsafe).
def readDesc (b : Nat) : Desc :=
  let g := fun off size => b / 2 ^ (8 * off) % 2 ^ (8 * size)
  { base := g 0 8, fmt := g 8 1, spl := g 9 1, plo := g 0x0A 1, phi := g 0x0B 1, layout := g 0x0C 1, blk := g 0x0E 2
    rows := g 0x10 4, cols := g 0x14 4, rstr := sextInt (g 0x18 8) 64, pstr := g 0x20 8, scale := g 0x28 8
    cstr := sextInt (g 0x30 8) 64 }

/-- R34. -/
def descOk (b : Nat) : Bool :=
  let d := readDesc b
  let plane := decide (d.fmt ≤ 1)
  let tiled := decide (d.layout = 1) || decide (d.layout = 2)
  decide (d.fmt ≤ 12) && decide (d.layout ≤ 3) && decide (b / 2 ^ (8 * 0x0D) % 256 = 0) && decide (b / 2 ^ (8 * 0x38) % 2 ^ 64 = 0) &&
  (if plane then decide (1 ≤ d.spl) && decide (d.spl ≤ 16) && decide (d.plo ≤ d.phi) && decide (d.phi < d.spl) && tiled
   else decide (d.spl = 0) && decide (d.plo = 0) && decide (d.phi = 0) && !tiled) &&
  (decide (d.layout ≠ 3) || (decide (d.fmt = 7) && decide (d.blk = 64))) &&
  decide (d.rows ≠ 0) && decide (d.cols ≠ 0) &&
  (!tiled || (decide (d.pstr ≠ 0) && decide (d.pstr % 1024 = 0)))

def Desc.planes (d : Desc) : Nat := d.phi - d.plo + 1
/-- An address of plane p of a tile (R32). -/
def Desc.block (d : Desc) (tr tc p : Nat) : Nat :=
  toBits 64 ((d.base : Int) + (tr : Int) * d.rstr + (tc : Int) * d.cstr + ((p * d.pstr : Nat) : Int))
/-- The declared planes of one tile, as rows of bytes. -/
def Desc.tileArea (d : Desc) (tr tc : Nat) : List Rect :=
  [{ base := d.block tr tc d.plo, rowb := 1024, pitch := d.pstr, rows := d.planes }]
/-- Elements of the tile dimension of 64, and of the reduction dimension of 128 (R10, R32). -/
def Desc.dim64 (d : Desc) : Nat := if d.layout = 1 then d.rows else d.cols
def Desc.dim128 (d : Desc) : Nat := if d.layout = 1 then d.cols else d.rows
def Desc.tileRows (d : Desc) : Nat := (d.dim64 + 63) / 64
def Desc.tileCols (d : Desc) : Nat := (d.dim128 + 127) / 128
/-- Bytes of an element row of layout 0. -/
def Desc.rowBytes (d : Desc) : Nat := d.cols * ((fmtBytes d.fmt).getD 1)

/-- Bytes of a plane block with elements of the tensor: 16 to a row of the tile; the lines after them are not accessed (R10, R305). -/
def Desc.held (d : Desc) (tr tc : Nat) : Nat := if 128 * tc < d.dim128 then 16 * Nat.min 64 (d.dim64 - 64 * tr) else 0
/-- Byte n of a plane block as a consumer reads it: elements beyond the tensor are zero (R34). -/
def Desc.blockByte (d : Desc) (tc n : Nat) (b : Byte) : Byte :=
  BitVec.ofNat 8 (b.toNat % 2 ^ Nat.min 8 (d.dim128 - 128 * tc - 8 * (n % 16)))

/-! ## Ranges (R178) -/

/-- A memory area of a command. -/
structure Range where
  w    : Bool
  area : List Rect
  deriving DecidableEq, Repr

/-- The ranges of a command have been granted, or its form waits for them. -/
inductive Ranged
  | ready (s : State) (f : Firing) (regs : List (Nat × Nat)) (away : List AwayReg)
  | wait (d : Done)

/-- The claims of ranges, each with a new identity. -/
def claimRanges (t : TileId) (f : Firing) : List Range → State → List Claim → Except FInfo (List Claim × State)
  | [], s, acc => .ok (acc.reverse, s)
  | r :: l, s, acc =>
    let (wid, s) := s.fresh
    let a := accessOf s t f .range r.w (areaBase r.area)
    match claim s a (.firing t f.id) true wid r.area (engineInfo 4 (areaBase r.area)) with
    | .error e => .error e
    | .ok c => claimRanges t f l s (c :: acc)

/-- Opens of ranges at other devices: one message for each rectangle of each claim that a route reaches. -/
def openAway (t : TileId) (f : Firing) : List (Claim × Nat) → State → List Nat → State × List Nat
  | [], s, acc => (s, acc)
  | (.here _ _ _, _) :: l, s, acc => openAway t f l s acc
  | (.away d k c o w area, i) :: l, s, acc =>
    if routed s t.stk d then
      let won := (lostOpen s f.inst (logSrc t f) (rangeObj i)).map (fun e => e.2.2)
      let (s, acc) := area.foldl (fun (p : State × List Nat) r =>
        let (rid, s) := sendRemote p.1 t.stk (p.1.ctxOf f) r.base (awayKey d k c (o + (r.base - areaBase area)))
          (.range t f.id i) { req := blankReq, isOpen := true, openW := w, rowb := r.rowb, pitch := r.pitch, rows := r.rows
                              range := true, winner := won } none
        (s, p.2 ++ [rid])) (s, acc)
      openAway t f l s acc
    else openAway t f l s acc

/-- The first claim whose device no route reaches. -/
def awayReach (s : State) (t : TileId) (f : Firing) : List Claim → Option FInfo
  | [] => none
  | .here _ _ _ :: l => awayReach s t f l
  | .away d _ _ _ _ area :: l =>
    match reach s t f .range (areaBase area) d with
    | .error (.fault e) => some e
    | _ => awayReach s t f l

/-- A buffered line lies in one of a command's areas. -/
def liesIn (s : State) (t : TileId) (f : Firing) (l : List Range) (e : SbEntry) : Bool :=
  l.any (fun r => areaTouches r.area e.line ||
    (match claimRanges t f [r] s [] with
     | .ok (c, _) => c.any (Claim.touches e.key)
     | .error _ => false))

/-- The ranges stand: the faults that come after them, and the firing's stores to their lines go home first (R69, R179). -/
def rangesStand (s : State) (t : TileId) (f : Firing) (l : List Range) (post : Ex Unit) (regs : List (Nat × Nat)) (away : List AwayReg) :
    Ex Ranged :=
  match post, f.unreached with
  | .error e, _ => .error e
  | .ok _, some e => .error (.fault e)
  | .ok _, none =>
    match earlyDrain s t (s.ctxOf f) f.id (liesIn s t f l) with
    | (s, none) => .ok (.ready s { f with granted := none } regs away)
    | (s, some []) => .ok (.ready s { f with granted := none, committed := true } regs away)
    | (s, some out) =>
      let f := { f with granted := some (regs, away), committed := true, spilled := out, held := true }
      .ok (.wait { s := s.setFiring t f, f := f, lost := true })

/-- A range of a command meets a conflict (R153); in a replay it waits for the holder it lost to, and where the log is full. -/
def rangesLose (s : State) (t : TileId) (f : Firing) (l : List (Nat × Reg)) : Ex (Option State) :=
  let src := logSrc t f
  let waits := l.zipIdx.any (fun p => openWaits s f.inst src (rangeObj p.2) (firstConflict s p.1.1 p.1.2))
  if waits then hold
  else
    match regsConflict s l with
    | none => .ok none
    | some (r, o) =>
      match raceDecided s f.inst src (rangeObj (l.findIdx (fun p => p.2 == r))) (holderValue o.holder) with
      | none => hold
      | some s => .ok (some (takeFault s t f (raceInfo (areaBase r.area) (s.ctxOf f) o)))

/-- The ranges of the command at pc: those inside the firing's windows need none; the others are registered together or not at all
(R178). Translation faults come first, then RACE and WINFULL, then the command's own `post`, then FABRIC (R69). -/
def rangesOf (s : State) (t : TileId) (f : Firing) (l : List Range) (post : Ex Unit) : Ex Ranged :=
  match f.granted with
  | some (r, a) => if accepted s f then rangesStand s t f l post r a else hold
  | none => do
    let (cs, s) ← (match claimRanges t f (l.filter (fun r => !inside f r.w r.area)) s [] with
      | .error e => Except.error (Stop.fault e)
      | .ok r => .ok r)
    let regs := claimRegs cs
    match ← rangesLose s t f regs with
    | some s => .ok (.wait { s := s, f := f, lost := true })
    | none =>
      let f := { f with unreached := awayReach s t f cs }
      let names := regs.map (fun p => (p.1, p.2.wid))
      let s := cs.foldl (fun s c => rdcDropClaim s t.stk (s.ctxOf f) c) s
      let fits := regsFit s regs
      let (s1, rids) := openAway t f cs.zipIdx s []
      if fits && rids.isEmpty then
        match post, f.unreached with
        | .error e, _ => .error e
        | .ok _, some e => .error (.fault e)
        | .ok _, none => rangesStand (enterRegs s regs (claimUses cs)) t f l post names []
      else
        let (qid, s1) := s1.fresh
        let s1 := if fits then enterRegs s1 regs (claimUses cs) else queueOpen s1 qid (.command t f.id 0) regs (claimUses cs) none
        let rids := if fits then rids else qid :: rids
        .ok (.wait { s := s1, f := { f with st := .stalled, wait := .range rids, granted := some (if fits then names else [], []) }
                     moved := true })

/-- One of the requests for the ranges of the command at pc has been granted (R178): registrations here, and elsewhere. -/
def rangeGranted (f : Firing) (rid : Nat) (n : List (Nat × Nat)) (a : List AwayReg) : Firing :=
  match f.wait with
  | .range l =>
    let l := l.filter (· != rid)
    let g := match f.granted with | some (r, b) => some (r ++ n, b ++ a) | none => some (n, a)
    if l.isEmpty then { f with granted := g, wait := .none, st := .running, held := false } else { f with granted := g, wait := .range l }
  | _ => f

/-- WINDOW_GRANT (R155, R178): a queued request has its entries. -/
def windowGranted (stk rid : Nat) (s : State) : State :=
  match (s.stack stk).waits.find? (fun w => w.rid == rid && w.decided) with
  | none => s
  | some w =>
    let x := s.stack stk
    let s := s.setStack stk { x with waits := x.waits.filter (fun y => y.rid != rid) }
    match w.who with
    | .window t fid win =>
      match s.firing? t fid, w.regs.head? with
      | some f, some (k, r) =>
        let b := r.area.headD { base := 0, rowb := 0, pitch := 0, rows := 0 }
        let v : Window := { w := r.w, base := BitVec.ofNat 64 b.base, rowb := b.rowb, pitch := b.pitch, rows := b.rows
                            wid := r.wid, stk := k, remote := false, key := 0 }
        (rdcDropReg s t.stk k r).setFiring t (grantWindow f win v).advance
      | _, _ => s
    | .command t fid _ =>
      match s.firing? t fid with
      | some f => (w.regs.foldl (fun s p => rdcDropReg s t.stk p.1 p.2) s).setFiring t
          (rangeGranted f rid (w.regs.map (fun p => (p.1, p.2.wid))) [])
      | none => s
    | .remote dev k _ r => s.send (.answer dev k r .granted)
    | .host op => hostGranted s op rid []
def execWindowGrant (stk rid : Nat) (s : State) : Outcome := .next (windowGranted stk rid s)

/-! ## Commands (R177, R209 to R211, R242) -/

def State.cmd? (s : State) (t : TileId) (id : Nat) : Option Cmd := (s.tile t).cmds.find? (fun c => c.id == id)
def State.setCmd (s : State) (t : TileId) (c : Cmd) : State :=
  let x := s.tile t
  s.setTile t { x with cmds := x.cmds.map (fun y => if y.id = c.id then c else y) }

def Cmd.isCopy (c : Cmd) : Bool :=
  match c.kind with
  | .oload _ _ _ _ _ _ => false
  | .ostore _ _ _ _ => false
  | .ltload _ _ => false
  | .lwire _ _ => false
  | _ => true
/-- Commands that write memory (R180). -/
def Cmd.writes (c : Cmd) : Bool := c.isCopy || (match c.kind with | .ostore _ _ _ _ => true | _ => false)
def Cmd.pending (c : Cmd) : Bool := decide (c.st = .queued) || decide (c.st = .running)

/-- A new command of a firing, with its ranges. -/
def attach (s : State) (t : TileId) (f : Firing) (kind : CmdKind) (acq rel : Bool) (scope : Scope) (rs : List Range)
    (regs : List (Nat × Nat)) (away : List AwayReg) : Cmd × State :=
  let x := s.tile t
  let c : Cmd := { id := x.nextCmd, owner := f.id, inst := f.inst, tag := f.tag, kind := kind, st := .queued, acq := acq
                   rel := rel, scope := scope, evid := 0, cdst := 0, toNode := false, chunk := 0, written := 0
                   fault := none, ranges := regs, away := away, lines := [], asked := [], acks := 0, snap := none
                   srcs := (rs.filter (fun r => !r.w)).map (fun r => r.area) }
  (c, s.setTile t { x with nextCmd := x.nextCmd + 1, cmds := x.cmds ++ [c] })

/-- What ACQ waits for before the command's first read (R180). -/
def acqMet (x : Tile) (c : Cmd) : Bool :=
  !c.acq || x.cmds.all (fun d => !(decide (d.owner = c.owner) && decide (d.id < c.id) && d.writes && d.pending))
/-- An evaluation of a firing accepted before a command is still to end. -/
def earlierEval (l : Lcb) (fid id : Nat) : Bool :=
  let mine := fun (j : LevalJob) => decide (j.owner = fid) && !j.orphan && decide (j.stamp ≤ id)
  (match l.job with | some j => mine j | none => false) || l.queue.any (fun q => match q with | .eval j => mine j | _ => false)
/-- What REL waits for before its first write: every earlier command, and earlier memory forms as a release (R160, R177, R180). -/
def relMet (s : State) (t : TileId) (c : Cmd) : Bool :=
  let x := s.tile t
  !c.rel ||
  (x.cmds.all (fun d => !(decide (d.owner = c.owner) && decide (d.id < c.id) && d.pending)) &&
   !x.me.queue.any (fun j => decide (j.owner = c.owner) && decide (j.stamp ≤ c.id)) &&
   !x.me.drains.any (fun d => decide (d.owner = c.owner) && decide (d.stamp ≤ c.id)) && !earlierEval x.lcb c.owner c.id &&
   (match s.firing? t c.owner with | some f => relReady s t f | none => true))

-- DEDUCED, log 39 (unsafe).
/-- The lines of a command's R areas leave the issuing stack's data cache at an acquire of DEVICE scope or wider (R180, R294). -/
def cmdAcquire (s : State) (t : TileId) (c : Cmd) : State :=
  let ctx := match s.inst? c.inst with | some i => i.ctx | none => 0
  if c.acq && scopeWide c.scope then
    c.srcs.foldl (fun s l =>
      let a : Access := { stk := t.stk, ctx := ctx, inst := some c.inst, kind := .range, write := false, va := areaBase l }
      match claim s a (.firing t c.owner) true 0 l (engineInfo 4 (areaBase l)) with
      | .ok k => rdcDropClaim s t.stk ctx k
      | .error _ => s) s
  else s

/-- A command ends: its ranges are removed (R178, R209). -/
def endCmd (s : State) (t : TileId) (c : Cmd) (st : CmdSt) : State :=
  let s := releaseAway (dropRanges s c.ranges) c.away
  let s := progress (s.setCmd t { c with st := st, ranges := [], away := [], lines := [], asked := [], snap := none }) (some c.inst)
  wakeTile (retryOpens s) t

/-- A command that has ended without need of a record leaves the table; the identities of copies stay while their
firing lives (R211). -/
def forget (s : State) (t : TileId) (c : Cmd) : State :=
  let x := s.tile t
  s.setTile t { x with cmds := x.cmds.filter (fun d => d.id != c.id) }

/-- The context a command serves. -/
def cmdCtx (s : State) (c : Cmd) : Nat := match s.inst? c.inst with | some i => i.ctx | none => 0

def Cmd.fn (c : Cmd) : Nat :=
  match c.kind with
  | .cpy _ _ _ => 0
  | .cpyp _ _ => 1
  | .cpyt _ _ => 2
  | .gath _ _ _ _ => 3
  | .scat _ _ _ _ => 4
  | _ => 5

/-- The COPY_DONE record (R401, R403). -/
def copyRecord (s : State) (t : TileId) (c : Cmd) (code : Nat) : Nat :=
  let entry := (s.firing? t c.owner).map (fun f => f.entry)
  recHeader s 4 code { tile := t, entry := entry, ctx := cmdCtx s c } + fld 8 4 c.id + fld 0x0C 4 c.evid +
  fld 0x10 8 c.written + fld 0x18 4 c.chunk + fld 0x1C 1 c.fn + fld 0x20 8 (s.cyc t.stk)

-- DEDUCED, log 147 (unsafe).
/-- A RESP token with a record to a node of an instance (R73, R209, R266). -/
def sendResp (s : State) (t : TileId) (inst : Nat) (cd : Nat) (tag : BitVec 32) (bytes body : Nat) : State :=
  match s.inst? inst, readDest cd with
  | some i, some d =>
    let k := { blankTok with kind := 6, ctx := BitVec.ofNat 10 i.ctx, tag := tag, bytes := BitVec.ofNat 7 bytes
                             payload := cutPayload body bytes }
    inject s t (addressed s k { stk := i.stk, x := i.ox + d.dx, y := i.oy + d.dy } d.node d.port) false
  | _, _ => s

-- DEDUCED, log 38 (unsafe).
/-- Posts a command's completion, once. -/
def postDone (s : State) (t : TileId) (c : Cmd) (code : Nat) : State :=
  let r := copyRecord s t c code
  if c.toNode then sendResp s t c.inst c.cdst.toNat c.tag 64 r else s.post (.ev (cmdCtx s c)) r

/-- A command fails in flight: the firing meets the fault at its next boundary (R242); a copy posts its record too (R209). -/
def failCmd (s : State) (t : TileId) (c : Cmd) (e : FInfo) : State :=
  let e := { e with cmd := c.id }
  let s := s.setCmd t { c with st := .failed, fault := some e }
  let x := withdrawEval (s.tile t) c.owner
  let s := wakeTile (s.setTile t { x with firings := x.firings.map (fun f =>
    if f.id = c.owner then { f with failed := some (f.failed.getD e) } else f) }) t
  if c.isCopy then postDone s t c e.code.num else s

/-! ## Memory as engines read and write it -/

/-- A read by an engine: the bytes, a line of another device to ask for first, or a fault. -/
inductive EngRead
  | got (b : List Byte) (s : State)
  | ask (va key : Nat) (s : State)
  | fail (e : FInfo)

/-- n bytes read at their homes, line by line; `k` bounds the lines. -/
def engRead (kd : AccKind) (stk ctx inst : Nat) (lines : List (Nat × BitVec 1024)) : Nat → State → Nat → Nat → List Byte → EngRead
  | 0, s, _, _, acc => .got acc s
  | k + 1, s, va, n, acc =>
    if n = 0 then .got acc s
    else
      match locate s { stk := stk, ctx := ctx, inst := some inst, kind := kd, write := false, va := va } with
      | .error e => .fail e
      | .ok p =>
        let s := notePlace s p
        let o := p.key % 128
        let m := Nat.min n (128 - o)
        match p with
        | .here x =>
          match lineSound s x.key with
          | .error (.fault e) => .fail e
          | _ => engRead kd stk ctx inst lines k s (va + m) (n - m) (acc ++ memBytes s.mem x.key m)
        | .away _ _ _ _ =>
          match lines.find? (fun q => q.1 == p.key - o) with
          | some q => engRead kd stk ctx inst lines k s (va + m) (n - m) (acc ++ ((bytesOf 128 q.2.toNat).drop o).take m)
          | none => .ask (va - o) (p.key - o) s

/-- A read of a command; a missing line of another device is asked for, and the command goes on when it comes. -/
def cmdRead (s : State) (t : TileId) (c : Cmd) (va n : Nat) : EngRead :=
  engRead .range t.stk (cmdCtx s c) c.inst c.lines (n / 128 + 2) s va n []

/-- n bytes of a plane block from byte `off`, as a consumer reads them (R10, R34). -/
def readPlane (s : State) (t : TileId) (c : Cmd) (d : Desc) (tr tc p off n : Nat) : EngRead :=
  let m := Nat.min n (d.held tr tc - off)
  match cmdRead s t c (d.block tr tc p + off) m with
  | .got b s => .got ((b ++ List.replicate (n - m) 0).zipIdx.map (fun (q : Byte × Nat) => d.blockByte tc (off + q.2) q.1)) s
  | r => r

/-- The lines of runs of bytes that lie at another device, and that a command has not asked for. -/
def awayLines (s : State) (t : TileId) (c : Cmd) (l : List (Nat × Nat)) : List (Nat × Nat) :=
  (l.flatMap (fun r => (List.range (r.2 / 128 + 2)).filterMap (fun i =>
    let va := if i = 0 then r.1 else (r.1 / 128 + i) * 128
    if r.1 + r.2 ≤ va then none
    else
      match locate s { stk := t.stk, ctx := cmdCtx s c, inst := some c.inst, kind := .range, write := false, va := va } with
      | .ok (.away d k x o) =>
        let key := awayKey d k x o / 128 * 128
        if !routed s t.stk d || c.asked.any (fun q => q.2 == key) || c.lines.any (fun q => q.1 == key) then none
        else some (va / 128 * 128, key)
      | _ => none))).eraseDups

/-- The requests for lines, each made once. -/
def askLines (t : TileId) (ctx : Nat) : List (Nat × Nat) → Cmd → State → State
  | [], c, s => s.setCmd t { c with st := .running }
  | (va, key) :: l, c, s =>
    let (rid, s) := sendRemote s t.stk ctx va key (.cmd t c.id) { req := { blankReq with kind := .load, size := 128 } } none
    askLines t ctx l { c with asked := c.asked ++ [(rid, key)] } s

-- DEDUCED, log 172 (unsafe).
/-- A line of another device is missing: it is asked for, and with it every other line that the command is known to read (R305). -/
def cmdAsk (s : State) (t : TileId) (c : Cmd) (va key : Nat) (all : List (Nat × Nat)) : State :=
  if c.asked.any (fun q => q.2 == key) then s
  else
    let ctx := cmdCtx s c
    if routed s t.stk (awayDev key) then
      let rest := (awayLines s t c all).filter (fun q => q.2 != key)
      askLines t ctx ((va, key) :: rest) c s
    else failCmd s t c (fabricInfo s va AccKind.range.num ctx (awayDev key) none)

/-- Bytes written by a command at their homes, line by line; a write to another device waits for its acknowledgement; a beat that meets
another owner's scratch bank is dropped (R358). -/
def engWrite (t : TileId) (cid : Nat) : Nat → State → Nat → List Byte → Except FInfo State
  | 0, s, _, _ => .ok s
  | k + 1, s, va, b =>
    if b.isEmpty then .ok s
    else
      match s.cmd? t cid with
      | none => .ok s
      | some c =>
        let ctx := cmdCtx s c
        match locate s { stk := t.stk, ctx := ctx, inst := some c.inst, kind := .range, write := true, va := va } with
        | .error e => .error e
        | .ok p =>
          let s := notePlace s p
          let o := p.key % 128
          let m := Nat.min b.length (128 - o)
          let w := b.take m
          let data := wordOfBytes w * 2 ^ (8 * o)
          let mask := (2 ^ m - 1) * 2 ^ o
          match p with
          | .here x =>
            if !beatOk s ctx x.key then engWrite t cid k (s.setCmd t { c with missed := true }) (va + m) (b.drop m)
            else
              let s := homeWrite s x.key w
              let s := if x.stk = t.stk then s else rdcUpdate s t.stk ctx (x.key - o) (BitVec.ofNat 1024 data) mask
              engWrite t cid k s (va + m) (b.drop m)
          | .away d st rc off =>
            if routed s t.stk d then
              let q : HomeReq := { blankReq with kind := .publish, size := 128, val := BitVec.ofNat 1024 data
                                                 mask := BitVec.ofNat 128 mask }
              let s := s.setCmd t { c with acks := c.acks + 1 }
              let s := (sendRemote s t.stk ctx (va - o) (awayKey d st rc (off - o)) (.cmd t cid) { req := q } none).2
              engWrite t cid k (rdcUpdate s t.stk ctx (p.key - o) (BitVec.ofNat 1024 data) mask) (va + m) (b.drop m)
            else .error (fabricInfo s va AccKind.range.num ctx d none)

/-- COMMAND_FAILURE (R242): a command fails in flight with a fault code. -/
def codeOf (n : Nat) : FCode :=
  [FCode.illegal, .slot, .window, .race, .winfull, .align, .xlate, .xlate2, .owner, .perm, .opplane, .omslot, .engine
   , .wave, .token, .fabric, .parity, .residue, .deadlock, .trap, .brk].getD (n - 1) .parity
def execCommandFailure (t : TileId) (cmd code : Nat) (s : State) : Outcome :=
  .next (match s.cmd? t cmd with
    | none => s
    | some c => if c.pending then failCmd s t c { code := codeOf code } else s)

end Sys2Proof.Machine
end

