-- ==== Sys2Proof/Machine/Matrix.lean ====
section
/-! DEFINITION. Operand memory and the matrix engine: OP 0x30 and 0x31, with the steps that fill slots, add products and
emit drained rows (R10 to R20, R191 to R202). -/

namespace Sys2Proof.Machine

def Tile.slotOf (x : Tile) (o : Nat) : OmSlot := tabGet {} x.om o
def Tile.setSlotOf (x : Tile) (o : Nat) (v : OmSlot) : Tile := { x with om := tabSet x.om o v }
def State.setOm (s : State) (t : TileId) (o : Nat) (v : OmSlot) : State := s.setTile t ((s.tile t).setSlotOf o v)
def OmSlot.plane (m : OmSlot) (p : Nat) : Nat := (tabGet 0 m.planes p).toNat

/-- The DETAIL bytes of OMSLOT and OPPLANE (R404). -/
def omDetail (o held need : Nat) : Nat := fld 0 1 o + fld 1 1 held + fld 2 1 need
-- DEDUCED, log 41 (unsafe).
def claimedOk (x : Tile) (o : Nat) : Ex Unit := unless_ (x.slotOf o).claimed .omslot (omDetail o (x.slotOf o).nplanes 0)

/-- Slots that the evaluations of a queue are to load, from the bindings in force (R280). -/
def boundSlots : List LcbForm → Tab Nat → List Nat
  | [], _ => []
  | .ctx _ :: l, b => boundSlots l b
  | .bind k o :: l, b => boundSlots l (tabSet b k o)
  | .unbind :: l, _ => boundSlots l []
  | .eval _ :: l, b => b.map (fun p => p.2) ++ boundSlots l b
/-- Slots that an evaluation of the block has yet to load (R218). -/
def Lcb.toLoad (l : Lcb) : List Nat :=
  (match l.job with
   | some j => if j.bound then [] else (match j.begun with | some p => p.2.map (fun q => q.2) | none => [])
   | none => []) ++ boundSlots l.queue l.binds

/-- An issued MMA, or an evaluation that has yet to load it, still reads a slot (R19, R218). -/
def slotRead (x : Tile) (o : Nat) : Bool :=
  x.me.queue.any (fun j => decide (j.oa = o) || decide (j.ob = o)) || x.lcb.toLoad.contains o

/-! ## Widths (R17) -/

/-- The least w ≥ 1 such that planes w − 1 to n − 1 are alike, searched downward. -/
def wsFrom (m : OmSlot) : Nat → Nat
  | 0 => 1
  | 1 => 1
  | w + 2 => if m.plane (w + 1) = m.plane w then wsFrom m (w + 1) else w + 2
/-- The least w ≥ 1 such that planes w and above are zero. -/
def wuFrom (m : OmSlot) : Nat → Nat
  | 0 => 1
  | 1 => 1
  | w + 2 => if m.plane (w + 1) = 0 then wuFrom m (w + 1) else w + 2
/-- A fill completes: its widths are recorded (R17, R192). -/
def OmSlot.complete (m : OmSlot) (n : Nat) : OmSlot :=
  let m := { m with nplanes := n, filling := false, armed := none, got := 0 }
  { m with ws := wsFrom m n, wu := wuFrom m n }

/-! ## Operand memory (R191 to R196) -/

/-- OCLAIM (R191). -/
def execOclaim (o : OMo) (s : State) : Outcome :=
  issue o.g .boundary always (fun s t f =>
    let n := o.o.toNat
    let m := (s.tile t).slotOf n
    if m.claimed then raise .omslot (omDetail n m.nplanes 0)
    else pure { s := s.setOm t n { m with claimed := true, firid := firidOf f, owner := some f.id }, f := f }) s

/-- ORELEASE (R191): held to retire. -/
def execOrelease (o : OMo) (s : State) : Outcome :=
  issue o.g .boundary always (fun s t f => do
    claimedOk (s.tile t) o.o.toNat
    pure { s := s, f := { f with out := f.out ++ [.orel o.o.toNat] } }) s

/-- Tile coordinates of OLOAD and OSTORE (R192). -/
def tileRow (w : Word) : Nat := w.toNat % 2 ^ 32
def tileCol (w : Word) : Nat := w.toNat / 2 ^ 32

/-- A descriptor of a plane tensor, else ENGINE (R34, R192). -/
def planeDesc (f : Firing) (q : BitVec 7) : Ex Desc :=
  let b := f.octet q
  let d := readDesc b
  if descOk b && (decide (d.layout = 1) || decide (d.layout = 2)) then .ok d else .error (.fault (engineInfo 1 d.base))

/-- OLOAD (R192). -/
def execOload (o : OLOADo) (s : State) : Outcome :=
  issue o.g .boundary always (fun s t f => do
    need f (octSlots o.q ++ sl o.t)
    let d ← planeDesc f o.q
    let n := o.o.toNat
    let x := s.tile t
    let tr := tileRow (f.slot o.t.toNat)
    let tc := tileCol (f.slot o.t.toNat)
    waitFor (!slotRead x n && !(x.slotOf n).filling)
    let rs : List Range := [{ w := false, area := d.tileArea tr tc }]
    match ← rangesOf s t f rs (claimedOk x n) with
    | .wait dn => pure dn
    | .ready s f regs away =>
      let (_, s) := attach s t f (.oload n d tr tc o.wake.toNat o.bit.toNat) o.acq false o.scope rs regs away
      let m := (s.tile t).slotOf n
      pure { s := s.setOm t n { m with filling := true, nplanes := 0, planes := [], ws := 0, wu := 0, got := 0 }, f := f }) s

/-- The actor that a wake names gets its P bit; a node that is no actor sends a record (R192). -/
def wakeNode (s : State) (t : TileId) (c : Cmd) (node bit : Nat) : State :=
  if node = 0 then s
  else
    let x := s.tile t
    if x.isActor node then
      s.setTile t { x with tagP := tabSet x.tagP node (tabGet 0 x.tagP node ||| BitVec.ofNat 16 (2 ^ bit)) }
    else postNodeFault s t (cmdCtx s c) (engineInfo 9 node) node c.tag.toNat .none

/-- The address of the 64 bytes that OMFILL token n of a fill carries, and whether it comes by the path of the tile's own bank. -/
def fillAddr (d : Desc) (tr tc n : Nat) : Nat := d.block tr tc (d.plo + n / 16) + 64 * (n % 16)
def ownPath (s : State) (t : TileId) (c : Cmd) (va : Nat) : Bool :=
  match locate s { stk := t.stk, ctx := cmdCtx s c, inst := some c.inst, kind := .range, write := false, va := va } with
  | .ok (.here p) => decide (stackOfKey p.key = t.stk) && decide (homeBank s p.key + 16 = 16 * t.x + t.y)
  | _ => false

/-- An earlier fill of the tile has a token to come by a path (R305). -/
def pathBusy (s : State) (t : TileId) (c : Cmd) (own : Bool) : Bool :=
  (s.tile t).cmds.any (fun b => decide (b.id < c.id) && b.pending && (match b.kind with
    | .oload _ d tr tc _ _ => (List.range (16 * d.planes)).any (fun n => decide (b.chunk ≤ n) && ownPath s t b (fillAddr d tr tc n) == own)
    | _ => false))

/-- Runs of bytes of a plane block with elements of the tensor. -/
def heldRuns (d : Desc) (tr tc : Nat) : List (Nat × Nat) :=
  (List.range d.planes).map (fun p => (d.block tr tc (d.plo + p), d.held tr tc))

-- DEDUCED, log 168 (unsafe).
/-- OMFILL_RECEIVE (R40, R192, R305): OMFILL token n of a fill arrives, 64 bytes of a plane block; the last one carries LAST and completes
the fill. Tokens of one path come in the order of their forms. -/
def fillToken (t : TileId) (cid : Nat) (s : State) : State :=
  match s.cmd? t cid with
  | none => s
  | some c =>
    match c.kind with
    | .oload o d tr tc wake bit =>
      let n := c.chunk
      if !c.pending || !acqMet (s.tile t) c || pathBusy s t c (ownPath s t c (fillAddr d tr tc n)) then s
      else
        let s := if n = 0 && c.asked.isEmpty then cmdAcquire s t c else s
        match readPlane s t c d tr tc (d.plo + n / 16) (64 * (n % 16)) 64 with
        | .fail e => failCmd s t c e
        | .ask va key s => cmdAsk s t c va key (heldRuns d tr tc)
        | .got b s =>
          let m := (s.tile t).slotOf o
          let v := m.plane (n / 16) + wordOfBytes b * 2 ^ (512 * (n % 16))
          let m := { m with planes := tabPut 0 m.planes (n / 16) (BitVec.ofNat 8192 v) }
          if n + 1 < 16 * d.planes then
            progress ((s.setOm t o m).setCmd t { c with st := .running, chunk := n + 1 }) (some c.inst)
          else
            let s := wakeNode (s.setOm t o (m.complete d.planes)) t c wake bit
            forget (endCmd s t c .done) t c
    | _ => s
def execOmfillReceive (t : TileId) (cmd _n : Nat) (s : State) : Outcome := .next (fillToken t cmd s)

/-- Planes as they are stored to a tile (R194). -/
def storePlanes (t : TileId) (cid : Nat) (d : Desc) (tr tc : Nat) (b : List Byte) : Nat → State → Except FInfo State
  | 0, s => .ok s
  | p + 1, s =>
    match storePlanes t cid d tr tc b p s with
    | .error e => .error e
    | .ok s => engWrite t cid 10 s (d.block tr tc (d.plo + p)) ((b.drop (1024 * p)).take 1024)

/-- OWNER of a command whose beats have met another owner's bank twice (R358). -/
def beatFault (s : State) (t : TileId) (c : Cmd) (va : Nat) : FInfo :=
  ownerFault s { stk := t.stk, ctx := cmdCtx s c, inst := some c.inst, kind := .range, write := true, va := va }

/-- The writes of an OSTORE, from the planes it took at issue: made again once when a beat was dropped (R358); it ends when the last is
acknowledged. `n` bounds the passes. -/
def ostoreRun (t : TileId) (cid : Nat) : Nat → State → State
  | 0, s => s
  | n + 1, s =>
    match s.cmd? t cid with
    | none => s
    | some c =>
      match c.kind with
      | .ostore _ d tr tc =>
        (match storePlanes t cid d tr tc (c.snap.getD []) d.planes s with
        | .error e => failCmd s t c e
        | .ok s =>
          match s.cmd? t cid with
          | none => s
          | some c =>
            if c.missed then
              if n = 0 then failCmd s t { c with missed := false } (beatFault s t c (d.block tr tc d.plo))
              else ostoreRun t cid n (s.setCmd t { c with missed := false, mismatch := true })
            else if c.acks = 0 then forget (endCmd s t c .done) t c
            else s.setCmd t { c with st := .running, sent := some (c.snap.getD []).length })
      | _ => s

-- DEDUCED, log 40 (unsafe).
/-- OSTORE (R194): its writes are made at issue, REL waiting there. -/
def execOstore (o : OSTOREo) (s : State) : Outcome :=
  issue o.g .boundary always (fun s t f => do
    need f (octSlots o.q ++ sl o.t)
    let d ← planeDesc f o.q
    let n := o.o.toNat
    let x := s.tile t
    let m := x.slotOf n
    let tr := tileRow (f.slot o.t.toNat)
    let tc := tileCol (f.slot o.t.toNat)
    waitFor (!m.filling)
    waitFor (!o.rel || (relReady s t f && enginesIdle x f.id))
    let post : Ex Unit := do
      claimedOk x n
      if d.planes = m.nplanes then .ok () else .error (.fault (engineInfo 1 m.nplanes))
    let rs : List Range := [{ w := true, area := d.tileArea tr tc }]
    match ← rangesOf s t f rs post with
    | .wait dn => pure dn
    | .ready s f regs away =>
      let f := { f with committed := true }
      let (c, s) := attach s t f (.ostore n d tr tc) false o.rel o.scope rs regs away
      let planes := (List.range m.nplanes).flatMap (fun p => bytesOf 1024 (m.plane p))
      let s := ostoreRun t c.id 2 (s.setCmd t { c with snap := some planes })
      pure { s := s, f := { f with failed := (s.firing? t f.id).bind (fun g => g.failed) } }) s

/-- OZERO (R195, R309). -/
def execOzero (o : OZEROo) (s : State) : Outcome :=
  issue o.g .boundary always (fun s t f => do
    let n := o.o.toNat
    let x := s.tile t
    let m := x.slotOf n
    let k := o.p1.toNat + 1
    claimedOk x n
    waitFor (!m.filling && !slotRead x n)
    let m := { m with nplanes := k, planes := [], ws := 1, wu := 1 }
    let armed := (tabFind x.edges (portKey 16 n)).isSome
    pure { s := s.setOm t n (if armed then { m with filling := true, armed := some f.id, got := 0 } else m), f := f }) s

/-- OSTAT (R196). -/
def omStat (m : OmSlot) : Nat :=
  let live := decide (m.nplanes ≠ 0) && !m.filling
  m.nplanes + (if m.filling then 2 ^ 6 else 0) + (if m.claimed then 2 ^ 7 else 0) +
  (if live then m.ws * 2 ^ 8 + m.wu * 2 ^ 16 else 0)
def execOstat (o : OSTATo) (s : State) : Outcome :=
  issue o.g .boundary always (fun s t f => do
    need f (sl o.d)
    pure { s := s, f := f.setSlot o.d.toNat (BitVec.ofNat 64 (omStat ((s.tile t).slotOf o.o.toNat))) }) s

/-- The ME owes skipped positions to its next token (R45). -/
def addSkip (s : State) (t : TileId) (n : Nat) : State :=
  let x := s.tile t
  s.setTile t { x with me := { x.me with skip := x.me.skip + n } }

-- DEDUCED, log 169 (unsafe).
/-- A stream fills slot `p` through the ME's port p (R45, R309): one token. Skipped positions fill nothing and are owed to the ME's next
token; those that run past the end of the fill complete it, and the token stays for the next one. -/
def mePort (t : TileId) (p : Nat) (s : State) : State :=
  let x := s.tile t
  let m := x.slotOf p
  match tabFind x.edges (portKey 16 p), headTok s t 16 p with
  | some e, some k =>
    if !(m.claimed && m.filling && m.armed.isSome) then s
    else
      let need := 16 * m.nplanes
      let n := m.got + k.skip.toNat
      let s :=
        if need ≤ n then
          let k' := { k with skip := BitVec.ofNat 8 (n - need) }
          let fifo := match e.fifo with | q :: r => { q with tok := k' } :: r | [] => []
          addSkip ((s.setEdge t (portKey 16 p) { e with fifo := fifo }).setOm t p (m.complete m.nplanes)) t (need - m.got)
        else
          let v := m.plane (n / 16) + k.payload.toNat * 2 ^ (512 * (n % 16))
          let m := { m with planes := tabPut 0 m.planes (n / 16) (BitVec.ofNat 8192 v) }
          let m := if k.last || decide (need ≤ n + 1) then m.complete m.nplanes else { m with got := n + 1 }
          addSkip ((popTok s t 16 p).setOm t p m) t k.skip.toNat
      wakeTile (progress s x.inst) t
  | _, _ => s
def execMePortFill (t : TileId) (port : Nat) (s : State) : Outcome := .next (mePort t port s)

/-! ## The matrix engine (R12 to R20, R197 to R202) -/

/-- MPAIR (R197). -/
def execMpair (o : MPAIRo) (s : State) : Outcome :=
  issue o.g .plain always (fun s _ f => pure { s := s, f := { f with ppr := o.v } }) s

/-- No MMA of a bank is still to run: its contents are readable (R15). -/
def readable (x : Tile) (bank : Nat) : Bool := !x.me.queue.any (fun j => decide (j.acc = bank))
def bankBit (b : Nat) : BitVec 4 := BitVec.ofNat 4 (2 ^ b)

/-- MCLR (R198). -/
def execMclr (o : ACCo) (s : State) : Outcome :=
  issue o.g .plain always (fun s t f => do
    let x := s.tile t
    let b := o.acc.toNat
    waitFor (readable x b)
    let me := { x.me with
      acc := x.me.acc.filter (fun p => decide (p.1 / 4096 ≠ b))
      ov := x.me.ov &&& ~~~(bankBit b), abrt := x.me.abrt &&& ~~~(bankBit b), poison := x.me.poison &&& ~~~(bankBit b)
      owing := tabDel x.me.owing b }
    let firings := x.firings.map (fun g => { g with banks := g.banks &&& ~~~(bankBit b) })
    pure { s := s.setTile t { x with me := me, firings := firings }, f := { f with banks := f.banks &&& ~~~(bankBit b) } }) s

def pprPa (p : BitVec 11) : Nat := p.toNat % 16 + 1
def pprPb (p : BitVec 11) : Nat := p.toNat / 16 % 16 + 1

/-- MMA (R14 to R16, R19, R199): it holds while the engine is occupied, and then occupies it. -/
def execMma (o : MMAo) (s : State) : Outcome :=
  issue o.g .plain always (fun s t f => do
    waitFor (throttleOpen s t)
    let x := s.tile t
    let a := o.oa.toNat
    let b := o.ob.toNat
    claimedOk x a
    claimedOk x b
    waitFor (!(x.slotOf a).filling && !(x.slotOf b).filling && x.me.queue.isEmpty)
    unless_ (decide (pprPa f.ppr ≤ (x.slotOf a).nplanes)) .opplane (omDetail a (x.slotOf a).nplanes (pprPa f.ppr))
    unless_ (decide (pprPb f.ppr ≤ (x.slotOf b).nplanes)) .opplane (omDetail b (x.slotOf b).nplanes (pprPb f.ppr))
    let j : MmaJob := { owner := f.id, acc := o.acc.toNat, oa := a, ob := b, a := x.slotOf a, b := x.slotOf b, ppr := f.ppr
                        stamp := x.nextCmd }
    pure { s := s.setTile t { x with me := { x.me with queue := x.me.queue ++ [j] } }
           f := { f with banks := f.banks ||| bankBit j.acc } }) s

/-- The trimmed counts of R18. -/
def trimmed (n : Nat) (sg trim : Bool) (m : OmSlot) : Nat :=
  if trim then Nat.max 1 (Nat.min n (if sg then m.ws else m.wu)) else n
/-- The weight of plane p of n (R14). -/
def planeWeight (sg : Bool) (n p : Nat) : Int := if sg && decide (p + 1 = n) then -((2 : Int) ^ p) else (2 : Int) ^ p

/-- The sum over plane pairs of one element: `skip` is a pair whose contribution was discarded (R199). -/
def pairSum (a b : OmSlot) (sa sb : Bool) (pa pb i j : Nat) (skip : Option Nat) : Nat → Int
  | 0 => 0
  | n + 1 =>
    let p := n / pb
    let q := n % pb
    pairSum a b sa sb pa pb i j skip n +
      (if skip = some n then 0 else
        planeWeight sa pa p * planeWeight sb pb q *
          ((popN 128 (Nat.land (a.plane p / 2 ^ (128 * i) % 2 ^ 128) (b.plane q / 2 ^ (128 * j) % 2 ^ 128)) : Nat) : Int))

def accMax : Int := (2 : Int) ^ 47 - 1
/-- The product added into a bank, element n of 4096 downward; whether any saturated (R14, R20). -/
def addProduct (base : Nat) (sum : Nat → Nat → Int) : Nat → Tab Int × Bool → Tab Int × Bool
  | 0, r => r
  | n + 1, r =>
    let v := tabGet 0 r.1 (base + n) + sum (n / 64) (n % 64)
    let w := satInt v (-accMax) accMax
    addProduct base sum n (tabPut 0 r.1 (base + n) w, r.2 || decide (w ≠ v))

/-- The residue errors that strike an MMA (R199): none, one repeated pair, or a pair that failed twice. -/
def meStrikes (s : State) (t : TileId) : Option HwErr × Bool :=
  match s.errs.find? (fun e => decide (e.unit = 6) && decide (e.place % 2 ^ 16 = tileKey t)) with
  | none => (none, false)
  | some e => (some e, (s.errs.erase e).contains e)

/-- MMA_COMPLETE (R14, R199): the first product of the queue is added. -/
def runMma (t : TileId) (s : State) : State :=
  let x := s.tile t
  match x.me.queue with
  | [] => s
  | j :: rest =>
    let a := j.a
    let b := j.b
    let sa := j.ppr.getLsbD 8
    let sb := j.ppr.getLsbD 9
    let pa := trimmed (pprPa j.ppr) sa (j.ppr.getLsbD 10) a
    let pb := trimmed (pprPb j.ppr) sb (j.ppr.getLsbD 10) b
    let (err, twice) := meStrikes s t
    let skip := match err with | some e => if twice then some (e.place / 2 ^ 16 % (pa * pb)) else none | none => none
    let s := match err with
      | some e => { s with errs := if twice then (s.errs.erase e).erase e else s.errs.erase e }
      | none => s
    let (acc, ov) := addProduct (j.acc * 4096) (fun i k => pairSum a b sa sb pa pb i k skip (pa * pb)) 4096 (x.me.acc, false)
    let me := { x.me with
      queue := rest, acc := acc, ov := if ov then x.me.ov ||| bankBit j.acc else x.me.ov
      poison := if twice then x.me.poison ||| bankBit j.acc else x.me.poison
      owing := if twice then tabSet x.me.owing j.acc j.owner else x.me.owing }
    wakeTile (progress (s.setTile t { x with me := me }) x.inst) t

/-- Skipped positions that the ME owes are taken on an output (R45), as far as its edge lets them; none where it does not. -/
def oweSkips (s : State) (t : TileId) (key : Nat) (zero : Token) : Option State :=
  let x := s.tile t
  let n := x.me.skip
  let owe := fun (s : State) (k : Nat) => s.setTile t { s.tile t with me := { (s.tile t).me with skip := n - k } }
  match tabFind x.outs key with
  | none => some (owe s n)
  | some o =>
    let cover := if o.pull then o.covered - o.made else n
    let k := Nat.min (Nat.min n (255 - o.skip)) cover
    if k ≠ 0 then some (owe (skipN t key zero k s) k)
    else if cover = 0 ∨ outSpace s t key = 0 then none
    else some (owe (skipOne s t key zero) 1)

/-- The tokens that a drain has yet to send, each with its output. -/
def drainTokens (x : Tile) (d : Drain) : List (Nat × Token) :=
  let zero := { blankTok with ctx := BitVec.ofNat 10 d.ctx, tag := d.tag, fmt := 12
                              pri := (match tabFind x.outs (portKey 16 d.route) with | some o => o.pri | none => 0) }
  d.lanes.zipIdx.map (fun p => (d.route, { zero with payload := p.1, last := d.last && decide (p.2 + 1 = d.lanes.length) }))

/-- The engine's next token, and the engine without it: tokens held since a halt go first (R357), then the first drain. -/
def meNext (x : Tile) : Option (Nat × Token) × Me :=
  match x.me.held, x.me.drains with
  | q :: h, _ => (some q, { x.me with held := h })
  | [], d :: r =>
    (match drainTokens x d with
     | [] => (none, { x.me with drains := r })
     | [q] => (some q, { x.me with drains := r })
     | q :: _ :: _ => (some q, { x.me with drains := { d with lanes := d.lanes.drop 1 } :: r }))
  | [], [] => (none, x.me)

/-- The next token goes out where its edge has a place (R200, R267), after the skipped positions that the ME owes. Where it has none and
the tile is being halted, the drains end with their tokens held at the ME (R357). -/
def runDrain (t : TileId) (s : State) : State :=
  let x := s.tile t
  let put := fun (s : State) (m : Me) =>
    let s := s.setTile t { s.tile t with me := m }
    if m.drains.length < x.me.drains.length then wakeTile s t else s
  let stuck := fun (s : State) =>
    if x.halting then put s { x.me with held := x.me.held ++ x.me.drains.flatMap (drainTokens x), drains := [] } else s
  match meNext x with
  | (none, m) => put s m
  | (some (r, k), m) =>
    let key := portKey 16 r
    if x.me.skip ≠ 0 then
      (match oweSkips s t key { k with payload := 0, last := false } with
       | some s => s
       | none => stuck s)
    else if outRoom s t key = 0 then stuck s
    else put (progress (emit s t key k) x.inst) m

/-- The engine's step: a product, else a token. -/
def meStep (t : TileId) (s : State) : State :=
  if (s.tile t).me.queue.isEmpty then runDrain t s else runMma t s
def execMmaComplete (t : TileId) (s : State) : Outcome := .next (meStep t s)

/-- RESIDUE of a poisoned bank (R199, R238). -/
def poisonInfo (b : Nat) : FInfo := { code := .residue, detail := unitDetail 6 b, poison := true }
/-- The first bank of a mask whose failed MMA has not been reported. -/
def owingIn (x : Tile) (mask : BitVec 4) : Option Nat := (x.me.owing.find? (fun p => mask.getLsbD p.1)).map (fun p => p.1)

/-- Eight lanes of a bank: columns 8j to 8j + 7 of row i (R20). -/
def drainLanes (acc : Tab Int) (base : Nat) : Nat → Nat
  | 0 => 0
  | n + 1 => drainLanes acc base n + toBits 64 (tabGet 0 acc (base + n)) * 2 ^ (64 * n)

-- DEDUCED, log 44 (unsafe).
/-- MDRAIN (R200). -/
def execMdrain (o : MDRAINo) (s : State) : Outcome :=
  issue o.g .plain always (fun s t f => do
    let x := s.tile t
    let b := o.acc.toNat
    waitFor (readable x b)
    unless_ (tabFind x.outs (portKey 16 o.route.toNat)).isSome .engine (subDetail 3 o.route.toNat)
    if x.me.poison.getLsbD b then .error (.fault (poisonInfo b))
    else
      let rows := o.rows1.toNat + 1
      let lanes := (List.range (8 * rows)).map (fun n => BitVec.ofNat 512 (drainLanes x.me.acc (b * 4096 + 8 * n) 8))
      let d : Drain := { owner := f.id, bank := b, route := o.route.toNat, tag := f.tag, ctx := s.ctxOf f, last := o.last
                         lanes := lanes, stamp := x.nextCmd }
      pure { s := s.setTile t { x with me := { x.me with drains := x.me.drains ++ [d] } }, f := { f with committed := true } }) s

/-- MSTAT (R201). -/
def execMstat (o : OneD) (s : State) : Outcome :=
  issue o.g .plain always (fun s t f => do
    need f (sl o.d)
    let x := s.tile t
    waitFor x.me.queue.isEmpty
    match owingIn x 15 with
    | some b => .error (.fault (poisonInfo b))
    | none =>
      let v := f.ppr.toNat + x.me.ov.toNat * 2 ^ 12 + x.me.abrt.toNat * 2 ^ 16 + x.me.poison.toNat * 2 ^ 20
      pure { s := s, f := f.setSlot o.d.toNat (BitVec.ofNat 64 v) }) s

/-- What MWAIT waits for (R202). -/
def mwaitMet (x : Tile) (m : BitVec 4) : Bool :=
  !x.me.queue.any (fun j => m.getLsbD j.acc) && !x.me.drains.any (fun d => m.getLsbD d.bank)

/-- MWAIT (R202). -/
def execMwait (o : MWAITo) (s : State) : Outcome :=
  issue o.g .plain always (fun s t f =>
    let x := s.tile t
    if mwaitMet x o.m then
      match owingIn x o.m with
      | some b => .error (.fault (poisonInfo b))
      | none => pure { s := s, f := f }
    else pure { s := s, f := { f with st := .stalled, wait := .mwait o.m }, moved := true }) s

end Sys2Proof.Machine
end

