-- ==== Sys2Proof/Machine/Copy.lean ====
section
/-! DEFINITION. Copy engines: OP 0x32 and the steps that move chunks and complete commands (R203 to R211, R305, R307). -/

namespace Sys2Proof.Machine

/-! ## The command block (R203) -/

structure Block where
  src : Nat
  dst : Nat
  len : Nat
  idx : Nat
  evid : Nat
  cdst : Nat
  flg : Nat
  rest : Nat
  deriving DecidableEq, Repr
def readBlock (b : Nat) : Block :=
  let g := fun off size => b / 2 ^ (8 * off) % 2 ^ (8 * size)
  { src := g 0 8, dst := g 8 8, len := g 0x10 8, idx := g 0x18 8, evid := g 0x20 4, cdst := g 0x24 4, flg := g 0x28 4
    rest := g 0x2C 20 }

/-- The copy forms. -/
inductive CopyForm | cpy | cpyp | cpyt | gath | scat | cpyr
  deriving DecidableEq, Repr
def CopyForm.fn : CopyForm → Nat
  | .cpy => 0
  | .cpyp => 1
  | .cpyt => 2
  | .gath => 3
  | .scat => 4
  | .cpyr => 5
def CopyForm.described : CopyForm → Bool
  | .cpy => false
  | .cpyr => false
  | _ => true
def CopyForm.indexed : CopyForm → Bool
  | .gath => true
  | .scat => true
  | _ => false

def needE (b : Bool) (sub val : Nat) : Ex Unit := unless_ b .engine (subDetail sub val)

/-- The rules of the block itself. -/
def blockOk (k : CopyForm) (b : Block) : Ex Unit := do
  needE (b.rest == 0) 2 b.rest
  needE (b.cdst / 2 ^ 24 == 0) 2 b.cdst
  needE (b.flg / 2 == 0) 2 b.flg
  needE (b.flg == 0 || b.cdst.testBit 23) 2 b.cdst
  needE (if k.indexed then decide (1 ≤ b.len) && decide (b.len ≤ 2 ^ 24)
         else if k.described then decide (b.len = 0) else decide (1 ≤ b.len) && decide (b.len ≤ 2 ^ 32)) 2 b.len
  needE (if k.indexed then decide (b.idx % 4 = 0) else decide (b.idx = 0)) 2 b.idx

/-- The owner of an address lies on another device (R145, R204). -/
def ownerAway (s : State) (ctx va : Nat) : Bool :=
  let n := va / 2 ^ 50 % 64
  let e := s.omapEntry ctx n
  decide (va / 2 ^ 56 = 0) && decide (n ≠ 63) && e.testBit 31 && decide (bitsNat e 27 16 ≠ s.dev)

/-- Areas (R204 to R207). -/
def lineArea (a n : Nat) : List Rect := [{ base := a, rowb := n, pitch := 0, rows := 1 }]
/-- n rows of bytes at a signed distance; rows that touch or overlap make one run. -/
def rowsArea (base rowb : Nat) (str : Int) (n : Nat) : List Rect :=
  let lo := if str < 0 then toBits 64 ((base : Int) + ((n - 1 : Nat) : Int) * str) else base
  let p := str.natAbs
  if n = 1 ∨ p = 0 then lineArea lo rowb
  else if p ≤ rowb then lineArea lo ((n - 1) * p + rowb)
  else [{ base := lo, rowb := rowb, pitch := p, rows := n }]
/-- The blocks of every tile of a plane tensor, as (tile row, tile column). -/
def Desc.tiles (d : Desc) : List (Nat × Nat) :=
  (List.range d.tileRows).flatMap (fun r => (List.range d.tileCols).map (fun c => (r, c)))
/-- From BASE to the last plane byte (R205): the hull of BASE and the declared planes. -/
def Desc.hull (d : Desc) : List Rect :=
  let b := d.tiles.flatMap (fun t => [d.block t.1 t.2 d.plo, d.block t.1 t.2 d.phi])
  let lo := b.foldl Nat.min d.base
  let hi := b.foldl Nat.max d.base
  lineArea lo (hi - lo + 1024)

/-- The descriptor rules of each form (R205 to R207). -/
def formOk (k : CopyForm) (b : Block) (x y : Desc) : Bool :=
  let tiled := fun (d : Desc) => decide (d.layout = 1) || decide (d.layout = 2)
  match k with
  | .cpyp => tiled x && decide (x.layout = y.layout) && decide (x.rows = y.rows) && decide (x.cols = y.cols) &&
      decide (x.planes = y.planes)
  | .cpyt =>
    decide (x.layout = 0) && (decide (x.fmt = 8) || decide (x.fmt = 9) || decide (x.fmt = 10)) && tiled y &&
      decide (some y.spl = (fmtBytes x.fmt).map (8 * ·)) && decide (y.fmt = (if x.fmt = 9 then 1 else 0)) &&
      decide (x.rows = y.rows) && decide (x.cols = y.cols)
  | .gath => decide (x.layout = 0) && decide (y.layout = 0) && decide (x.fmt = y.fmt) && decide (x.cols = y.cols) &&
      decide (b.len ≤ y.rows)
  | .scat => decide (x.layout = 0) && decide (y.layout = 0) && decide (x.fmt = y.fmt) && decide (x.cols = y.cols) &&
      decide (b.len ≤ x.rows)
  | _ => true

/-- What a copy is to do, and its ranges. -/
def copyWork (k : CopyForm) (b : Block) (x y : Desc) : CmdKind × List Range :=
  match k with
  | .cpy => (.cpy b.src b.dst b.len, [⟨false, lineArea b.src b.len⟩, ⟨true, lineArea b.dst b.len⟩])
  | .cpyr => (.cpyr b.src b.dst b.len, [⟨false, lineArea b.src b.len⟩, ⟨true, lineArea b.dst b.len⟩])
  | .cpyp => (.cpyp x y, [⟨false, x.hull⟩, ⟨true, y.hull⟩])
  | .cpyt => (.cpyt x y, [⟨false, rowsArea x.base x.rowBytes x.rstr x.rows⟩, ⟨true, y.tiles.flatMap (fun t => y.tileArea t.1 t.2)⟩])
  | .gath => (.gath x y b.idx b.len, tensors)
  | .scat => (.scat x y b.idx b.len, tensors)
where
  tensors : List Range :=
    [⟨false, lineArea b.idx (4 * b.len)⟩, ⟨false, rowsArea x.base x.rowBytes x.rstr x.rows⟩,
     ⟨true, rowsArea y.base y.rowBytes y.rstr y.rows⟩]

/-- A descriptor read at its home (R203); one of another device is asked for first. -/
inductive DescRead
  | got (v : Nat) (s : State)
  | ask (d : Done)
def readAtHome (s : State) (t : TileId) (f : Firing) (va : Nat) : Ex DescRead :=
  match engRead .load t.stk (s.ctxOf f) f.inst f.fetched 2 s va 64 [] with
  | .fail e => .error (.fault e)
  | .got b s => .ok (.got (wordOfBytes b) s)
  | .ask line key s =>
    match reach s t f .load line (awayDev key) with
    | .error e => .error e
    | .ok _ => .ok (.ask (awaitRemote s t f line key (.fill t f.id) { req := { blankReq with kind := .load, size := 128 } } none))

/-- Copies of a firing, and of a tile, that have not completed (R177). -/
def copyRoom (x : Tile) (f : Firing) : Bool :=
  let l := x.cmds.filter (fun c => c.isCopy && c.pending)
  decide ((l.filter (fun c => c.owner == f.id)).length < 8) && decide (l.length < 16)

/-- The second stage: ranges, then the command starts (R69, R178, R203). -/
def startCopy (k : CopyForm) (o : CPYo) (b : Block) (v w : Nat) (s : State) (t : TileId) (f : Firing) : Ex Done := do
  let (kind, rs) := copyWork k b (readDesc v) (readDesc w)
  match ← rangesOf s t f rs (.ok ()) with
  | .wait d => pure d
  | .ready s f regs away =>
    let (c, s) := attach s t f kind o.acq o.rel o.scope rs regs away
    let s := s.setCmd t { c with evid := b.evid, cdst := BitVec.ofNat 24 b.cdst, toNode := b.flg == 1
                                 block := BitVec.ofNat 512 (f.octet o.q), descs := (BitVec.ofNat 512 v, BitVec.ofNat 512 w) }
    pure { s := s, f := { f.setSlot o.d.toNat (BitVec.ofNat 64 (c.id % 2 ^ 32)) with committed := true } }

/-- A copy form (R203). -/
def runCopy (k : CopyForm) (o : CPYo) (s : State) : Outcome :=
  issue o.g .boundary always (fun s t f => do
    waitFor (throttleOpen s t)
    need f (sl o.d ++ octSlots o.q)
    waitFor (copyRoom (s.tile t) f)
    let b := readBlock (f.octet o.q)
    if k.described then do
      unless_ (b.src % 64 == 0) .align (vaDetail b.src)
      unless_ (b.dst % 64 == 0) .align (vaDetail b.dst)
      match ← readAtHome s t f b.src with
      | .ask d => pure d
      | .got v s =>
        match ← readAtHome s t f b.dst with
        | .ask d => pure d
        | .got w s => do
          blockOk k b
          needE (descOk v) 1 b.src
          needE (descOk w) 1 b.dst
          needE (formOk k b (readDesc v) (readDesc w)) 1 b.src
          startCopy k o b v w s t f
    else do
      blockOk k b
      needE (!(decide (b.src < b.dst + b.len) && decide (b.dst < b.src + b.len))) 2 b.dst
      needE (!ownerAway s (s.ctxOf f) b.src) 2 b.src
      needE (decide (k = .cpyr) || !ownerAway s (s.ctxOf f) b.dst) 2 b.dst
      startCopy k o b 0 0 s t f) s

/-- CPY (R204). -/
def execCpy (o : CPYo) (s : State) : Outcome := runCopy .cpy o s
/-- CPYP (R205). -/
def execCpyp (o : CPYo) (s : State) : Outcome := runCopy .cpyp o s
/-- CPYT (R206). -/
def execCpyt (o : CPYo) (s : State) : Outcome := runCopy .cpyt o s
/-- GATH (R207). -/
def execGath (o : CPYo) (s : State) : Outcome := runCopy .gath o s
/-- SCAT (R207). -/
def execScat (o : CPYo) (s : State) : Outcome := runCopy .scat o s
/-- CPYR (R204). -/
def execCpyr (o : CPYo) (s : State) : Outcome := runCopy .cpyr o s

/-! ## Chunks (R208) -/

/-- A run of bytes of the side that chunks are counted on, cut at 4 KiB: its address, its length, which block or row it
belongs to, and its place there. -/
structure Piece where
  at_ : Nat
  len : Nat
  a   : Nat
  b   : Nat
  c   : Nat
  off : Nat
  deriving DecidableEq, Repr

def cutPiece : Nat → Piece → List Piece
  | 0, _ => []
  | n + 1, p =>
    let m := 4096 - p.at_ % 4096
    if p.len ≤ m then [p]
    else { p with len := m } :: cutPiece n { p with at_ := p.at_ + m, len := p.len - m, off := p.off + m }

def rowAt (d : Desc) (n : Nat) : Nat := toBits 64 ((d.base : Int) + (n : Int) * d.rstr)

/-- The runs of a command. -/
def runsOf : CmdKind → List Piece
  | .cpy _ dst len => [⟨dst, len, 0, 0, 0, 0⟩]
  | .cpyr _ dst len => [⟨dst, len, 0, 0, 0, 0⟩]
  | .cpyp x y => y.tiles.flatMap (fun t => (List.range x.planes).map (fun n => ⟨y.block t.1 t.2 (y.plo + n), 1024, t.1, t.2, n, 0⟩))
  | .cpyt _ y => y.tiles.flatMap (fun t => (List.range y.planes).map (fun n => ⟨y.block t.1 t.2 (y.plo + n), 1024, t.1, t.2, y.plo + n, 0⟩))
  | .gath _ y _ len => (List.range len).map (fun n => ⟨rowAt y n, y.rowBytes, n, 0, 0, 0⟩)
  | .scat x _ _ len => (List.range len).map (fun n => ⟨rowAt x n, x.rowBytes, n, 0, 0, 0⟩)
  | _ => []

/-- Pieces in one 4 KiB frame that stand together. -/
def groupPieces : List Piece → List (List Piece)
  | [] => []
  | p :: l =>
    match groupPieces l with
    | (q :: g) :: r => if q.at_ / 4096 = p.at_ / 4096 then (p :: q :: g) :: r else [p] :: (q :: g) :: r
    | r => [p] :: r

-- DEDUCED, log 37 (unsafe).
/-- The chunks in the order written: ascending addresses; ascending rows of the source for SCAT. -/
def chunksOf (k : CmdKind) : List (List Piece) :=
  let l := (runsOf k).flatMap (fun p => cutPiece (p.len / 4096 + 2) p)
  match k with
  | .scat _ _ _ _ => groupPieces l
  | _ => groupPieces (l.mergeSort (fun a b => decide (a.at_ ≤ b.at_)))

/-- One bit of a transposed block: element (row i, reduction k) of tile (tr, tc), plane p (R206). -/
def transBit (x y : Desc) (snap : Array Byte) (tr tc p i k : Nat) : Bool :=
  let row := if y.layout = 1 then 64 * tr + i else 128 * tc + k
  let col := if y.layout = 1 then 128 * tc + k else 64 * tr + i
  if row < x.rows ∧ col < x.cols then
    let w := (fmtBytes x.fmt).getD 1
    (snap.getD ((row * x.cols + col) * w + p / 8) 0).getLsbD (p % 8)
  else false
-- DEDUCED, log 35 (safe).
def transByte (x y : Desc) (snap : Array Byte) (tr tc p n : Nat) : Nat → Nat
  | 0 => 0
  | b + 1 => transByte x y snap tr tc p n b +
      (if transBit x y snap tr tc p (n / 16) (8 * (n % 16) + b) then 2 ^ b else 0)

/-- Bytes to be written, and where; none where a row is not written. -/
inductive Fetched1
  | put (va : Nat) (b : List Byte) (s : State)
  | drop (s : State)
  | ask (va key : Nat) (s : State)
  | fail (e : FInfo)

/-- The bytes of a piece. -/
def fetchPiece (s : State) (t : TileId) (c : Cmd) (p : Piece) : Fetched1 :=
  let plain := fun (s : State) (va dst : Nat) =>
    match cmdRead s t c va p.len with
    | .got b s => Fetched1.put dst b s
    | .ask a k s => .ask a k s
    | .fail e => .fail e
  let index := fun (idx : Nat) (k : State → Nat → Fetched1) =>
    match cmdRead s t c (idx + 4 * p.a) 4 with
    | .got b s => k s (wordOfBytes b)
    | .ask a key s => .ask a key s
    | .fail e => .fail e
  match c.kind with
  | .cpy src dst _ => plain s (src + (p.at_ - dst)) p.at_
  | .cpyr src dst _ => plain s (src + (p.at_ - dst)) p.at_
  | .cpyp x _ =>
    match readPlane s t c x p.a p.b (x.plo + p.c) p.off p.len with
    | .got b s => .put p.at_ b s
    | .ask a k s => .ask a k s
    | .fail e => .fail e
  | .cpyt x y =>
    let snap := (c.snap.getD []).toArray
    .put p.at_ ((List.range p.len).map (fun i => BitVec.ofNat 8 (transByte x y snap p.a p.b p.c (p.off + i) 8))) s
  | .gath x _ idx _ => index idx (fun s r =>
      if x.rows ≤ r then .put p.at_ (List.replicate p.len 0) s else plain s (rowAt x r + p.off) p.at_)
  | .scat _ y idx _ => index idx (fun s r =>
      if y.rows ≤ r then .drop s else plain s p.at_ (rowAt y r + p.off))
  | _ => .drop s

/-- All the bytes of a chunk. -/
def fetchChunk (t : TileId) (c : Cmd) : List Piece → State → List (Nat × List Byte) → Fetched1 ⊕ (List (Nat × List Byte) × State)
  | [], s, acc => .inr (acc.reverse, s)
  | p :: l, s, acc =>
    match fetchPiece s t c p with
    | .put va b s => fetchChunk t c l s ((va, b) :: acc)
    | .drop s => fetchChunk t c l s acc
    | r => .inl r

def writeAll (t : TileId) (cid : Nat) : List (Nat × List Byte) → State → Except FInfo State
  | [], s => .ok s
  | (va, b) :: l, s =>
    match engWrite t cid (b.length / 128 + 2) s va b with
    | .error e => .error e
    | .ok s => writeAll t cid l s

-- DEDUCED, log 36 (unsafe).
/-- The source of a CPYT, its rows read in address order (R307). -/
def snapRows (t : TileId) (c : Cmd) (x : Desc) : Nat → State → List Byte → EngRead
  | 0, s, acc => .got acc s
  | n + 1, s, acc =>
    let down := decide (x.rstr < 0)
    match cmdRead s t c (rowAt x (if down then n else x.rows - (n + 1))) x.rowBytes with
    | .got b s => snapRows t c x n s (if down then b ++ acc else acc ++ b)
    | r => r

/-- Runs of bytes that a command reads and can name at its start (R305). -/
def readRuns : CmdKind → List (Nat × Nat)
  | .cpyp x _ => x.tiles.flatMap (fun t => heldRuns x t.1 t.2)
  | .cpyt x _ => (List.range x.rows).map (fun n => (rowAt x n, x.rowBytes))
  | .gath _ _ idx len => [(idx, 4 * len)]
  | .scat x _ idx len => (idx, 4 * len) :: (List.range len).map (fun n => (rowAt x n, x.rowBytes))
  | .ltload _ a => [(a, 8192)]
  | .lwire _ a => [(a, 16384)]
  | _ => []

/-- Every write of the present chunk, `n` bytes, has been acknowledged: it counts (R208, R356). Where a beat was dropped it is written
once more; then the command fails with OWNER (R358). -/
def chunkDone (s : State) (t : TileId) (c : Cmd) (n : Nat) : State :=
  if !c.missed then
    progress (s.setCmd t { c with chunk := c.chunk + 1, written := c.written + n, sent := none, twice := false }) (some c.inst)
  else if c.twice then
    let at_ := (((chunksOf c.kind)[c.chunk]?.getD []).head?.map (fun p => p.at_)).getD 0
    failCmd s t { c with missed := false, sent := none } (beatFault s t c at_)
  else s.setCmd t { c with missed := false, twice := true, mismatch := true, sent := none }

/-- An OSTORE that is to be made again, once what it sent before has been answered (R238, R241). -/
def Cmd.storesAgain (c : Cmd) : Bool :=
  decide (c.st = .queued) && decide (c.acks = 0) && (match c.kind with | .ostore _ _ _ _ => true | _ => false)

/-- COPY_CHUNK (R208): the next chunk, or the completion when all are written and acknowledged. -/
def copyChunk (t : TileId) (cid : Nat) (s : State) : State :=
  match s.cmd? t cid with
  | none => s
  | some c =>
    if c.storesAgain then ostoreRun t cid 2 s
    else if !c.isCopy || !c.pending || !acqMet (s.tile t) c || !relMet s t c || decide (c.acks ≠ 0) then s
    else
      let s := if c.st = .queued && c.chunk = 0 then cmdAcquire s t c else s
      match c.kind, c.snap, c.sent with
      | _, _, some n => chunkDone s t c n
      | .cpyt x _, none, none =>
        match snapRows t c x x.rows s [] with
        | .fail e => failCmd s t c e
        | .ask va key s => cmdAsk s t c va key (readRuns c.kind)
        | .got b s => s.setCmd t { c with st := .running, snap := some b }
      | _, _, none =>
        match (chunksOf c.kind)[c.chunk]? with
        | none => s.later (.copyDone t cid)
        | some ps =>
          match fetchChunk t c ps s [] with
          | .inl (.fail e) => failCmd s t c e
          | .inl (.ask va key s) => cmdAsk s t c va key (readRuns c.kind)
          | .inl _ => s
          | .inr (ws, s) =>
            let n := (ws.map (fun w => w.2.length)).foldl (· + ·) 0
            match writeAll t cid ws (s.setCmd t { c with st := .running, sent := some n }) with
            | .error e => failCmd s t { c with st := .running } e
            | .ok s =>
              match s.cmd? t cid with
              | some c => if c.acks = 0 then chunkDone s t c n else progress s (some c.inst)
              | none => s
def execCopyChunk (t : TileId) (cmd : Nat) (s : State) : Outcome := .next (copyChunk t cmd s)

/-! ## Completion (R209) -/

/-- COPY_DONE (R209). -/
def copyDone (t : TileId) (cid : Nat) (s : State) : State :=
  match s.cmd? t cid with
  | none => s
  | some c =>
    if !c.isCopy || !c.pending || decide (c.acks ≠ 0) then s
    else postDone (endCmd s t c .done) t c 0
def execCopyDone (t : TileId) (cmd : Nat) (s : State) : Outcome := .next (copyDone t cmd s)

/-- CWAIT (R210): what the wait finds. -/
inductive WaitRes
  | met
  | notYet
  | failed (e : FInfo)
def copyState (l : List Cmd) : WaitRes :=
  match l.find? (fun c => decide (c.st = .failed)) with
  | some c => .failed (c.fault.getD { code := .engine })
  | none => if l.any (fun c => c.pending) then .notYet else .met
def cwaitSet (x : Tile) (f : Firing) (id : Option Nat) : List Cmd :=
  x.cmds.filter (fun c => decide (c.owner = f.id) && c.isCopy && (match id with | some n => decide (c.id = n) | none => true))
def execCwait (o : CWAITo) (s : State) : Outcome :=
  issue o.g .boundary always (fun s t f => do
    need f (if o.all then [] else sl o.s)
    let id := if o.all then none else some (f.slot o.s.toNat).toNat
    match copyState (cwaitSet (s.tile t) f id) with
    | .met => pure { s := s, f := f }
    | .failed e => .error (.fault e)
    | .notYet => pure { s := s, f := { f with st := .stalled, wait := .cwait id }, moved := true }) s

def CmdSt.num : CmdSt → Nat
  | .queued => 0
  | .running => 1
  | .done => 2
  | .failed => 3
/-- CQRY (R211). -/
def execCqry (o : DS) (s : State) : Outcome :=
  issue o.g .boundary always (fun s t f => do
    need f (sl o.d ++ sl o.s)
    let v := match (cwaitSet (s.tile t) f (some (f.slot o.s.toNat).toNat)).head? with
      | none => 2 ^ 64 - 1
      | some c =>
        c.st.num + c.chunk % 2 ^ 24 * 2 ^ 8 + (match c.fault with | some e => e.code.num * 2 ^ 56 | none => 0)
    pure { s := s, f := f.setSlot o.d.toNat (BitVec.ofNat 64 v) }) s

end Sys2Proof.Machine
end

