-- ==== Sys2Proof/Machine/Lookup.lean ====
section
/-! DEFINITION. The lookup-cell block: OP 0x34, its queue, its loads and its evaluations layer by layer (R212 to R218, R276 to R284). -/

namespace Sys2Proof.Machine

/-! ## The queue of the block (R212, R280) -/

/-- A form joins the queue. -/
def Lcb.add (l : Lcb) (q : LcbForm) : Lcb := { l with queue := l.queue ++ [q] }
def lcbAdd (s : State) (t : TileId) (q : LcbForm) : State :=
  s.setTile t { s.tile t with lcb := (s.tile t).lcb.add q }

-- DEDUCED, log 45 (unsafe).
/-- LCTX (R213). -/
def execLctx (o : LCTXo) (s : State) : Outcome :=
  issue o.g .plain always (fun s t f => pure { s := lcbAdd s t (.ctx o.c), f := f }) s

/-- LBIND (R215). -/
def execLbind (o : LBINDo) (s : State) : Outcome :=
  issue o.g .plain always (fun s t f => do
    claimedOk (s.tile t) o.o.toNat
    pure { s := lcbAdd s t (.bind o.sig.toNat o.o.toNat), f := f }) s

/-- LBIND clear (R215). -/
def execLbindClear (g : BitVec 4) (s : State) : Outcome :=
  issue g .plain always (fun s t f => pure { s := lcbAdd s t .unbind, f := f }) s

/-- LEVAL (R216): it is accepted; its firing stands at it while it can still meet a fault of its own. -/
def execLeval (o : LEVALo) (s : State) : Outcome :=
  issue o.g .plain always (fun s t f => do
    waitFor (throttleOpen s t)
    need f (octSlots o.q)
    let j : LevalJob := { owner := f.id, q := o.q, n := o.n1.toNat + 1, next := 0, sig := o.sig.toNat, orphan := false
                          stamp := (s.tile t).nextCmd }
    pure { s := lcbAdd s t (.eval j), f := { f with st := .stalled, wait := .leval }, moved := true }) s

/-- The context of layer k of an evaluation that began with an AC (R216), and the contexts from a layer on. -/
def ctxOfLayer (ac : BitVec 3) (k : Nat) : Nat := (ac.toNat + k) % 8
def LevalJob.ac (j : LevalJob) (now : BitVec 3) : BitVec 3 := match j.begun with | some b => b.1 | none => now
def LevalJob.ctxsFrom (j : LevalJob) (ac : BitVec 3) (k : Nat) : List Nat :=
  ((List.range j.n).filter (fun i => decide (k ≤ i))).map (ctxOfLayer ac)

/-- An evaluation of a queue, accepted before a command was issued, has a layer in context c; `ac` is in force before it. -/
def queueUses (c id : Nat) : List LcbForm → BitVec 3 → Bool
  | [], _ => false
  | .ctx a :: l, _ => queueUses c id l a
  | .eval j :: l, ac => (decide (j.stamp ≤ id) && (j.ctxsFrom (j.ac ac) 0).contains c) || queueUses c id l ac
  | .bind _ _ :: l, ac => queueUses c id l ac
  | .unbind :: l, ac => queueUses c id l ac

/-- Some evaluation accepted before a command was issued has still a layer to run in context c (R282). -/
def usesCtx (x : Tile) (c id : Nat) : Bool :=
  let again := fun (j : LevalJob) => decide (j.stamp ≤ id) && (j.ctxsFrom (j.ac x.lcb.ac) 0).contains c
  (match x.lcb.job with
   | some j => if j.failed then again j else decide (j.stamp ≤ id) && (j.ctxsFrom (j.ac x.lcb.ac) j.next).contains c
   | none => false) || queueUses c id x.lcb.queue x.lcb.ac ||
  x.firings.any (fun f => match f.reeval with | some j => again j | none => false)

/-! ## Loads of contexts (R214, R282) -/

/-- The context that a command loads, and whether with wiring. -/
def CmdKind.loads : CmdKind → Option (Nat × Bool)
  | .ltload k _ => some (k, false)
  | .lwire k _ => some (k, true)
  | _ => none
/-- A load is in progress from its issue until it is written; one that failed is made again (R282, R241). -/
def Cmd.loading (c : Cmd) (k : Nat) : Bool :=
  (c.pending || decide (c.st = .failed)) && (match c.kind.loads with | some (i, _) => decide (i = k) | none => false)
def loadingCtx (x : Tile) (k : Nat) : Bool := x.cmds.any (fun c => c.loading k)
/-- A load into a context issued before an evaluation was accepted, and one of wiring. -/
def loadBefore (x : Tile) (k stamp : Nat) : Bool := x.cmds.any (fun c => decide (c.id < stamp) && c.loading k)
def wireBefore (x : Tile) (k stamp : Nat) : Bool :=
  x.cmds.any (fun c => decide (c.id < stamp) && c.loading k && (match c.kind.loads with | some (_, w) => w | none => false))

/-- LTLOAD and LWIRE (R214). -/
def runLcbLoad (wire : Bool) (o : LTLo) (s : State) : Outcome :=
  issue o.g .plain always (fun s t f => do
    need f (sl o.s)
    let a := (f.slot o.s.toNat).toNat
    unless_ (a % 64 == 0) .align (vaDetail a)
    let rs : List Range := [{ w := false, area := lineArea a (if wire then 16384 else 8192) }]
    match ← rangesOf s t f rs (.ok ()) with
    | .wait d => pure d
    | .ready s f regs away =>
      let k := if wire then CmdKind.lwire o.c.toNat a else CmdKind.ltload o.c.toNat a
      pure { s := (attach s t f k o.acq false o.scope rs regs away).2, f := f }) s
/-- LTLOAD (R214). -/
def execLtload (o : LTLo) (s : State) : Outcome := runLcbLoad false o s
/-- LWIRE (R214). -/
def execLwire (o : LTLo) (s : State) : Outcome := runLcbLoad true o s

/-- The words of a context's tables, from its bytes. -/
def putTables (c : Nat) (b : Array Byte) : Nat → Tab Word → Tab Word
  | 0, t => t
  | m + 1, t => tabPut 0 (putTables c b m t) (c * 1024 + m)
      (BitVec.ofNat 64 (wordOfBytes ((List.range 8).map (fun i => b.getD (8 * m + i) 0))))
def wireRec (b : Array Byte) (m : Nat) : BitVec 128 :=
  BitVec.ofNat 128 (wordOfBytes ((List.range 16).map (fun i => b.getD (16 * m + i) 0)))
def putWiring (c : Nat) (b : Array Byte) : Nat → Tab (BitVec 128) → Tab (BitVec 128)
  | 0, t => t
  | m + 1, t => tabPut 0 (putWiring c b m t) (c * 1024 + m) (wireRec b m)
/-- OE, OUT and SEL of a wiring record. -/
def wireOe (r : BitVec 128) : Bool := r.getLsbD 77
def wireOut (r : BitVec 128) : Nat := bitsNat r.toNat 76 66
def wireSel (r : BitVec 128) (k : Nat) : Nat := bitsNat r.toNat (11 * k + 10) (11 * k)
/-- A record with reserved bits set, or a signal that two evaluated cells write (R214). -/
def wiringBad (b : Array Byte) : Bool :=
  let l := (List.range 1024).map (wireRec b)
  l.any (fun r => decide (r.toNat / 2 ^ 78 ≠ 0)) || !((l.filter wireOe).map wireOut).Nodup

/-- A load waits for earlier ones, for one of its context that is to be made again, and for the layers of earlier evaluations (R282). -/
def loadHeld (x : Tile) (c : Cmd) (k : Nat) : Bool :=
  usesCtx x k c.id ||
  x.cmds.any (fun d => decide (d.id < c.id) && ((d.pending && d.kind.loads.isSome) || d.loading k))

/-- A context with the bytes of a load (R214). -/
def Lcb.take (l : Lcb) (k : Nat) (wire : Bool) (b : Array Byte) : Lcb :=
  let bit : BitVec 8 := BitVec.ofNat 8 (2 ^ k)
  if wire then
    { l with wiring := putWiring k b 1024 l.wiring, invalid := if wiringBad b then l.invalid ||| bit else l.invalid &&& ~~~bit }
  else { l with tables := putTables k b 1024 l.tables }

/-- LCB_LOAD_COMPLETE (R214, R282): a load is written into its context. -/
def lcbLoad (t : TileId) (cid : Nat) (s : State) : State :=
  let run := fun (c : Cmd) (k a n : Nat) (wire : Bool) =>
    let x := s.tile t
    if !c.pending || !acqMet x c || loadHeld x c k then s
    else
      let s := if c.asked.isEmpty then cmdAcquire s t c else s
      match cmdRead s t c a n with
      | .fail e => failCmd s t c e
      | .ask va key s => cmdAsk s t c va key (readRuns c.kind)
      | .got b s =>
        let x := s.tile t
        forget (endCmd (s.setTile t { x with lcb := x.lcb.take k wire b.toArray }) t c .done) t c
  match s.cmd? t cid with
  | none => s
  | some c =>
    match c.kind with
    | .ltload k a => run c k a 8192 false
    | .lwire k a => run c k a 16384 true
    | _ => s
def execLcbLoadComplete (t : TileId) (cmd : Nat) (s : State) : Outcome := .next (lcbLoad t cmd s)

/-! ## Evaluation (R216, R218, R276 to R281) -/

/-- Signal of column f of plane p: bit s is bit (f mod 8) of byte 16s + ⌊f/8⌋ of the block (R276). -/
def slotSignal (m : OmSlot) (p f : Nat) : Nat → Nat
  | 0 => 0
  | i + 1 => slotSignal m p f i + (if (m.plane p).testBit (128 * i + f) then 2 ^ i else 0)
/-- A slot's signals loaded from a base (R215). -/
def loadSlot (m : OmSlot) (base : Nat) : Nat → Tab Word → Tab Word
  | 0, t => t
  | n + 1, t => tabPut 0 (loadSlot m base n t) (base + n) (BitVec.ofNat 64 (slotSignal m (n / 128) (n % 128) 64))

/-- The binding step (R216, R280): bindings in ascending base. -/
def bindStep (x : Tile) : List (Nat × Nat) → Tab Word → Ex (Tab Word)
  | [], p => .ok p
  | (base, o) :: l, p => do
    let m := x.slotOf o
    unless_ m.claimed .omslot (omDetail o m.nplanes 0)
    waitFor (!m.filling)
    unless_ (decide (base + 128 * m.nplanes ≤ 2048)) .engine (subDetail 2 base)
    bindStep x l (loadSlot m base (128 * m.nplanes) p)

/-- The index of a cell for one sample. -/
def cellIndex (p : Tab Word) (r : BitVec 128) (i : Nat) : Nat → Nat
  | 0 => 0
  | k + 1 => cellIndex p r i k + (if (tabGet 0 p (wireSel r k)).getLsbD i then 2 ^ k else 0)
def cellValue (p : Tab Word) (r : BitVec 128) (table : Word) : Nat → Nat
  | 0 => 0
  | i + 1 => cellValue p r table i + (if table.getLsbD (cellIndex p r i 6) then 2 ^ i else 0)
-- DEDUCED, log 46 (safe).
/-- One layer: every cell reads the plane before the layer. -/
def runLayer (l : Lcb) (c : Nat) (old : Tab Word) : Nat → Tab Word → Tab Word
  | 0, new => new
  | m + 1, new =>
    let new := runLayer l c old m new
    let r := tabGet 0 l.wiring (c * 1024 + m)
    if wireOe r then tabPut 0 new (wireOut r) (BitVec.ofNat 64 (cellValue old r (tabGet 0 l.tables (c * 1024 + m)) 64))
    else new

/-- The eight signals of a result. -/
def resultOctet (p : Tab Word) (sig : Nat) : Nat → Nat
  | 0 => 0
  | m + 1 => resultOctet p sig m + (tabGet 0 p (sig + m)).toNat * 2 ^ (64 * m)

def State.setJob (s : State) (t : TileId) (j : Option LevalJob) : State :=
  let x := s.tile t
  s.setTile t { x with lcb := { x.lcb with job := j } }

/-- An evaluation fails. While its firing stands at it the fault is precise; after that it has failed in flight (R242, R284), and keeps
the block until it is made again; without a reader it ends. -/
def evalFails (s : State) (t : TileId) (j : LevalJob) (e : FInfo) : State :=
  match s.firing? t j.owner, j.orphan with
  | some f, false =>
    if j.settled then
      let x := (s.setJob t (some { j with failed := true })).tile t
      let x := withdrawEval x f.id
      wakeTile (s.setTile t { x with
        firings := x.firings.map (fun g => if g.id = f.id then { g with failed := some (g.failed.getD e) } else g) }) t
    else takeFault (s.setJob t none) t { f with st := .running, wait := .none } e
  | _, _ =>
    let s := s.setJob t none
    if e.code = .parity then s.post .mg (faultRecord s { tile := t, entry := none, ctx := 0 } e 0 0 17 0 .none 0) else s

-- DEDUCED, log 170 (unsafe).
/-- An evaluation can meet no more fault of its own: every context it has still to use is valid, and no wiring is on its way into one. Its
firing goes on, with the result to come. -/
def settleEval (s : State) (t : TileId) : State :=
  let x := s.tile t
  match x.lcb.job with
  | none => s
  | some j =>
    if j.settled || !j.bound then s
    else
      let cs := j.ctxsFrom (j.ac x.lcb.ac) j.next
      let later := cs.filter (fun c => wireBefore x c j.stamp)
      match (cs.filter (fun c => !later.contains c)).find? (fun c => x.lcb.invalid.getLsbD c) with
      | some c => evalFails s t j (engineInfo 5 c)
      | none =>
        if !later.isEmpty then s
        else
          let pend : Pend := { src := .leval, d := 8 * j.q.toNat, n := 8, how := .octet }
          s.setTile t { x with
            lcb := { x.lcb with job := some { j with settled := true } }
            firings := x.firings.map (fun f =>
              if f.id = j.owner ∧ f.wait = .leval ∧ j.orphan = false then { f with st := .running, wait := .none, pend := f.pend ++ [pend] }.advance else f) }

/-- The form at the head of the queue takes effect, or is the next evaluation (R280). -/
def Lcb.shift (l : Lcb) : Lcb :=
  match l.queue with
  | [] => l
  | .ctx c :: q => { l with ac := c, queue := q }
  | .bind k o :: q => { l with binds := tabSet l.binds k o, queue := q }
  | .unbind :: q => { l with binds := [], queue := q }
  | .eval j :: q => { l with job := some { j with begun := some (j.begun.getD (l.ac, l.binds)) }, queue := q }

/-- The binding step (R216, R280). -/
def bindEval (s : State) (t : TileId) (j : LevalJob) : State :=
  let x := s.tile t
  match bindStep x ((j.begun.map (fun b => b.2)).getD x.lcb.binds) x.lcb.plane with
  | .error .hold => s
  | .error (.fault e) => evalFails s t j e
  | .ok p => settleEval (s.setTile t { x with lcb := { x.lcb with plane := p, job := some { j with bound := true } } }) t

/-- The result of an evaluation reaches its firing, and the block is free. -/
def finishEval (s : State) (t : TileId) (j : LevalJob) (p : Tab Word) : State :=
  let x := s.tile t
  let v := resultOctet p j.sig 8
  let mine := fun (q : Pend) => q.src == .leval && decide (q.d = 8 * j.q.toNat)
  let firings := x.firings.map (fun f =>
    if f.id = j.owner && !j.orphan then landValue { f with pend := f.pend.filter (fun q => !mine q) } .octet (8 * j.q.toNat) v else f)
  wakeTile (progress (s.setTile t { x with lcb := { x.lcb with plane := p, job := none }, firings := firings }) x.inst) t

/-- One layer, unless a load into its context is in progress (R282). -/
def runEval (s : State) (t : TileId) : State :=
  let x := s.tile t
  match x.lcb.job with
  | none => s
  | some j =>
    let c := ctxOfLayer (j.ac x.lcb.ac) j.next
    if !j.bound || j.failed || loadBefore x c j.stamp then s
    else if x.lcb.invalid.getLsbD c then evalFails s t j (engineInfo 5 c)
    else if s.struck 8 (tileKey t) then
      evalFails (s.spend 8 (tileKey t)) t j { code := .parity, detail := unitDetail 8 (tileKey t) }
    else
      let p := runLayer x.lcb c x.lcb.plane 1024 x.lcb.plane
      if j.next + 1 < j.n then
        progress (s.setTile t { x with lcb := { x.lcb with plane := p, job := some { j with next := j.next + 1 } } }) x.inst
      else if j.settled || j.orphan then finishEval s t j p
      else s

/-- LEVAL_LAYER (R216, R280, R284): the next step of the block: a form of its queue, a binding step, a layer; a halted tile's block
stands between layers (R218, R352). -/
def levalStep (t : TileId) (s : State) : State :=
  let x := s.tile t
  if x.halting || x.atHalt then s
  else
    match x.lcb.job with
    | none => s.setTile t { x with lcb := x.lcb.shift }
    | some j =>
      if j.failed then s
      else if !j.bound then bindEval s t j
      else runEval (settleEval s t) t
def execLevalLayer (t : TileId) (s : State) : Outcome := .next (levalStep t s)

/-- LWAIT (R217). -/
def lwaitMet (x : Tile) (m : BitVec 8) : Bool := !(List.range 8).any (fun c => m.getLsbD c && loadingCtx x c)
def execLwait (o : LWAITo) (s : State) : Outcome :=
  issue o.g .plain always (fun s t f =>
    if lwaitMet (s.tile t) o.m then pure { s := s, f := f }
    else pure { s := s, f := { f with st := .stalled, wait := .lwait o.m }, moved := true }) s

end Sys2Proof.Machine
end

