-- ==== Sys2Proof/Machine/Float.lean ====
section
/-! DEFINITION. The floating formats, their exact values, and the one rounding of the part (R21 to R24, R124):
a bit pattern is read as an exact value, the exact result is computed, and one function rounds it to nearest,
ties to even, and names the flags it raises. -/

namespace Sys2Proof.Machine

/-- The sticky flags of R23. -/
structure Flags where
  iv : Bool := false
  ov : Bool := false
  uf : Bool := false
  ix : Bool := false
  deriving DecidableEq, Repr

/-- No flag. -/
def Flags.none : Flags := {}

/-- The OR of two sets of flags (R125). -/
def Flags.join (a b : Flags) : Flags :=
  { iv := a.iv || b.iv, ov := a.ov || b.ov, uf := a.uf || b.uf, ix := a.ix || b.ix }

/-- Invalid operation alone. -/
def Flags.invalid : Flags := { iv := true }

/-- The bits of FPF, [3] IV, [2] OV, [1] UF, [0] IX (R112). -/
def Flags.bits (f : Flags) : BitVec 4 :=
  BitVec.ofNat 4 ((if f.iv then 8 else 0) + (if f.ov then 4 else 0) + (if f.uf then 2 else 0) + (if f.ix then 1 else 0))

/-- A floating format of R21: exponent bits, mantissa bits, whether it has infinities, and the code of its
largest finite magnitude. -/
structure Fmt where
  eb : Nat
  mb : Nat
  hasInf : Bool
  maxCode : Nat
  nanCode : Nat
  deriving DecidableEq, Repr

/-- The five formats (R21, R22). -/
def fmtE4M3 : Fmt := ⟨4, 3, false, 0x7E, 0x7F⟩
def fmtE5M2 : Fmt := ⟨5, 2, true, 0x7B, 0x7E⟩
def fmtFP16 : Fmt := ⟨5, 10, true, 0x7BFF, 0x7E00⟩
def fmtBF16 : Fmt := ⟨8, 7, true, 0x7F7F, 0x7FC0⟩
def fmtFP32 : Fmt := ⟨8, 23, true, 0x7F7FFFFF, 0x7FC00000⟩

/-- The format of a floating type field. -/
def fmtOf : FTy → Fmt
  | .fp16 => fmtFP16
  | .bf16 => fmtBF16
  | .fp32 => fmtFP32

/-- Bits of a value of the format. -/
def Fmt.width (f : Fmt) : Nat := 1 + f.eb + f.mb

/-- The bias (R21). -/
def Fmt.bias (f : Fmt) : Nat := 2 ^ (f.eb - 1) - 1

/-- The exponent of the last place of a subnormal. -/
def Fmt.qmin (f : Fmt) : Int := 1 - (f.bias : Int) - (f.mb : Int)

/-- An exact value: NaN, an infinity, or (−1)^neg · m · 2^e. -/
inductive FVal
  | nan
  | inf (neg : Bool)
  | fin (neg : Bool) (m : Nat) (e : Int)
  deriving DecidableEq, Repr

/-- `val(x, t)` of R124: the value of the low bits of a pattern. -/
def Fmt.val (f : Fmt) (x : Nat) : FVal :=
  let neg := (x / 2 ^ (f.eb + f.mb)) % 2 = 1
  let mag := x % 2 ^ (f.eb + f.mb)
  let ef := mag / 2 ^ f.mb
  let m := mag % 2 ^ f.mb
  if mag ≤ f.maxCode then
    if ef = 0 then .fin neg m f.qmin
    else .fin neg (2 ^ f.mb + m) (f.qmin + (ef : Int) - 1)
  else if f.hasInf && decide (m = 0) then .inf neg
  else .nan

/-- The sign bit of the format. -/
def Fmt.signBit (f : Fmt) (neg : Bool) : Nat := if neg then 2 ^ (f.eb + f.mb) else 0

/-- The pattern of an infinity; the largest finite value where the format has none. -/
def Fmt.infBits (f : Fmt) (neg : Bool) : Nat :=
  f.signBit neg + (if f.hasInf then (2 ^ f.eb - 1) * 2 ^ f.mb else f.maxCode)

/-- The pattern of the largest finite value of a sign. -/
def Fmt.maxBits (f : Fmt) (neg : Bool) : Nat := f.signBit neg + f.maxCode

/-- Number of significant bits. -/
def bitLen (m : Nat) : Nat := if m = 0 then 0 else Nat.log2 m + 1

/-- `m / 2^k` rounded to nearest, ties to even, and whether it was inexact. -/
def rneShift (m k : Nat) : Nat × Bool :=
  let q := m / 2 ^ k
  let r := m % 2 ^ k
  let half := 2 ^ k / 2
  if r = 0 then (q, false)
  else if half < r then (q + 1, true)
  else if r = half then ((if q % 2 = 1 then q + 1 else q), true)
  else (q, true)

/-- m·2^e rounded to an integer multiple of 2^q: the multiple and whether it was inexact. -/
def rneTo (m : Nat) (e q : Int) : Nat × Bool :=
  if q ≤ e then (m * 2 ^ (e - q).toNat, false) else rneShift m (q - e).toNat

/-- The magnitude code of m·2^e rounded once to the format as if it had no largest value; inexact; and tiny
after rounding (R23, R124). -/
def Fmt.roundCode (f : Fmt) (m : Nat) (e : Int) : Nat × Bool × Bool :=
  if m = 0 then (0, false, false)
  else
    let p : Int := (f.mb : Int) + 1
    let top : Int := e + (bitLen m : Int)
    let q : Int := max (top - p) f.qmin
    let r := rneTo m e q
    let emin : Int := f.qmin + (f.mb : Int)
    let u := rneTo m e (top - p)
    let tiny := decide (top < emin) || (decide (top = emin) && decide (u.1 < 2 ^ (f.mb + 1)))
    ((q - f.qmin).toNat * 2 ^ f.mb + r.1, r.2, tiny)

-- DEDUCED, log 14 (unsafe).
/-- An exact value rounded to the format (`rnd` of R124). `sat` selects a saturating conversion (R24): a finite
value beyond the largest finite one, and an infinity, give the largest finite value. -/
def Fmt.enc (f : Fmt) (sat : Bool) : FVal → Nat × Flags
  | .nan => (f.nanCode, .none)
  | .inf neg =>
    if sat || !f.hasInf then (f.maxBits neg, { ov := true }) else (f.infBits neg, .none)
  | .fin neg m e =>
    let r := f.roundCode m e
    if f.maxCode < r.1 then
      ((if sat || !f.hasInf then f.maxBits neg else f.infBits neg), { ov := true, ix := true })
    else (f.signBit neg + r.1, { uf := r.2.1 && r.2.2, ix := r.2.1 })

/-- Sign and magnitude of an integer. -/
def FVal.ofInt (v : Int) : FVal := .fin (decide (v < 0)) v.natAbs 0

/-- The value as m·2^e with a common exponent, signed. -/
def sgn (neg : Bool) (m : Nat) : Int := if neg then -(m : Int) else (m : Int)

/-- The exact sum of two values (R124, R127): the sum, and whether the operation is invalid. -/
def FVal.add : FVal → FVal → FVal × Bool
  | .nan, _ => (.nan, false)
  | _, .nan => (.nan, false)
  | .inf a, .inf b => if a = b then (.inf a, false) else (.nan, true)
  | .inf a, .fin _ _ _ => (.inf a, false)
  | .fin _ _ _, .inf b => (.inf b, false)
  | .fin sa ma ea, .fin sb mb eb =>
    let e := min ea eb
    let v := sgn sa (ma * 2 ^ (ea - e).toNat) + sgn sb (mb * 2 ^ (eb - e).toNat)
    if v = 0 then (.fin (decide (ma = 0) && decide (mb = 0) && sa && sb) 0 e, false)
    else (.fin (decide (v < 0)) v.natAbs e, false)

/-- The value with its sign exchanged. -/
def FVal.neg : FVal → FVal
  | .nan => .nan
  | .inf a => .inf (!a)
  | .fin s m e => .fin (!s) m e

/-- The magnitude. -/
def FVal.abs : FVal → FVal
  | .nan => .nan
  | .inf _ => .inf false
  | .fin _ m e => .fin false m e

/-- The exact product and whether the operation is invalid (R127). -/
def FVal.mul : FVal → FVal → FVal × Bool
  | .nan, _ => (.nan, false)
  | _, .nan => (.nan, false)
  | .inf a, .inf b => (.inf (a != b), false)
  | .inf a, .fin b m _ => if m = 0 then (.nan, true) else (.inf (a != b), false)
  | .fin a m _, .inf b => if m = 0 then (.nan, true) else (.inf (a != b), false)
  | .fin a m e, .fin b n g => (.fin (a != b) (m * n) (e + g), false)

/-- Is it NaN. -/
def FVal.isNan : FVal → Bool
  | .nan => true
  | _ => false

/-- The order of two values with −0 below +0 (R128); both not NaN. -/
def FVal.ltTotal : FVal → FVal → Bool
  | .nan, _ => false
  | _, .nan => false
  | .inf a, .inf b => a && !b
  | .inf a, .fin _ _ _ => a
  | .fin _ _ _, .inf b => !b
  | .fin sa ma ea, .fin sb mb eb =>
    let e := min ea eb
    let x := sgn sa (ma * 2 ^ (ea - e).toNat)
    let y := sgn sb (mb * 2 ^ (eb - e).toNat)
    decide (x < y) || (decide (x = y) && decide (ma = 0) && sa && !sb)

/-- Numerical equality, −0 equal to +0 (R131). -/
def FVal.eqNum : FVal → FVal → Bool
  | .inf a, .inf b => a == b
  | .fin sa ma ea, .fin sb mb eb =>
    let e := min ea eb
    decide (sgn sa (ma * 2 ^ (ea - e).toNat) = sgn sb (mb * 2 ^ (eb - e).toNat))
  | _, _ => false

/-- a below b numerically (R131). -/
def FVal.ltNum (a b : FVal) : Bool := a.ltTotal b && !a.eqNum b

/-- One rounded operation: an exact result with its invalid mark, encoded. -/
def Fmt.rndOp (f : Fmt) (r : FVal × Bool) : Nat × Flags :=
  if r.2 then (f.nanCode, .invalid) else f.enc false r.1

/-- FADD (R127). -/
def fAdd (f : Fmt) (a b : Nat) : Nat × Flags := f.rndOp ((f.val a).add (f.val b))
/-- FSUB. -/
def fSub (f : Fmt) (a b : Nat) : Nat × Flags := f.rndOp ((f.val a).add (f.val b).neg)
/-- FMUL. -/
def fMul (f : Fmt) (a b : Nat) : Nat × Flags := f.rndOp ((f.val a).mul (f.val b))

/-- FFMA: one rounding; IV for 0·∞ whatever the addend, and for an infinite product against the other infinity
(R127). -/
def fFma (f : Fmt) (a b c : Nat) : Nat × Flags :=
  let p := (f.val a).mul (f.val b)
  if p.2 then (f.nanCode, .invalid) else f.rndOp (p.1.add (f.val c))

/-- The pattern of an operand as a result: NaN becomes canonical. -/
def Fmt.canon (f : Fmt) (x : Nat) : Nat :=
  if (f.val x).isNan then f.nanCode else x % 2 ^ f.width

/-- FMIN and FMAX (R128): `pickB` says that the second operand is the one chosen. -/
def fSelect (f : Fmt) (a b : Nat) (pickB : Bool) : Nat × Flags :=
  (if (f.val a).isNan then f.canon b
   else if (f.val b).isNan then f.canon a
   else if pickB then f.canon b else f.canon a, .none)
/-- FMIN. -/
def fMin (f : Fmt) (a b : Nat) : Nat × Flags := fSelect f a b ((f.val b).ltTotal (f.val a))
/-- FMAX. -/
def fMax (f : Fmt) (a b : Nat) : Nat × Flags := fSelect f a b ((f.val a).ltTotal (f.val b))

/-- FCPYS (R127): the magnitude of a with the sign bit of b. -/
def fCpys (f : Fmt) (a b : Nat) : Nat × Flags :=
  (if (f.val a).isNan then f.nanCode
   else a % 2 ^ (f.eb + f.mb) + f.signBit (decide ((b / 2 ^ (f.eb + f.mb)) % 2 = 1)), .none)

/-! ## The functions of R129: an exact value with a last sticky bit, rounded once -/

/-- The low bit set where the value lies strictly between two multiples: one more bit of `m`. -/
def withSticky (m : Nat) (sticky : Bool) : Nat := 2 * m + (if sticky then 1 else 0)

/-- The integer square root, bit by bit from the top. -/
def isqrtFrom (n : Nat) : Nat → Nat → Nat
  | 0, r => r
  | b + 1, r => if (r + 2 ^ b) * (r + 2 ^ b) ≤ n then isqrtFrom n b (r + 2 ^ b) else isqrtFrom n b r

/-- The integer square root. -/
def isqrt (n : Nat) : Nat := isqrtFrom n (bitLen n / 2 + 1) 0

/-- FRCP (R129, R130). -/
def fRcp (f : Fmt) (a : Nat) : Nat × Flags :=
  match f.val a with
  | .nan => (f.nanCode, .none)
  | .inf s => (f.signBit s, .none)
  | .fin s m e =>
    if m = 0 then (f.infBits s, { ov := true })
    else
      let k := bitLen m + f.mb + 4
      f.enc false (.fin s (withSticky (2 ^ k / m) (decide (2 ^ k % m ≠ 0))) (-(k : Int) - e - 1))

/-- m·2^e written with an even exponent. -/
def evenExp (m : Nat) (e : Int) : Nat × Int := if e % 2 = 0 then (m, e) else (2 * m, e - 1)

/-- FSQRT (R129, R130). -/
def fSqrt (f : Fmt) (a : Nat) : Nat × Flags :=
  match f.val a with
  | .nan => (f.nanCode, .none)
  | .inf s => if s then (f.nanCode, .invalid) else (f.infBits false, .none)
  | .fin s m e =>
    if m = 0 then (f.signBit s, .none)
    else if s then (f.nanCode, .invalid)
    else
      let x := evenExp m e
      let j := f.mb + 4
      let n := x.1 * 2 ^ (2 * j)
      let r := isqrt n
      f.enc false (.fin false (withSticky r (decide (r * r ≠ n))) (x.2 / 2 - (j : Int) - 1))

/-- FRSQ (R129, R130): 1/√a. -/
def fRsq (f : Fmt) (a : Nat) : Nat × Flags :=
  match f.val a with
  | .nan => (f.nanCode, .none)
  | .inf s => if s then (f.nanCode, .invalid) else (0, .none)
  | .fin s m e =>
    if m = 0 then (f.infBits s, { ov := true })
    else if s then (f.nanCode, .invalid)
    else
      let x := evenExp m e
      let k := bitLen m + f.mb + 4
      let r := isqrt (2 ^ (2 * k) / x.1)
      f.enc false (.fin false (withSticky r (decide (r * r * x.1 ≠ 2 ^ (2 * k)))) (-(x.2 / 2) - (k : Int) - 1))

/-- Working precision, in bits after the point, of the two functions that are never exact off their grid. -/
def fxBits : Nat := 320

/-- floor(ln 2 · 2^320). -/
def ln2Fx : Nat := 0xb17217f7d1cf79abc9e3b39803f2f6af40f343267298b62d8a0d175b8baafa2be7b876206debac98

/-- Sum of the terms y^n / n! of the exponential series, `fuel` terms from n on, with the last term given. -/
def expSeries (y : Nat) : Nat → Nat → Nat → Nat → Nat
  | 0, _, _, acc => acc
  | fuel + 1, n, term, acc =>
    let t := term * y / 2 ^ fxBits / n
    expSeries y fuel (n + 1) t (acc + t)

/-- 2^(x / 2^320) for 0 ≤ x < 2^320, in 2^−320 units, to well below one part in 2^300. -/
def exp2Fx (x : Nat) : Nat :=
  expSeries (x * ln2Fx / 2 ^ fxBits) 80 1 (2 ^ fxBits) (2 ^ fxBits)

-- DEDUCED, log 13 (unsafe).
/-- 2^a of an exact finite value (R129): exact where a is an integer; otherwise irrational, so a last sticky
bit stands for the rest. Exponents beyond every format are cut off before the power is formed. -/
def exp2Val (s : Bool) (m : Nat) (e : Int) : FVal :=
  if m = 0 then .fin false 1 0
  else if 12 < e + (bitLen m : Int) then
    (if s then .fin false 1 (-8192) else .fin false 1 8192)
  else
    -- the operand in 2^−320 units; bits below that only move the result inside its sticky bit
    let sh := e + (fxBits : Int)
    let mag := if 0 ≤ sh then m * 2 ^ sh.toNat else m / 2 ^ (-sh).toNat
    let v := sgn s mag
    let ip := v / (2 : Int) ^ fxBits
    let fp := (v % (2 : Int) ^ fxBits).toNat
    if fp = 0 && decide (0 ≤ sh) then .fin false 1 ip
    else .fin false (withSticky (exp2Fx fp) true) (ip - (fxBits : Int) - 1)

/-- FEXP2 (R129, R130). -/
def fExp2 (f : Fmt) (a : Nat) : Nat × Flags :=
  match f.val a with
  | .nan => (f.nanCode, .none)
  | .inf s => if s then (0, .none) else (f.infBits false, .none)
  | .fin s m e => f.enc false (exp2Val s m e)

/-- Bits of log2 of x in [1, 2), x in 2^−320 units, one per squaring. -/
def log2Bits : Nat → Nat → Nat → Nat
  | 0, _, acc => acc
  | k + 1, x, acc =>
    let y := x * x / 2 ^ fxBits
    if 2 * 2 ^ fxBits ≤ y then log2Bits k (y / 2) (2 * acc + 1) else log2Bits k y (2 * acc)

/-- log2 of m·2^e, m ≠ 0 (R129): exact where m is a power of two, otherwise irrational. -/
def log2Val (m : Nat) (e : Int) : FVal :=
  let l := bitLen m
  let ip : Int := e + (l : Int) - 1
  if m = 2 ^ (l - 1) then FVal.ofInt ip
  else
    let x := m * 2 ^ (fxBits + 1 - l)
    let v : Int := ip * (2 : Int) ^ 160 + (log2Bits 160 x 0 : Int)
    let w : Int := 2 * v + 1
    .fin (decide (w < 0)) w.natAbs (-161)

/-- FLOG2 (R129, R130). -/
def fLog2 (f : Fmt) (a : Nat) : Nat × Flags :=
  match f.val a with
  | .nan => (f.nanCode, .none)
  | .inf s => if s then (f.nanCode, .invalid) else (f.infBits false, .none)
  | .fin s m e =>
    if m = 0 then (f.infBits true, { ov := true })
    else if s then (f.nanCode, .invalid)
    else f.enc false (log2Val m e)

/-- FNEG: exact; canonical NaN for NaN (R129). -/
def fNeg (f : Fmt) (a : Nat) : Nat × Flags :=
  match f.val a with
  | .nan => (f.nanCode, .none)
  | _ => ((a + 2 ^ (f.eb + f.mb)) % 2 ^ f.width, .none)

/-- FABS. -/
def fAbs (f : Fmt) (a : Nat) : Nat × Flags :=
  match f.val a with
  | .nan => (f.nanCode, .none)
  | _ => (a % 2 ^ (f.eb + f.mb), .none)

/-- FRND: an integral value, ties to even, the sign kept (R129, R130). -/
def fRnd (f : Fmt) (a : Nat) : Nat × Flags :=
  match f.val a with
  | .nan => (f.nanCode, .none)
  | .inf s => (f.infBits s, .none)
  | .fin s m e =>
    let r := rneTo m e 0
    let x := if 0 ≤ e then (m, e) else (r.1, 0)
    let c := f.enc false (.fin s x.1 x.2)
    (c.1, { ix := if 0 ≤ e then false else r.2 })

/-! ## Compares and conversions -/

/-- The conditions of FCMP (R131): EQ, NE, LT, LE, UN. -/
def fCond (f : Fmt) (cc : Nat) (a b : Nat) : Bool × Flags :=
  let x := f.val a
  let y := f.val b
  let un := x.isNan || y.isNan
  match cc with
  | 0 => (x.eqNum y, .none)
  | 1 => (!x.eqNum y, .none)
  | 2 => (!un && x.ltNum y, { iv := un })
  | 3 => (!un && (x.ltNum y || x.eqNum y), { iv := un })
  | _ => (un, .none)

/-- A value converted to an integer range (R24, R132): rounded to nearest even, then clamped. -/
def FVal.toIntSat (lo hi : Int) : FVal → Int × Flags
  | .nan => (0, .invalid)
  | .inf s => ((if s then lo else hi), .invalid)
  | .fin s m e =>
    let r := rneTo m e 0
    let v := sgn s r.1
    if v < lo then (lo, { ov := true, ix := true })
    else if hi < v then (hi, { ov := true, ix := true })
    else (v, { ix := r.2 })

/-- A float pattern of one format converted to another (R24, R132). -/
def fConv (src dst : Fmt) (sat : Bool) (a : Nat) : Nat × Flags := dst.enc sat (src.val a)

end Sys2Proof.Machine
end

