-- ==== Sys2Proof/Machine/Lanes.lean ====
section
/-! DEFINITION. The lanes of an octet and what the vector forms compute from octet values (R122, R133 to R142).
An octet is a 512-bit number whose byte b is octet byte b. -/

namespace Sys2Proof.Machine

/-- Bits of an integer lane (R56). -/
def ityBits : ITy → Nat
  | .int8 => 8
  | .int16 => 16
  | .int32 => 32
  | .uint8 => 8
  | .uint16 => 16

/-- Is the integer lane type signed. -/
def itySigned : ITy → Bool
  | .int8 => true
  | .int16 => true
  | .int32 => true
  | .uint8 => false
  | .uint16 => false

/-- Bits of a float lane. -/
def ftyBits : FTy → Nat
  | .fp16 => 16
  | .bf16 => 16
  | .fp32 => 32

/-- Bits of a lane. -/
def ltyBits : LTy → Nat
  | .int t => ityBits t
  | .flt t => ftyBits t

/-- Lanes of an octet (R56). -/
def ltyLanes (t : LTy) : Nat := 512 / ltyBits t

/-- The lowest and the highest value of an integer lane type. -/
def ityLo (t : ITy) : Int := if itySigned t then -((2 : Int) ^ (ityBits t - 1)) else 0
def ityHi (t : ITy) : Int := if itySigned t then (2 : Int) ^ (ityBits t - 1) - 1 else (2 : Int) ^ ityBits t - 1

/-- Lane i of n bits. -/
def lane (n : Nat) (v : Nat) (i : Nat) : Nat := v / 2 ^ (n * i) % 2 ^ n

/-- The octet whose lane i is f i, for i < L. -/
def buildLanes (n : Nat) (f : Nat → Nat) : Nat → Nat
  | 0 => 0
  | k + 1 => buildLanes n f k + f k % 2 ^ n * 2 ^ (n * k)

/-- The OR of the flags of lanes 0 … L − 1 (R125). -/
def joinFlags (f : Nat → Flags) : Nat → Flags
  | 0 => .none
  | k + 1 => (joinFlags f k).join (f k)

/-- Lanes with flags. -/
def buildFlanes (n L : Nat) (f : Nat → Nat × Flags) : Nat × Flags :=
  (buildLanes n (fun i => (f i).1) L, joinFlags (fun i => (f i).2) L)

/-- v(x) of R133: a lane's bits as its type reads them. -/
def laneVal (t : ITy) (x : Nat) : Int := if itySigned t then sextInt x (ityBits t) else (x : Int)

/-- Half, ties to even (VAVG). -/
def halfEven (r : Int) : Int :=
  let q := r / 2
  if r % 2 = 0 then q else if q % 2 = 0 then q else q + 1

/-- The forms of OP 0x20 (R134). -/
inductive VArith | add | sub | mul | mad | min | max | absd | avg
  deriving DecidableEq, Repr

/-- r of R134. -/
def vArithVal (f : VArith) (d s t : Int) : Int :=
  match f with
  | .add => s + t
  | .sub => s - t
  | .mul => s * t
  | .mad => d + s * t
  | .min => if s < t then s else t
  | .max => if t < s then s else t
  | .absd => ((s - t).natAbs : Int)
  | .avg => halfEven (s + t)

/-- One octet of OP 0x20. -/
def vArith (f : VArith) (ty : ITy) (sat : Bool) (d s t : Nat) : Nat :=
  let n := ityBits ty
  buildLanes n (fun i =>
    let r := vArithVal f (laneVal ty (lane n d i)) (laneVal ty (lane n s i)) (laneVal ty (lane n t i))
    toBits n (if sat then satInt r (ityLo ty) (ityHi ty) else r)) (512 / n)

/-- The forms of OP 0x21 (R135). -/
inductive VLogic | and | or | xor | andn | shl | shr | sar | popc
  deriving DecidableEq, Repr

/-- One octet of OP 0x21. -/
def vLogic (f : VLogic) (ty : ITy) (s t : Nat) : Nat :=
  let n := ityBits ty
  buildLanes n (fun i =>
    let a := lane n s i
    let k := lane n t i
    match f with
    | .and => a &&& k
    | .or => a ||| k
    | .xor => a ^^^ k
    | .andn => a &&& (2 ^ n - 1 - k)
    | .shl => if n ≤ k then 0 else a * 2 ^ k
    | .shr => if n ≤ k then 0 else a / 2 ^ k
    | .sar => toBits n (sextInt a n / (2 : Int) ^ (Nat.min k (n - 1)))
    | .popc => popN n a) (512 / n)

/-- The forms of OP 0x22 (R136). -/
inductive VFloat | add | sub | mul | fma | min | max | exp2 | rcp
  deriving DecidableEq, Repr

/-- The scalar rule of one lane. -/
def vFloatLane (f : VFloat) (m : Fmt) (d s t : Nat) : Nat × Flags :=
  match f with
  | .add => fAdd m s t
  | .sub => fSub m s t
  | .mul => fMul m s t
  | .fma => fFma m s t d
  | .min => fMin m s t
  | .max => fMax m s t
  | .exp2 => fExp2 m s
  | .rcp => fRcp m s

/-- One octet of OP 0x22. -/
def vFloat (f : VFloat) (ty : FTy) (d s t : Nat) : Nat × Flags :=
  let n := ftyBits ty
  buildFlanes n (512 / n) (fun i => vFloatLane f (fmtOf ty) (lane n d i) (lane n s i) (lane n t i))

/-- The conditions of R98 by their code. -/
def condOf (cc : Nat) : Cond :=
  match cc with
  | 0 => .eq
  | 1 => .ne
  | 2 => .lt
  | 3 => .le
  | 4 => .ltu
  | 5 => .leu
  | _ => .tst

/-- All ones or all zeros. -/
def maskLane (n : Nat) (b : Bool) : Nat := if b then 2 ^ n - 1 else 0

/-- VCMP (R137). -/
def vCmp (ty : ITy) (cc : Nat) (s t : Nat) : Nat :=
  let n := ityBits ty
  buildLanes n (fun i =>
    let a := lane n s i
    let b := lane n t i
    maskLane n (condHolds (condOf cc) a b (sextInt a n) (sextInt b n))) (512 / n)

/-- VFCMP (R137). -/
def vFcmp (ty : FTy) (cc : Nat) (s t : Nat) : Nat × Flags :=
  let n := ftyBits ty
  buildFlanes n (512 / n) (fun i =>
    let c := fCond (fmtOf ty) cc (lane n s i) (lane n t i)
    (maskLane n c.1, c.2))

/-- VSEL (R137): bit n − 1 of the mask lane. -/
def vSel (ty : LTy) (s t m : Nat) : Nat :=
  let n := ltyBits ty
  buildLanes n (fun i => if lane n m i / 2 ^ (n - 1) % 2 = 1 then lane n s i else lane n t i) (512 / n)

/-- VBCAST. -/
def vBcast (ty : LTy) (s : Word) : Nat :=
  buildLanes (ltyBits ty) (fun _ => s.toNat) (ltyLanes ty)

/-- VEXT: sign-extended for INT types only (R137). -/
def vExt (ty : LTy) (s : Nat) (k : Nat) : Word :=
  let n := ltyBits ty
  match ty with
  | .int t => if itySigned t then narrow 64 (sextInt (lane n s k) n) else narrowN 64 (lane n s k)
  | .flt _ => narrowN 64 (lane n s k)

/-- VINS. -/
def vIns (ty : LTy) (d : Nat) (s : Word) (k : Nat) : Nat :=
  let n := ltyBits ty
  buildLanes n (fun i => if i = k then s.toNat else lane n d i) (512 / n)

/-- VPERM (R138). -/
def vPerm (ty : LTy) (s t : Nat) : Nat :=
  let n := ltyBits ty
  let L := 512 / n
  buildLanes n (fun i => let k := lane n t i; if k < L then lane n s k else 0) L

/-- VSHUF (R139). -/
def vShuf (ty : LTy) (op k : Nat) (s : Nat) : Nat :=
  let n := ltyBits ty
  let L := 512 / n
  buildLanes n (fun i =>
    match op with
    | 0 => lane n s ((i + k) % L)
    | 1 => lane n s (i ^^^ (2 ^ k - 1))
    | 2 => lane n s (i ^^^ k)
    | 3 => lane n s k
    | 4 => if k ≤ i then lane n s (i - k) else 0
    | _ => if i + k < L then lane n s (i + k) else 0) L

/-- Sum, maximum and minimum of integer lanes (R140). -/
def foldInt (f : Int → Int → Int) (g : Nat → Int) : Nat → Int
  | 0 => g 0
  | k + 1 => f (foldInt f g k) (g (k + 1))

/-- The integer reductions. -/
inductive VRed | add | max | min
  deriving DecidableEq, Repr

/-- The 64-bit result of an integer reduction, extended by the lane type's sign. -/
def vRed (f : VRed) (ty : ITy) (s : Nat) : Word :=
  let n := ityBits ty
  let g := fun i => laneVal ty (lane n s i)
  narrow 64 (foldInt (fun a b =>
    match f with
    | .add => a + b
    | .max => if a < b then b else a
    | .min => if b < a then b else a) g (512 / n - 1))

/-- One level of a pairwise tree (R31, R140). -/
def treeLevel (op : Nat → Nat → Nat × Flags) : List Nat → List Nat × Flags
  | a :: b :: r =>
    let x := op a b
    let y := treeLevel op r
    (x.1 :: y.1, x.2.join y.2)
  | l => (l, .none)

/-- The whole tree: `fuel` levels. -/
def treeFold (op : Nat → Nat → Nat × Flags) : Nat → List Nat → Nat × Flags
  | 0, l => (l.headD 0, .none)
  | k + 1, l =>
    let x := treeLevel op l
    let y := treeFold op k x.1
    (y.1, x.2.join y.2)

/-- The lanes of an octet as a list. -/
def lanesOf (n : Nat) (v : Nat) : List Nat := (List.range (512 / n)).map (lane n v)

/-- VFREDADD (R140). -/
def vFredAdd (ty : FTy) (s : Nat) : Nat × Flags :=
  let n := ftyBits ty
  treeFold (fAdd (fmtOf ty)) (Nat.log2 (512 / n)) (lanesOf n s)

/-- VFREDMAX (R140). -/
def vFredMax (ty : FTy) (s : Nat) : Nat × Flags :=
  let n := ftyBits ty
  treeFold (fMax (fmtOf ty)) (Nat.log2 (512 / n)) (lanesOf n s)

/-- One lane converted (R141, R24). -/
def convLane (src dst : LTy) (sat : Bool) (x : Nat) : Nat × Flags :=
  match src, dst with
  | .int a, .int b =>
    let v := laneVal a x
    (toBits (ityBits b) (if sat then satInt v (ityLo b) (ityHi b) else v), .none)
  | .int a, .flt b => (fmtOf b).enc sat (.ofInt (laneVal a x))
  | .flt a, .int b =>
    let r := ((fmtOf a).val x).toIntSat (ityLo b) (ityHi b)
    (toBits (ityBits b) r.1, r.2)
  | .flt a, .flt b => (fmtOf b).enc sat ((fmtOf a).val x)

/-- VCVT (R141). -/
def vCvt (src dst : LTy) (sat : Bool) (s : Nat) : Nat × Flags :=
  let m := Nat.min (ltyLanes src) (ltyLanes dst)
  buildFlanes (ltyBits dst) (ltyLanes dst) (fun i =>
    if i < m then convLane src dst sat (lane (ltyBits src) s i) else (0, .none))

/-- A transposition (R142): word p of the result holds bit p of each of `m` items of `n` bits at its bit i. -/
def transpose (n m : Nat) (v : Nat) : Nat :=
  buildLanes m (fun p => buildLanes 1 (fun i => lane n v i / 2 ^ p % 2) m) n

/-- Range and width of the integer type field of CVTIF and CVTFI (R66). -/
def ctyBits : CTy → Nat
  | .int8 => 8
  | .int16 => 16
  | .int32 => 32
  | .uint8 => 8
  | .uint16 => 16
  | .int64 => 64
  | .uint32 => 32
  | .uint64 => 64

/-- Is it signed. -/
def ctySigned : CTy → Bool
  | .int8 => true
  | .int16 => true
  | .int32 => true
  | .uint8 => false
  | .uint16 => false
  | .int64 => true
  | .uint32 => false
  | .uint64 => false

/-- CVTIF (R132). -/
def cvtIF (m : Fmt) (t : CTy) (s : Word) : Nat × Flags :=
  m.enc false (.ofInt (if ctySigned t then sview (ctyBits t) s else (uview (ctyBits t) s : Int)))

/-- CVTFI (R132, R121). -/
def cvtFI (m : Fmt) (t : CTy) (s : Word) : Word × Flags :=
  let n := ctyBits t
  let lo : Int := if ctySigned t then -((2 : Int) ^ (n - 1)) else 0
  let hi : Int := if ctySigned t then (2 : Int) ^ (n - 1) - 1 else (2 : Int) ^ n - 1
  let r := (m.val s.toNat).toIntSat lo hi
  (narrow 64 r.1, r.2)

end Sys2Proof.Machine
end

