-- ==== Sys2Proof/Machine/Launch.lean ====
section
/-! DEFINITION. Launch records, launch queues, dependences and completion (R225, R313 to R317, R324, R381). -/

namespace Sys2Proof.Machine

/-! ## Statuses (R118, R324) -/

inductive LStatus
  | ok | cfgFrame | cfgHdr | cfgNode | cfgReq | lrec | levels | hash | resident | depfail | deadlock | killed | nofit | readfail
  deriving DecidableEq, Repr
def LStatus.num : LStatus → Nat
  | .ok => 0
  | .cfgFrame => 1
  | .cfgHdr => 2
  | .cfgNode => 3
  | .cfgReq => 6
  | .lrec => 16
  | .levels => 17
  | .hash => 18
  | .resident => 19
  | .depfail => 20
  | .deadlock => 21
  | .killed => 22
  | .nofit => 23
  | .readfail => 24

/-! ## The record (R313, R315) -/

def bytesZero (b : List Byte) (off n : Nat) : Bool := ((b.drop off).take n).all (fun x => x == 0)
def byteAt (b : List Byte) (i : Nat) : Nat := (b.getD i 0).toNat

def readLevel (b : List Byte) (n : Nat) : Level :=
  let v := leField b (0x40 + 8 * n) 8
  { count := v % 2 ^ 16, domain := v / 2 ^ 16 % 8, scope := v / 2 ^ 24 % 8 }
/-- Bits of a level's eight bytes that are zero. -/
def levelClean (b : List Byte) (n used : Nat) : Bool :=
  let v := leField b (0x40 + 8 * n) 8
  if n < used then decide (v = v % 2 ^ 19 + v / 2 ^ 24 % 8 * 2 ^ 24) else decide (v = 0)

/-- The checks that end a record with LREC. -/
def recordOk (b : List Byte) : Bool :=
  let nlev := byteAt b 6
  let ndep := byteAt b 7
  decide (b.length = 256) && decide (byteAt b 0 = 0x4C) && decide (byteAt b 1 = 1) && decide (byteAt b 2 ≤ 3) && decide (byteAt b 3 ≤ 3) &&
  decide (leField b 4 2 < 16) && decide (1 ≤ nlev) && decide (nlev ≤ 8) && decide (ndep ≤ 4) &&
  decide (leField b 0x28 8 % 64 = 0) && decide (leField b 0x94 2 ≤ 4096) && bytesZero b 0x96 2 &&
  decide (leField b 0x98 8 % 64 = 0) && (decide (leField b 0x94 2 ≠ 0) || decide (leField b 0x98 8 = 0)) &&
  (List.range 4).all (fun i => decide (leField b (0xA0 + 8 * i) 8 % 64 = 0)) && bytesZero b 0xC0 64 &&
  (List.range 8).all (fun n => levelClean b n nlev) &&
  (List.range 4).all (fun i => decide (i < ndep) || decide (leField b (0x80 + 4 * i) 4 = 0))

/-- The launch that a record describes. -/
def readLaunch (ctx lid : Nat) (b : List Byte) : Launch :=
  let flags := leField b 4 2
  { lid := lid, ctx := ctx, cls := byteAt b 2, queue := byteAt b 3, record := flags.testBit 0, replay := flags.testBit 1
    shpw := flags.testBit 2, reshape := flags.testBit 3
    levels := (List.range (byteAt b 6)).map (readLevel b)
    deps := (List.range (byteAt b 7)).map (fun i => leField b (0x80 + 4 * i) 4)
    cevid := leField b 0x90 4, ghash := (b.drop 8).take 32, imgp := leField b 0x28 8, imglen := leField b 0x30 4
    quant := leField b 0x34 4, argp := BitVec.ofNat 64 (leField b 0x38 8)
    shapes := (List.range 4).map (fun i => leField b (0xA0 + 8 * i) 8), devs := [], st := .queued, age := none, bypass := 0
    saves := 0, admitted := none, held := none, cfg := [], image := [], insts := [], reserved := []
    devAddr := leField b 0x98 8
    devp := if leField b 0x94 2 = 0 then none else some (leField b 0x94 2, leField b 0x98 8) }

/-! ## Levels (R225, R315, R381) -/

/-- Tiles of one instance of a domain; a device for DEVICE and wider. -/
def domainTiles (d : Nat) : Nat := if d = 2 then 4 else if d = 3 then 16 else if d = 4 then 256 else if 5 ≤ d then 1024 else 1

-- DEDUCED, log 73 (unsafe).
/-- Room for siblings: the parent of level 0 is a stack, or the device for STACK. A plane holds one plane; the other counts of
wide domains have their own rules. -/
def roomOk (parent : Option Nat) (l : Level) : Bool :=
  if l.domain = 6 ∧ parent = some 6 then decide (l.count ≤ 1)
  else if l.domain = 0 ∨ 5 ≤ l.domain then true
  else
    let up := match parent with | some d => domainTiles d | none => if l.domain = 4 then 1024 else 256
    decide (l.count ≤ up / domainTiles l.domain)

def levelsFrom (parent : Option Nat) : List Level → Bool
  | [] => true
  | l :: r =>
    decide (1 ≤ l.count) && roomOk parent l && (decide (l.domain ≠ 7) || decide (l.count = 1)) &&
    (match parent with
     | some d => decide (l.domain ≤ d) && decide (d ≤ l.scope)
     | none => if l.count = 1 then decide (l.domain ≤ l.scope) else decide (l.domain < l.scope)) &&
    levelsFrom (some l.domain) r

/-- The level rules that the record alone decides; `ndev` is NDEV. -/
def levelsOk (l : List Level) (ndev : Nat) : Bool :=
  let devs := l.filter (fun x => decide (x.domain = 5))
  let planes := l.any (fun x => decide (x.domain = 6))
  levelsFrom none l &&
  decide (((l.filter (fun x => decide (x.domain = 0))).map (fun x => x.count)).foldl (· * ·) 1 ≤ 65536) &&
  (match devs with
   | [] => decide (ndev = 0)
   | [d] => decide (ndev ≠ 0) && (planes || decide (d.count = ndev))
   | _ => false)

/-- The number of tags (R226). -/
def tagCount (l : List Level) : Nat := ((l.filter (fun x => decide (x.domain = 0))).map (fun x => x.count)).foldl (· * ·) 1

/-- The device's place in the list (R381): once. -/
def devListOk (dev : Nat) (l : List Nat) : Bool := decide ((l.filter (fun d => decide (d = dev))).length = 1)

/-- Planes on which a context holds a valid binding, ascending. -/
def boundPlanes (s : State) (c : Nat) : List Nat := (List.range 8).filter (fun n => (tabGet 0 (s.ctx c).binds n).getLsbD 63)

/-- Devices in the group of a context's binding on a plane, as this device's record of the plane has them (R350). -/
def groupDevs (s : State) (c n : Nat) : List Nat :=
  let gid := bitsNat (tabGet 0 (s.ctx c).binds n).toNat 55 48
  (((tabGet {} s.planes n).groups.filter (fun g => decide (g.1 = gid))).map (fun g => g.2)).eraseDups

/-- The checks of every PLANE level, and of a DEVICE level beneath one, at eligibility (R225, R315). -/
def planeLevelsOk (s : State) (l : Launch) : Bool :=
  let planes := boundPlanes s l.ctx
  let levels := l.levels.filter (fun x => decide (x.domain = 6))
  levels.all (fun p => decide (p.count = planes.length)) &&
  (levels.isEmpty || (l.levels.filter (fun x => decide (x.domain = 5))).all (fun d =>
    planes.all (fun n => decide (d.count = (l.devs.filter (fun x => (groupDevs s l.ctx n).contains x)).length))))

/-! ## Completion (R324) -/

def launchRecord (s : State) (ctx lid cevid status saves runc stk : Nat) : Nat :=
  recHeader s 6 0 { tile := { stk := stk, x := 0, y := 0 }, entry := none, ctx := ctx } + fld 8 4 lid + fld 0x0C 4 cevid +
  fld 0x10 1 status + fld 0x11 1 (Nat.min saves 255) + fld 0x18 8 runc

/-- A completion enters the table of the last 256 (R317), and its record goes out. -/
def postCompletion (s : State) (ctx lid cevid saves : Nat) (admitted : Option Nat) (st : LStatus) : State :=
  let x := s.ctx ctx
  let l := x.done ++ [(cevid, st.num)]
  let s := s.setCtx ctx { x with done := l.drop (l.length - 256) }
  let runc := match admitted with | some a => s.cyc 0 - a | none => 0
  s.post (.ev ctx) (launchRecord s ctx lid cevid st.num saves runc 0)

-- DEDUCED, log 150 (safe).
/-- Every queue of a context looks at its head again. -/
def retryQueues (s : State) (ctx : Nat) : State := s.laterAll ((List.range 4).map (fun q => Act.launchEligible ctx q))

/-- The queue entry of a launch is freed; the next record becomes the head. -/
def leaveQueue (s : State) (l : Launch) : State :=
  let x := s.ctx l.ctx
  s.setCtx l.ctx { x with queues := tabSet x.queues l.queue ((tabGet [] x.queues l.queue).filter (fun i => i != l.lid)) }

/-- LAUNCH_DONE (R324): the launch is gone, and dependences are looked at. -/
def completeLaunch (s : State) (l : Launch) (st : LStatus) : State :=
  let s := leaveQueue s l
  let s := { s with launches := s.launches.filter (fun x => !(decide (x.ctx = l.ctx) && decide (x.lid = l.lid))) }
  (retryQueues (postCompletion s l.ctx l.lid l.cevid l.saves l.admitted st) l.ctx).later .arbitrationPass

/-! ## Reading for a launch (R315) -/

/-- A read at the homes for a launch. -/
inductive LaunchRead
  | got (b : List Byte) (s : State)
  | wait (s : State)
  | fail (s : State)

/-- A fault of a launch's read is recorded with COURSE NONE (R315). -/
def readFault (s : State) (ctx : Nat) (e : FInfo) : State :=
  postNodeFault s { stk := 0, x := 0, y := 0 } ctx { e with pull := e.pull } 0 0 .none

-- DEDUCED, log 71 (unsafe).
def launchRead (s : State) (l : Launch) (va n : Nat) : LaunchRead :=
  match engRead .host 0 l.ctx 0 l.lines (n / 128 + 2) s va n [] with
  | .got b s => .got b s
  | .fail e => .fail (readFault s l.ctx e)
  | .ask va key s =>
    if l.asked.any (fun q => q.2 == key) then .wait s
    else if routed s 0 (awayDev key) then
      let (rid, s) := sendRemote s 0 l.ctx va key (.launch l.ctx l.lid) { req := { blankReq with kind := .load, size := 128 } } none
      .wait (s.setLaunch { l with asked := (rid, key) :: l.asked })
    else .fail (readFault s l.ctx (fabricInfo s va AccKind.host.num l.ctx (awayDev key) none))

/-- u16 device numbers. -/
def deviceNumbers (b : List Byte) : Nat → List Nat
  | 0 => []
  | n + 1 => deviceNumbers b n ++ [leField b (2 * n) 2]

/-! ## Entering a queue (R315, R316) -/

def queueLen (s : State) (ctx q : Nat) : Nat := (tabGet [] (s.ctx ctx).queues q).length

/-- The device list of a launch is read and checked (R381). -/
def takeDevices (s : State) (l : Launch) : State :=
  match l.devp with
  | none => s
  | some (n, p) =>
    match launchRead s l p (2 * n) with
    | .wait s => s
    | .fail s => completeLaunch s l .readfail
    | .got b s =>
      let d := deviceNumbers b n
      let l := { l with devp := none, devs := d, lines := [], asked := [] }
      let s := s.setLaunch l
      if devListOk s.dev d then s.later (.launchEligible l.ctx l.queue) else completeLaunch s l .levels

/-- LAUNCH_CHECK (R315): a record enters its queue, or completes at once. -/
def submitLaunch (s : State) (ctx lid : Nat) (b : List Byte) : State :=
  let l := readLaunch ctx lid b
  if !recordOk b then postCompletion s ctx lid l.cevid 0 none .lrec
  else if !levelsOk l.levels (leField b 0x94 2) then postCompletion s ctx lid l.cevid 0 none .levels
  else
    let x := s.ctx ctx
    let s := s.setCtx ctx { x with queues := tabSet x.queues l.queue (tabGet [] x.queues l.queue ++ [lid]) }
    let s := { s with launches := s.launches ++ [l] }
    if l.devp.isSome then takeDevices s l else s.later (.launchEligible ctx l.queue)

/-- A LAUNCH form's record has room in its queue (R316). -/
def launchRoom (s : State) (ctx : Nat) (b : List Byte) : Bool := !recordOk b || decide (queueLen s ctx (byteAt b 3) < 64)

/-- A context's endpoint takes launches: its event queue is enabled (R420) and the host port is open (R421). -/
def hostOpen (s : State) (ctx : Nat) : Bool :=
  (s.ctx ctx).part.isSome && (s.ctx ctx).evq.en && s.devid.getLsbD 12 && decide (s.boot = .running)

/-- A host launch enters its queue under the next launch id; a recording launch of the context logs it (R407). None where the queue or
the log has no room. -/
def enterLaunch (s : State) (ctx : Nat) (b : List Byte) : Option State :=
  let x := s.ctx ctx
  let id := x.nextLid % 2 ^ 32
  let e : LogEntry := { kind := 4, src := 0, obj := byteAt b 3 + id * 4, val := 0 }
  if !launchRoom s ctx b then none
  else (if s.launches.any (fun l => decide (l.ctx = ctx) && l.record) then appendLog s (x.part.getD 0) 0 e b else some s).map
    (fun s => submitLaunch (s.setCtx ctx { s.ctx ctx with nextLid := x.nextLid + 1 }) ctx id b)

-- DESIGN CHOICE, log 173 (unsafe).
/-- Host launches that wait in the transport enter in the order of their sends; the endpoint of a disabled queue refuses them. -/
def takeInbox (ctx : Nat) : Nat → State → State
  | 0, s => s
  | n + 1, s =>
    match (s.ctx ctx).inbox with
    | [] => s
    | b :: r =>
      let drop := fun (s : State) => s.setCtx ctx { s.ctx ctx with inbox := r }
      if !hostOpen s ctx then takeInbox ctx n ((drop s).send (.host ctx 1 []))
      else
        match enterLaunch s ctx b with
        | some s => takeInbox ctx n (drop s)
        | none => s

-- DEDUCED, log 72 (unsafe).
/-- HOST_LAUNCH (R316, R416): a host send at a context's endpoint. It is refused where the endpoint takes no launches, and waits in the
transport while its queue is full. -/
def hostLaunch (ctx : Nat) (b : List Byte) (s : State) : State :=
  if !hostOpen s ctx then s.send (.host ctx 1 [])
  else
    let x := s.ctx ctx
    takeInbox ctx (x.inbox.length + 1) (s.setCtx ctx { x with inbox := x.inbox ++ [b] })
def execHostLaunch (ctx : Nat) (rec : List Byte) (s : State) : Outcome := .next (hostLaunch ctx rec s)

/-! ## Eligibility (R317) -/

/-- What the completions say of a launch's dependences. -/
inductive DepState | met | waiting | failed
  deriving DecidableEq, Repr
def depState (x : Ctx) : List Nat → DepState
  | [] => .met
  | d :: r =>
    match (if d = 0 then none else (x.done.filter (fun p => decide (p.1 = d))).getLast?) with
    | none => (match depState x r with | .failed => .failed | _ => .waiting)
    | some (_, st) => if st = 0 then depState x r else .failed

/-- LAUNCH_ELIGIBLE (R315, R317): the head of a queue; its image is read once its dependences are met. -/
def eligible (ctx q : Nat) (s : State) : State :=
  let s := takeInbox ctx (s.ctx ctx).inbox.length s
  let x := s.ctx ctx
  match (tabGet [] x.queues q).head? with
  | none => s
  | some lid =>
    match s.launch? ctx lid with
    | none => s
    | some l =>
      if l.st ≠ .queued then s
      else if l.devp.isSome then takeDevices s l
      else
        match depState x l.deps with
        | .failed => completeLaunch s l .depfail
        | .waiting => s
        | .met =>
          if !x.enabled then s
          else
            let l := { l with age := some (l.age.getD (s.cyc 0)) }
            match launchRead (s.setLaunch l) l l.imgp l.imglen with
            | .wait s => s
            | .fail s => completeLaunch s l .readfail
            | .got b s =>
              (s.setLaunch { l with st := .eligible, lines := [], asked := [] }).later (.utundPlace lid ctx b)
def execLaunchEligible (ctx queue : Nat) (s : State) : Outcome := .next (eligible ctx queue s)

end Sys2Proof.Machine
end

