-- ==== Sys2Proof/Machine/Planes.lean ====
section
/-! DEFINITION. Kennil planes: the forms of OP 0x33 (R168 to R173), bindings and groups (R350, R380), the grant and its
order (R348, R351), deliveries, gaps and repair (R349, R393 to R395), REPOINT as a member takes it (R375). -/

namespace Sys2Proof.Machine

/-! ## Bindings (R350) -/

def State.binding (s : State) (c n : Nat) : Nat := (tabGet 0 (s.ctx c).binds n).toNat
def bindV (b : Nat) : Bool := b.testBit 63
def bindGid (b : Nat) : Nat := bitsNat b 55 48
def bindFwd (b : Nat) : Nat := b % 2 ^ 39

def State.plane (s : State) (n : Nat) : Plane := tabGet {} s.planes n
def State.setPlane (s : State) (n : Nat) (p : Plane) : State := { s with planes := tabSet s.planes n p }

/-- Contexts of this device bound to a group of a plane. -/
def boundCtxs (s : State) (n gid : Nat) : List Nat :=
  (s.ctxs.filter (fun c => bindV (s.binding c.1 n) && decide (bindGid (s.binding c.1 n) = gid))).map (fun c => c.1)

/-- KC[key] of a binding. -/
def kcKey (n key : Nat) : Nat := n * 16 + key
def State.kc (s : State) (c n key : Nat) : BitVec 32 := tabGet 0 (s.ctx c).kc (kcKey n key)

/-- The write of V from 0 to 1 clears a binding's counters and accumulators (R380). -/
def resetBinding (x : Ctx) (n : Nat) : Ctx :=
  { x with kc := x.kc.filter (fun p => decide (p.1 / 16 ≠ n)), cidx := tabDel x.cidx n
           colls := x.colls.filter (fun a => decide (a.plane ≠ n)) }

/-! ## Records of links and planes (R403) -/

structure LinkEv where
  plane : Bool
  n     : Nat
  rx    : Bool := true
  kind  : Nat
  lost  : Nat := 0
  live  : Nat := 0
  groups : Nat := 0
  data  : Nat := 0
  epoch : Nat := 0
  replayed : Nat := 0
  cyc   : Nat := 0
  done  : Nat := 0
  lsn   : Nat := 0
  peer  : Nat := 0
  stk   : Nat := 0
  deriving DecidableEq, Repr
def LinkEv.body (s : State) (e : LinkEv) : Nat :=
  recHeader s 7 0 { tile := if e.plane then { stk := e.stk, x := 0, y := 0 } else exitAt e.stk (4 + e.n), entry := none, ctx := 0 } + fld 8 8 e.cyc +
  fld 0x10 2 (e.n % 128 + (if e.plane then 2 ^ 15 else 0)) + fld 0x12 1 e.rx.toNat + fld 0x13 1 e.kind + fld 0x14 2 e.lost +
  fld 0x16 2 e.live + fld 0x18 1 e.groups + fld 0x19 1 e.data + fld 0x1A 1 e.epoch + fld 0x1C 4 e.replayed +
  fld 0x20 8 e.done + fld 0x28 2 e.lsn + fld 0x30 2 e.peer
-- DEDUCED, log 65 (unsafe).
def postLinkEv (s : State) (e : LinkEv) : State := s.post .mg (e.body s)

/-! ## Sending (R348, R351, R394) -/

def ringIndex (p : Plane) (dev : Nat) : Nat := (p.ring.findIdx? (fun d => d == dev)).getD 0
def inRing (p : Plane) (dev : Nat) : Bool := p.up && p.ring.contains dev

/-- The 128 header bits of a flit (R393). -/
def flitHeader (f : PFlit) : BitVec 128 :=
  f.src ++ f.gid ++ f.key ++ f.mtype ++ f.cidx ++ f.n ++ f.lty ++ f.op ++ 0#8 ++ f.pos
/-- The 672 bits of a flit (R393): header, payload and their parity as in a token (R35), with the trailer above. -/
def flitWord (f : PFlit) : BitVec 672 :=
  let b : BitVec 640 := f.payload ++ flitHeader f
  BitVec.ofBool f.resent ++ 0#9 ++ f.ring ++ BitVec.ofNat 16 (parityBits b.toNat 16) ++ b
/-- The flit that 672 bits hold; none where a parity group fails. -/
def flitOfWord (w : BitVec 672) : Option PFlit :=
  if BitVec.ofNat 16 (parityBits (w.extractLsb' 0 640).toNat 16) ≠ w.extractLsb' 640 16 then none
  else
    some { src := w.extractLsb' 116 12, gid := w.extractLsb' 108 8, key := w.extractLsb' 104 4, mtype := w.extractLsb' 100 4
           cidx := w.extractLsb' 84 16, n := w.extractLsb' 77 7, lty := w.extractLsb' 74 3, op := w.extractLsb' 72 2, pos := w.extractLsb' 0 64
           payload := w.extractLsb' 128 512, ring := w.extractLsb' 656 6, resent := w.getLsbD 671 }
/-- A flit of this member. -/
def State.flitOf (s : State) (n mtype gid : Nat) (payload : BitVec 512) : PFlit :=
  { src := BitVec.ofNat 12 s.dev, gid := BitVec.ofNat 8 gid, key := 0, mtype := BitVec.ofNat 4 mtype, cidx := 0, n := 0
    lty := 0, op := 0, pos := 0, payload := payload, ring := BitVec.ofNat 6 (ringIndex (s.plane n) s.dev), resent := false }

/-- A flit leaves on the plane; a message comes back to this member by the star coupler. -/
def sendFlit (s : State) (n : Nat) (f : PFlit) (message : Bool) : State :=
  let s := s.send (.planeFlit n (flitWord f))
  if message then s.later (.planeDelivery n (flitWord f)) else s

/-- This member's messages, numbered from one past a position. -/
def sendMessages (n : Nat) : List (Nat × PFlit) → Nat → State → State × Nat
  | [], pos, s => (s, pos)
  | (m, f) :: l, pos, s =>
    let f := { f with pos := BitVec.ofNat 64 (pos + 1) }
    let p := s.plane n
    let s := s.setPlane n { p with flying := p.flying ++ [(m, pos + 1)], history := (p.history ++ [f]).drop (p.history.length - 1023) }
    sendMessages n l (pos + 1) (sendFlit s n f true)

/-- The bytes of a REPOINT message (R375), whose places the spec does not give. -/
def repointBits (r : Repoint) : Nat :=
  fld 0 2 r.sdev + fld 2 1 r.sstk + fld 3 2 r.sctx + fld 5 2 r.ddev + fld 7 1 r.dstk + fld 8 2 r.dctx
def repointOf (b : Nat) : Repoint :=
  let g := fun off size => b / 2 ^ (8 * off) % 2 ^ (8 * size)
  { sdev := g 0 2, sstk := g 2 1, sctx := g 3 2, ddev := g 5 2, dstk := g 7 1, dctx := g 8 2 }

/-- Older accesses of this device to the source of a REPOINT have completed. -/
def olderDone (s : State) (r : Repoint) : Bool :=
  !s.remote.any (fun q => isAway q.key && decide (awayDev q.key = r.sdev) && decide (awayStk q.key = r.sstk) && decide (awayCtx q.key = r.sctx))

/-- The holder's turn: a repair request first, resends of its own messages, leaves of silent members, at most 16
messages in all, then the grant flit naming the next member (R348, R394). `pos` is the last position sent before. -/
def holdGrant (s : State) (n pos : Nat) : State :=
  let p := s.plane n
  let me := ringIndex p s.dev
  let s := match p.gapLast with
    | some l => if p.gseq.toNat < l then
        sendFlit s n { s.flitOf n 7 0 (BitVec.ofNat 512 (l % 2 ^ 64)) with pos := p.gseq + 1 } false
      else s
    | none => s
  let again := p.history.filter (fun f => p.repairs.any (fun r => decide (r.1 ≤ f.pos.toNat) && decide (f.pos.toNat ≤ r.2)))
  let now := again.take 16
  let s := now.foldl (fun s f => sendFlit s n { f with resent := true } false) s
  let s := s.setPlane n { s.plane n with repairs := (again.drop 16).map (fun f => (f.pos.toNat, f.pos.toNat)) }
  let leaves : List (Nat × PFlit) := p.silent.map (fun d => (0, s.flitOf n 4 0 (BitVec.ofNat 512 d)))
  let p := s.plane n
  let room := 16 - now.length
  let msgs := (leaves ++ p.queue).take room
  let s := s.setPlane n { p with silent := p.silent.drop room, queue := p.queue.drop (room - leaves.length) }
  let (s, last) := sendMessages n msgs pos s
  let p := s.plane n
  let ready := p.packs.filter (olderDone s)
  let s := ready.foldl (fun s r => sendFlit s n (s.flitOf n 6 0 (BitVec.ofNat 512 (repointBits r))) false) s
  let nextI := if p.ring.length = 0 then 0 else (me + 1) % p.ring.length
  let g := { s.flitOf n 2 0 (BitVec.ofNat 512 nextI) with pos := BitVec.ofNat 64 last }
  let s := s.setPlane n { s.plane n with holder := nextI, packs := (s.plane n).packs.filter (fun r => !ready.contains r)
                                         passed := if nextI = me then none else some last, resends := 0 }
  if nextI = me then s
  else (sendFlit s n g false).at_ 0 ((s.stack 0).cyc + 3 * Config.planeHop n) (.grantTimeout n)

/-- The last position that this member knows to be taken: delivered, or its own and on its way. -/
def Plane.lastPos (p : Plane) : Nat := (p.flying.map (fun q => q.2)).foldl Nat.max p.gseq.toNat

-- DESIGN CHOICE, log 61 (safe).
/-- A message is handed to the plane; its local number. A plane with one member sends at once. -/
def handOver (s : State) (n : Nat) (f : PFlit) : Nat × State :=
  let p := s.plane n
  let s := s.setPlane n { p with nextMsg := p.nextMsg + 1, queue := p.queue ++ [(p.nextMsg, f)] }
  (p.nextMsg, if p.up && decide (p.ring.length ≤ 1) then holdGrant s n p.lastPos else s)

/-! ## The forms of OP 0x33 -/

/-- FABRIC of a wait or a post on a plane that this device has left. -/
def planeFabric (s : State) (c : Nat) : FInfo := fabricInfo s 0 0 c s.dev none

/-- A binding is there, else ENGINE: R404 has no sub-code of its own for it. -/
def needBinding (s : State) (c n : Nat) : Ex Unit := unless_ (bindV (s.binding c n)) .engine (subDetail (Config.freeWord s.tick).toNat n)
def needPlane (s : State) (c n : Nat) : Ex Unit :=
  if (s.plane n).up then .ok () else .error (.fault (planeFabric s c))

/-- BPOST (R169). -/
def execBpost (o : BPOSTo) (s : State) : Outcome :=
  issue o.g .boundary always (fun s t f => do
    need f (sl o.d ++ octSlots o.q)
    let c := s.ctxOf f
    let n := o.plane.toNat
    needBinding s c n
    needPlane s c n
    waitFor (!o.rel || relReady s t f)
    let m := { s.flitOf n 0 (bindGid (s.binding c n)) (BitVec.ofNat 512 (f.octet o.q)) with key := o.key }
    let f := { f with committed := true }
    if replaying s f.inst then
      let p := s.plane n
      pure { s := s.setPlane n { p with nextMsg := p.nextMsg + 1 }
             f := { f with pend := f.pend ++ [{ src := .post n p.nextMsg, d := o.d.toNat, n := 1, how := .plane }] } }
    else
      let (k, s) := handOver s n m
      pure { s := s, f := { f with pend := f.pend ++ [{ src := .post n k, d := o.d.toNat, n := 1, how := .plane }] } }) s

/-- The value that ends a BWAIT (R170). -/
def bwaitValue (s : State) (c n key : Nat) (gseq : Bool) (target : Word) : Option Word :=
  if gseq then (if target.toNat ≤ (s.plane n).gseq.toNat then some (s.plane n).gseq else none)
  else
    let k := s.kc c n key
    if (k - target.setWidth 32).toNat < 2 ^ 31 then some (k.setWidth 64) else none

/-- The acquire of a form at PLANE scope. -/
def planeAcquire (s : State) (t : TileId) (f : Firing) (acq : Bool) : State :=
  if acq then acqInvalidate s t.stk (s.ctxOf f) .plane else s

/-- BWAIT (R170). -/
def execBwait (o : BWAITo) (s : State) : Outcome :=
  issue o.g .boundary always (fun s t f => do
    need f (sl o.d ++ sl o.s)
    let c := s.ctxOf f
    let n := o.plane.toNat
    unless_ (o.gseq || bindV (s.binding c n)) .engine (subDetail (Config.freeWord s.tick).toNat n)
    needPlane s c n
    match bwaitValue s c n o.key.toNat o.gseq (f.slot o.s.toNat) with
    | some v => pure { s := planeAcquire s t f o.acq, f := f.setSlot o.d.toNat v }
    | none =>
      pure { s := s
             f := { f with st := .stalled, wait := .bwait o.d n o.key.toNat o.gseq o.acq (f.slot o.s.toNat) }
             moved := true }) s

/-- BSEQ (R171). -/
def execBseq (o : BSEQo) (s : State) : Outcome :=
  issue o.g .boundary always (fun s t f => do
    need f (sl o.d)
    let c := s.ctxOf f
    let n := o.plane.toNat
    let v : Word := if o.sel = 0 then (s.plane n).gseq
      else if o.sel = 1 then (s.kc c n o.key.toNat).setWidth 64
      else (tabGet 0 (s.ctx c).cidx n).setWidth 64
    pure { s := planeAcquire s t f o.acq, f := f.setSlot o.d.toNat v }) s

/-- Indices that count toward the limit of R173. -/
def liveColls (x : Ctx) (n : Nat) : Nat := (x.colls.filter (fun a => decide (a.plane = n) && !a.released)).length

/-- COLL (R172, R173). -/
def execColl (o : COLLo) (s : State) : Outcome :=
  issue o.g .boundary always (fun s t f => do
    need f (octSlots o.d ++ octSlots o.s ++ sl o.t)
    let c := s.ctxOf f
    let n := o.plane.toNat
    let cnt := (f.slot o.t.toNat).toNat
    needBinding s c n
    unless_ (decide (1 ≤ cnt) && decide (cnt ≤ 64)) .engine (subDetail (Config.freeWord s.tick).toNat cnt)
    needPlane s c n
    waitFor (decide (liveColls (s.ctx c) n < 8))
    waitFor (!o.rel || relReady s t f)
    let x := s.ctx c
    let i := tabGet 0 x.cidx n
    let m := { s.flitOf n 1 (bindGid (s.binding c n)) (BitVec.ofNat 512 (f.octet o.s)) with
      cidx := i, n := BitVec.ofNat 7 cnt, lty := o.ty.code, op := o.op }
    let far := fun (a : CollAcc) => a.released && decide (2 ^ 15 ≤ (i - BitVec.ofNat 16 a.idx).toNat) && decide (a.plane = n)
    let s := s.setCtx c { x with cidx := tabSet x.cidx n (i + 1), colls := x.colls.filter (fun a => !far a) }
    let s := if replaying s f.inst then s else (handOver s n m).2
    pure { s := s, f := { f with committed := true, st := .stalled, wait := .coll o.d n i.toNat o.acq }, moved := true }) s

/-! ## What a delivery does at a binding (R169, R170, R172, R173) -/

/-- Combination lane by lane (R172). -/
def combineLanes (ty : LTy) (op a b : Nat) : Nat × Flags :=
  match ty with
  | .int i => (vArith (if op = 0 then .add else if op = 1 then .max else .min) i false 0 a b, .none)
  | .flt x => vFloat (if op = 0 then .add else if op = 1 then .max else .min) x 0 a b

/-- The tile whose record names a plane. -/
def linkTile : TileId := { stk := 0, x := 0, y := 0 }

/-- KC rises, and the message goes to the node that the binding names (R169). -/
def userAt (s : State) (c n : Nat) (f : PFlit) : State :=
  let x := s.ctx c
  let k := kcKey n f.key.toNat
  let b := s.binding c n
  let s := s.setCtx c { x with kc := tabSet x.kc k (tabGet 0 x.kc k + 1) }
  let fw := bindFwd b
  if fw = 0 then s
  else
    let k := { blankTok with
      dev := BitVec.ofNat 12 (bitsNat fw 38 27), stk := BitVec.ofNat 2 (bitsNat fw 26 25), tx := BitVec.ofNat 5 (bitsNat fw 24 20)
      ty := BitVec.ofNat 4 (bitsNat fw 19 16), node := BitVec.ofNat 10 (bitsNat fw 15 6), port := BitVec.ofNat 4 (bitsNat fw 5 2)
      pri := BitVec.ofNat 2 fw, kind := 5, ctx := BitVec.ofNat 10 c
      tag := BitVec.ofNat 32 (f.src.toNat * 2 ^ 20 + f.key.toNat * 2 ^ 16), payload := f.payload }
    inject s linkTile k false

/-- The firings of a context that wait in a COLL on an index. -/
def collWaiters (s : State) (c n i : Nat) : List (TileId × Firing) :=
  s.tiles.flatMap (fun p => (p.2.firings.filter (fun f =>
    (match f.wait with | .coll _ n' i' _ => decide (n' = n) && decide (i' = i) | _ => false) &&
      decide (s.ctxOf f = c))).map (fun f => (tileOfKey p.1, f)))

/-- A fault taken at the form in which a stalled firing waits. -/
def faultWaiter (s : State) (t : TileId) (f : Firing) (e : FInfo) : State :=
  takeFault s t { f with st := .running, wait := .none } e

def mismatchInfo (i : Nat) : FInfo := engineInfo 6 i

/-- An ENGINE record of a binding, which no firing raises. -/
def collRecord (s : State) (c i : Nat) : State := postNodeFault s linkTile c (mismatchInfo i) 0 0 .none

def setColl (s : State) (c : Nat) (a : CollAcc) : State :=
  let x := s.ctx c
  s.setCtx c { x with colls := x.colls.map (fun b => if b.plane = a.plane ∧ b.idx = a.idx then a else b) }

-- DESIGN CHOICE, log 63 (safe).
/-- Every waiting COLL of a failed index raises ENGINE; the index is then released. -/
def raiseColl (s : State) (c n i : Nat) : State :=
  match collWaiters s c n i with
  | [] => s
  | l =>
    let s := l.foldl (fun s p => faultWaiter s p.1 p.2 (mismatchInfo i)) s
    match (s.ctx c).colls.find? (fun a => decide (a.plane = n) && decide (a.idx = i)) with
    | some a => setColl s c { a with released := true }
    | none => s

/-- A contribution at one binding (R172). -/
def collAt (s : State) (c n : Nat) (f : PFlit) : State :=
  let x := s.ctx c
  let i := f.cidx.toNat
  let ty := ltyOf f.lty
  match x.colls.find? (fun a => decide (a.plane = n) && decide (a.idx = i)) with
  | none =>
    let done := decide (f.n.toNat = 1)
    s.setCtx c { x with colls := x.colls ++ [{ plane := n, idx := i, n := f.n.toNat, ty := ty, op := f.op.toNat, cnt := 1
                                               acc := f.payload, flags := 0, failed := false, complete := done
                                               released := false }] }
  | some a =>
    if a.released || a.complete then collRecord s c i
    else if a.failed then
      let s := collRecord s c i
      if f.src.toNat = s.dev then raiseColl s c n i else s
    else if a.n ≠ f.n.toNat ∨ a.ty ≠ ty ∨ a.op ≠ f.op.toNat then raiseColl (setColl s c { a with failed := true }) c n i
    else
      let r := combineLanes ty a.op a.acc.toNat f.payload.toNat
      setColl s c { a with acc := BitVec.ofNat 512 r.1, flags := a.flags ||| r.2.bits, cnt := a.cnt + 1
                           complete := decide (a.cnt + 1 = a.n) }

/-- The completed result of a COLL that waits (R172, R382). -/
def collResult (s : State) (c n i : Nat) : Option CollAcc :=
  (s.ctx c).colls.find? (fun a => decide (a.plane = n) && decide (a.idx = i) && a.complete && !a.released)
/-- This device's contribution to an index of a plane has been delivered. -/
def ownDelivered (s : State) (n i : Nat) : Bool :=
  !(s.plane n).queue.any (fun q => q.2.mtype == 1 && decide (q.2.cidx.toNat = i)) &&
  !(s.plane n).flying.any (fun q => (s.plane n).history.any (fun h => decide (h.pos.toNat = q.2) && h.mtype == 1 &&
    decide (h.cidx.toNat = i)))
/-- An index failed before a COLL resumed, whose own contribution has been delivered. -/
def collFailed (s : State) (c n i : Nat) : Bool :=
  (s.ctx c).colls.any (fun a => decide (a.plane = n) && decide (a.idx = i) && a.failed && !a.released) && ownDelivered s n i
/-- The result enters octet D, the flags FPF, and the index is released. -/
def takeResult (s : State) (t : TileId) (f : Firing) (q : BitVec 7) (n : Nat) (acq : Bool) (a : CollAcc) : State :=
  let c := s.ctxOf f
  let f' := { f.setOctet q a.acc.toNat with fpf := f.fpf ||| a.flags, st := .running, wait := .none }
  (planeAcquire (setColl s c { a with released := true }) t f acq).setFiring t f'.advance

/-! ## The sequence of a plane (R349, R393 to R395) -/

/-- The position of this member's own message enters the slot of its BPOST. -/
def landPost (s : State) (n m pos : Nat) : State :=
  { s with tiles := s.tiles.map (fun p => (p.1, { p.2 with firings := p.2.firings.map (fun f =>
      match f.pend.find? (fun q => q.src == .post n m) with
      | none => f
      | some q => { landValue f q.how q.d pos with pend := f.pend.filter (fun r => r.src != .post n m) }) })) }

/-- Waits of this device's contexts on groups of a plane raise FABRIC (R170, R395); posts in flight make their firings meet it
at the next boundary where `posts`. -/
def raiseWaits (s : State) (n : Nat) (who : Nat → Bool) (posts : Bool) : State :=
  let l := s.tiles.flatMap (fun p => (p.2.firings.filter (fun f =>
    who (s.ctxOf f) &&
    (match f.wait with
     | .bwait _ n' _ _ _ _ => decide (n' = n)
     | .coll _ n' _ _ => decide (n' = n)
     | _ => false))).map (fun f => (tileOfKey p.1, f)))
  let s := l.foldl (fun s p => faultWaiter s p.1 p.2 (planeFabric s (s.ctxOf p.2))) s
  if posts then
    { s with tiles := s.tiles.map (fun p => (p.1, { p.2 with firings := p.2.firings.map (fun f =>
        if who (s.ctxOf f) && f.pend.any (fun q => match q.src with | .post n' _ => decide (n' = n) | _ => false) then
          { f with failed := some (planeFabric s (s.ctxOf f)) }
        else f) })) }
  else s

-- DESIGN CHOICE, log 59 (unsafe).
/-- This member leaves the plane (R395), and its place in the ring (R348). -/
def departPlane (s : State) (n lost : Nat) : State :=
  let p := s.plane n
  if !p.up then s
  else
    let s := s.setPlane n { p with up := false, ring := p.ring.filter (fun d => d != s.dev), pendingDel := [], gapLast := none, passed := none
                                   repairs := [], silent := [] }
    let s := postLinkEv s { plane := true, n := n, kind := 6, cyc := s.cyc 0, done := s.cyc 0, peer := s.dev, lost := lost }
    raiseWaits s n (fun c => bindV (s.binding c n)) true

/-- The OMAP entries of this device that name a source triple name the destination (R375); its copies of lines of the source go (R294). -/
def repointOmaps (s : State) (r : Repoint) : State :=
  let nv := BitVec.ofNat 32 (2 ^ 31 + r.ddev % 4096 * 2 ^ 16 + r.dstk % 4 * 2 ^ 14 + r.dctx % 1024)
  let names := fun (e : BitVec 32) => e.getLsbD 31 && decide (bitsNat e.toNat 27 16 = r.sdev) &&
    decide (bitsNat e.toNat 15 14 = r.sstk) && decide (bitsNat e.toNat 9 0 = r.sctx)
  let old := fun (k : Nat) => isAway k && decide (awayDev k = r.sdev) && decide (awayStk k = r.sstk) && decide (awayCtx k = r.sctx)
  { s with
    ctxs := s.ctxs.map (fun p => (p.1, { p.2 with omap := p.2.omap.map (fun e => (e.1, if names e.2 then nv else e.2)) }))
    stks := s.stks.map (fun p => (p.1, { p.2 with rdc := p.2.rdc.filter (fun l => !old l.key) })) }

/-- Devices that a context's peer list names, other than this one. -/
def peerDevs (s : State) (c : Nat) : List Nat :=
  (((s.ctx c).peers.filter (fun e => e.2.getLsbD 31)).map (fun e => bitsNat e.2.toNat 27 16)).eraseDups.filter (fun d => d != s.dev)

/-- At the source of a REPOINT, its peers are awaited (R376). -/
def awaitPeers (s : State) (r : Repoint) (n : Nat) : State :=
  if r.sdev = s.dev ∧ !s.repoints.any (fun x => x.msg == r) then
    { s with repoints := s.repoints ++ [{ ctx := r.sctx, msg := r, plane := n, peers := peerDevs s r.sctx, sends := 3 }] }
  else s

/-- A peer has acknowledged a REPOINT (R376): with the last one the move is complete; a source drops its stubs. -/
def ackRepoint (s : State) (peer : Nat) (sel : RepointSt → Bool) : State :=
  let hit := s.repoints.map (fun x => if sel x then { x with peers := x.peers.filter (fun d => d != peer) } else x)
  let done := (s.repoints.zip hit).filter (fun p => !p.1.peers.isEmpty && p.2.peers.isEmpty)
  let s := { s with repoints := hit.filter (fun x => !x.peers.isEmpty) }
  done.foldl (fun s p =>
    let r := p.2.msg
    if r.sdev = s.dev then
      let s := { s with stubs := s.stubs.filter (fun x => !(decide (x.ddev = r.ddev) && decide (x.dctx = r.dctx) && decide (x.stk = r.sstk))) }
      s.post (.hv (s.partOfCtx r.sctx) r.sstk)
        (recHeader s 9 0 { tile := { stk := r.sstk, x := 0, y := 0 }, entry := none, ctx := r.sctx } + fld 8 8 (s.cyc r.sstk) +
          fld 0x10 2 4 + fld 0x18 8 r.sctx)
    else s) s

/-- A member is taken out of the ring and of every group, and the waits on its groups raise FABRIC (R170, R350, R395). -/
def memberLeft (s : State) (n d : Nat) : State :=
  let p := s.plane n
  let groups := (p.groups.filter (fun g => g.2 == d)).map (fun g => g.1)
  let h := p.ring.getD p.holder 0
  let ring := p.ring.filter (fun x => x != d)
  let p := { p with ring := ring, groups := p.groups.filter (fun g => g.2 != d), silent := p.silent.filter (fun x => x != d)
                    holder := (ring.findIdx? (fun x => x == h)).getD (if ring.length = 0 then 0 else p.holder % ring.length) }
  let s := s.setPlane n p
  let s := postLinkEv s { plane := true, n := n, kind := 6, cyc := s.cyc 0, done := s.cyc 0, peer := d }
  raiseWaits s n (fun c => bindV (s.binding c n) && groups.contains (bindGid (s.binding c n))) false

/-- A LOST delivery of this member's log: contexts whose launch records, with an instance of it (R407). -/
def recorders (s : State) (cs : List Nat) : List (Nat × Nat) :=
  cs.filterMap (fun c => (s.insts.find? (fun i => decide (i.ctx = c) && !i.saved &&
    (match s.launch? i.ctx i.lid with | some l => l.record | none => false))).map (fun i => (c, i.id)))
/-- A context whose launch is replayed takes its deliveries from the log (R408). -/
def replaysCtx (s : State) (c : Nat) : Bool :=
  s.launches.any (fun l => decide (l.ctx = c) && l.replay && !l.insts.isEmpty && decide (l.st ≠ .saved))

/-- The entry of a delivery (R407). -/
def deliveryEntry (n : Nat) (f : PFlit) : LogEntry :=
  if f.mtype = 1 then { kind := 5, src := 0, obj := f.cidx.toNat + n * 2 ^ 16, val := f.src.toNat }
  else { kind := 3, src := 0, obj := f.pos.toNat % 2 ^ 28 + n * 2 ^ 28, val := f.src.toNat + f.key.toNat * 2 ^ 12 }
/-- The contents of a delivery: its payload and the fields that a replay needs. -/
def deliveryData (f : PFlit) : List Byte :=
  bytesOf 64 f.payload.toNat ++ bytesOf 2 f.cidx.toNat ++ bytesOf 1 f.n.toNat ++ bytesOf 1 (f.lty.toNat + f.op.toNat * 8)
def logDelivery (n : Nat) (f : PFlit) : List (Nat × Nat) → State → Option State
  | [], s => some s
  | (_, i) :: l, s =>
    match record s i (deliveryEntry n f) (deliveryData f) with
    | none => none
    | some s => logDelivery n f l s

/-- A plane has room for a member: 64 (R2). -/
def planeMembers : Nat := 64
/-- A member joins at the end of the ring (R348). -/
def Plane.join (p : Plane) (d : Nat) : Plane :=
  if p.ring.contains d || decide (planeMembers ≤ p.ring.length) then p else { p with ring := p.ring ++ [d] }

/-- The payload of a GROUP message (R350, R393): byte 0 the new V; of this model, byte 1 with bit 7 set the old V, and byte 2 the old
GID, which V and GID name a membership that ends. -/
def groupBits (v : Bool) (old : Nat) : Nat := v.toNat + (128 + (bindV old).toNat) * 2 ^ 8 + bindGid old * 2 ^ 16
/-- A binding changes: one membership of the sending device for each of its valid bindings. -/
def Plane.regroup (p : Plane) (f : PFlit) : Plane :=
  let b := f.payload.toNat
  let v := b.testBit 0
  let g := (f.gid.toNat, f.src.toNat)
  let out := if b.testBit 15 then (if b.testBit 8 then p.groups.erase (bitsNat b 23 16, f.src.toNat) else p.groups)
             else if v then p.groups else p.groups.erase g
  { p with groups := if v then out ++ [g] else out }

-- DEDUCED, log 174 (unsafe).
/-- What a member that is out of the plane still notes: joins, leaves and bindings of the others. -/
def noteOutside (s : State) (n : Nat) (f : PFlit) : State :=
  let p := s.plane n
  let d := f.payload.toNat % 2 ^ 16
  match f.mtype.toNat with
  | 3 => s.setPlane n (p.join d)
  | 4 => s.setPlane n { p with ring := p.ring.filter (fun x => x != d), groups := p.groups.filter (fun g => g.2 != d) }
  | 8 => s.setPlane n (p.regroup f)
  | _ => s

/-- One delivery, in sequence: GSEQ rises and the message takes its effect; none where a log has no room. -/
def deliver (s : State) (n : Nat) (f : PFlit) : Option State :=
  let cs := (boundCtxs s n f.gid.toNat).filter (fun c => !replaysCtx s c)
  let logs := if f.mtype = 0 ∨ f.mtype = 1 then recorders s cs else []
  match logDelivery n f logs s with
  | none => none
  | some s =>
    let p := s.plane n
    let d := f.payload.toNat % 2 ^ 16
    if f.mtype = 4 ∧ d = s.dev then some (departPlane s n 0)
    else
      let s := s.setPlane n { p with gseq := p.gseq + 1 }
      let s := match f.mtype.toNat with
        | 0 => cs.foldl (fun s c => userAt s c n f) s
        | 1 => cs.foldl (fun s c => collAt s c n f) s
        | 3 => s.setPlane n ((s.plane n).join d)
        | 4 => memberLeft s n d
        | 5 =>
          let r := repointOf f.payload.toNat
          let p := s.plane n
          awaitPeers ((repointOmaps s r).setPlane n { p with packs := p.packs ++ [r] }) r n
        | _ => s.setPlane n ((s.plane n).regroup f)
      let s := if f.src.toNat = s.dev then
          let p := s.plane n
          match p.flying.find? (fun q => decide (q.2 = f.pos.toNat)) with
          | some (m, pos) => landPost (s.setPlane n { p with flying := p.flying.filter (fun q => decide (q.2 ≠ pos)) }) n m pos
          | none => s
        else s
      some (wakeAll s)

/-- Deliveries held behind a gap or a full log, as far as the sequence has no hole. -/
def deliverHeld (n : Nat) : Nat → State → State
  | 0, s => s
  | k + 1, s =>
    let p := s.plane n
    match p.pendingDel.find? (fun f => f.pos == p.gseq + 1) with
    | none => s
    | some f =>
      if !p.up then s
      else
        match deliver s n f with
        | none => s
        | some s =>
          let p := s.plane n
          deliverHeld n k (s.setPlane n { p with pendingDel := p.pendingDel.filter (fun g => g.pos != f.pos) })

-- DEDUCED, log 62 (unsafe).
/-- The REMTO by which a member leaves a gap it cannot close (R395): the least of the partitions that may use the plane. -/
def planeRemto (s : State) (n : Nat) : Nat :=
  ((s.parts.filter (fun p => p.2.exist && p.2.planes.getLsbD n)).map (fun p => p.2.remto.toNat)).foldl Nat.min 24000

/-- A position beyond the last delivery shows a gap (R394): deliveries stall, and the timer of R395 starts. -/
def noteGap (s : State) (n last : Nat) : State :=
  let p := s.plane n
  let s := s.setPlane n { p with gapLast := some (Nat.max last (p.gapLast.getD 0))
                                 gapSince := if p.gapLast.isNone then s.cyc 0 else p.gapSince }
  if p.gapLast.isNone then s.at_ 0 ((s.stack 0).cyc + planeRemto s n) (.planeStallTimeout n) else s

/-- A gap that has closed is recorded. -/
def closeGap (s : State) (n : Nat) : State :=
  let p := s.plane n
  match p.gapLast with
  | none => s
  | some l =>
    if p.gseq.toNat < l then s
    else
      postLinkEv (s.setPlane n { p with gapLast := none })
        { plane := true, n := n, kind := 7, cyc := p.gapSince, done := s.cyc 0, lsn := l }

/-- Deliveries that have gone on to a further gap stall on that one from now (R395). -/
def nextGap (s : State) (n : Nat) (before : Word) : State :=
  let p := s.plane n
  if p.gapLast.isNone || p.gseq == before then s
  else (s.setPlane n { p with gapSince := s.cyc 0 }).at_ 0 ((s.stack 0).cyc + planeRemto s n) (.planeStallTimeout n)

/-- A message that arrives (R349, R394). -/
def receiveMessage (s : State) (n : Nat) (f : PFlit) : State :=
  let p := s.plane n
  if !p.up then noteOutside s n f
  else
    let s := if p.ring[p.holder]? = some f.src.toNat then s.setPlane n { p with passed := none } else s
    if f.pos.toNat ≤ p.gseq.toNat then s
    else
      let s := if p.pendingDel.any (fun g => g.pos == f.pos) then s
               else s.setPlane n { s.plane n with pendingDel := (s.plane n).pendingDel ++ [f] }
      let s := if f.pos.toNat = p.gseq.toNat + 1 then s else noteGap s n (f.pos.toNat - 1)
      nextGap (closeGap (deliverHeld n ((s.plane n).pendingDel.length) s) n) n p.gseq

/-- USER_DELIVERY (R169, R349). -/
def execUserDelivery (plane : Nat) (f : PFlit) (s : State) : Outcome := .next (receiveMessage s plane { f with mtype := 0 })
/-- COLL_DELIVERY (R172, R349). -/
def execCollDelivery (plane : Nat) (f : PFlit) (s : State) : Outcome := .next (receiveMessage s plane { f with mtype := 1 })
/-- GROUP (R350, R393). -/
def execGroup (plane : Nat) (f : PFlit) (s : State) : Outcome := .next (receiveMessage s plane { f with mtype := 8 })
/-- LEAVE (R395). -/
def execLeave (plane : Nat) (f : PFlit) (s : State) : Outcome := .next (receiveMessage s plane { f with mtype := 4 })

/-- JOIN (R349, R395): the member that joins takes the value of GSEQ in the message; the others deliver it. -/
def joinPlane (s : State) (n : Nat) (f : PFlit) : State :=
  let p := s.plane n
  let q := p.join s.dev
  if f.payload.toNat % 2 ^ 16 = s.dev ∧ !p.up ∧ s.devid.getLsbD 12 then
    if q.ring.contains s.dev then s.setPlane n { q with up := true, gseq := f.pos, pendingDel := [], gapLast := none } else s
  else receiveMessage s n { f with mtype := 3 }
def execJoin (plane : Nat) (f : PFlit) (s : State) : Outcome := .next (joinPlane s plane f)

/-- GRANT (R348, R394): a POS beyond the last delivery shows a gap; the member it names takes its turn. A member that was
named before and never spoke is named in a LEAVE by the next holder (R394, R395). -/
def takeGrant (s : State) (n : Nat) (f : PFlit) : State :=
  let p := s.plane n
  if !p.up then s
  else
    let next := f.payload.toNat % 256
    let silent := if p.holder ≠ f.ring.toNat ∧ p.holder ≠ next ∧ p.ring.length ≠ 0 then
        (match p.ring[p.holder]? with | some d => if d = s.dev then [] else [d] | none => []) else []
    let s := s.setPlane n { p with passed := none, resends := 0, holder := next
                                   silent := (p.silent ++ silent).eraseDups }
    let s := if p.gseq.toNat < f.pos.toNat then noteGap s n f.pos.toNat else s
    if next = ringIndex p s.dev then holdGrant s n f.pos.toNat
    else s.setPlane n { s.plane n with silent := [] }
def execGrant (plane : Nat) (f : PFlit) (s : State) : Outcome := .next (takeGrant s plane f)

/-- GRANT_TIMEOUT (R394): the grant flit is sent again, three times; then the member after gets it. -/
def grantLate (n : Nat) (s : State) : State :=
  let p := s.plane n
  match p.passed with
  | none => s
  | some last =>
    if !p.up then s
    else
      let again := fun (s : State) (h r : Nat) =>
        let g := { s.flitOf n 2 0 (BitVec.ofNat 512 h) with pos := BitVec.ofNat 64 last }
        (sendFlit (s.setPlane n { s.plane n with holder := h, resends := r }) n g false).at_ 0
          ((s.stack 0).cyc + 3 * Config.planeHop n) (.grantTimeout n)
      if p.resends < 3 then again s p.holder (p.resends + 1)
      else
        let h := if p.ring.length = 0 then 0 else (p.holder + 1) % p.ring.length
        if h = ringIndex p s.dev then
          holdGrant (s.setPlane n { p with silent := p.silent ++ (match p.ring[p.holder]? with | some d => [d] | none => [])
                                           passed := none }) n last
        else again s h 0
def execGrantTimeout (plane : Nat) (s : State) : Outcome := .next (grantLate plane s)

/-- REPAIR (R394): what the range holds of this member's own messages is sent again at its next grant. A range that begins
before this member's history holds what it still has. -/
def noteRepair (n : Nat) (f : PFlit) (s : State) : State :=
  let p := s.plane n
  s.setPlane n { p with passed := none, repairs := p.repairs ++ [(f.pos.toNat, f.payload.toNat % 2 ^ 64)] }
def execRepair (plane : Nat) (f : PFlit) (s : State) : Outcome := .next (noteRepair plane f s)

/-- PLANE_STALL_TIMEOUT (R395). -/
def planeStalled (n : Nat) (s : State) : State :=
  let p := s.plane n
  match p.gapLast with
  | none => s
  | some _ => if (s.stack 0).cyc < p.gapSince + planeRemto s n then s else departPlane s n 0
def execPlaneStallTimeout (plane : Nat) (s : State) : Outcome := .next (planeStalled plane s)

/-- REPOINT at a member (R375, R377): by a plane at its position of the sequence, or by a message of the destination's
control region, which is answered when older accesses have completed. -/
def execRepoint (via : RepointVia) (r : Repoint) (s : State) : Outcome :=
  .next (match via with
  | .plane n pos =>
    receiveMessage s n.toNat { s.flitOf n.toNat 5 0 (BitVec.ofNat 512 (repointBits r)) with src := BitVec.ofNat 12 r.ddev, pos := pos }
  | .message =>
    let s := awaitPeers (repointOmaps s r) r 8
    let p := s.plane 8
    s.setPlane 8 { p with packs := p.packs ++ [r] })

-- DEDUCED, log 60 (safe).
/-- A flit on a plane, as it comes off the fibre (R393): one whose parity fails is lost, and shows as a gap; one of a reserved MTYPE is
discarded. A member's own messages come back to it so. -/
def takePlaneFlit (n : Nat) (w : BitVec 672) (s : State) : State :=
  match flitOfWord w with
  | none => s
  | some f =>
    match f.mtype.toNat with
    | 0 | 1 | 4 | 5 | 8 => receiveMessage s n f
    | 2 => takeGrant s n f
    | 3 => joinPlane s n f
    | 6 => ackRepoint s f.src.toNat (fun x => x.msg == repointOf f.payload.toNat)
    | 7 => noteRepair n f s
    | _ => s

/-- PACK (R375, R376). -/
def execPack (peer ctx : Nat) (s : State) : Outcome :=
  .next (ackRepoint s peer (fun x => decide (x.ctx = ctx)))

/-- Acknowledgements owed by message go out when older accesses have completed (R377). -/
def sendPacks (s : State) : State :=
  let n := 8
  let p := s.plane n
  let ready := p.packs.filter (olderDone s)
  if ready.isEmpty then s
  else ready.foldl (fun s r => s.send (.pack r.ddev r)) (s.setPlane n { p with packs := p.packs.filter (fun r => !ready.contains r) })

/-- The next delivery or host message of a REPLAY launch's log (R408), in the order of the log. -/
def replayStep (ctx lid stk : Nat) (s : State) : State :=
  match s.launch? ctx lid with
  | none => s
  | some l =>
    if !l.replay then s
    else
      match (logLeft s (s.partOfCtx ctx) stk l).find? (fun e => e.2.kind == 3 || e.2.kind == 4 || e.2.kind == 5) with
      | none => s
      | some (j, e) =>
        let s := s.setLaunch { l with replayed := (stk, j) :: l.replayed }
        if e.kind = 4 then
          submitLaunch s ctx (e.obj / 4) (logData s (s.partOfCtx ctx) stk (e.val / 2 ^ 16) 256)
        else
          let b := logData s (s.partOfCtx ctx) stk (e.val / 2 ^ 16) 68
          let n := if e.kind = 5 then e.obj / 2 ^ 16 % 8 else e.obj / 2 ^ 28 % 8
          let f := { s.flitOf n (if e.kind = 5 then 1 else 0) (bindGid (s.binding ctx n)) (BitVec.ofNat 512 (leField b 0 64)) with
            src := BitVec.ofNat 12 e.val, key := BitVec.ofNat 4 (e.val / 2 ^ 12), cidx := BitVec.ofNat 16 (leField b 64 2)
            n := BitVec.ofNat 7 (leField b 66 1), lty := BitVec.ofNat 3 (leField b 67 1), op := BitVec.ofNat 2 (leField b 67 1 / 8) }
          let s := if e.kind = 5 then collAt s ctx n f else userAt s ctx n f
          let mine := (s.tiles.flatMap (fun p => (p.2.firings.filter (fun g => decide (s.ctxOf g = ctx))).flatMap (fun g =>
            g.pend.filterMap (fun q => match q.src with | .post n' m => if n' = n then some m else none | _ => none))))
          let s := if e.kind = 3 ∧ e.val % 4096 = s.dev then
              (match mine with | [] => s | m :: r => landPost s n (r.foldl Nat.min m) (e.obj % 2 ^ 28)) else s
          wakeAll s

end Sys2Proof.Machine
end

