-- ==== Sys2Proof/Machine/TokenForms.lean ====
section
/-! DEFINITION. The token forms and the tag-bit forms, OP 0x14 and 0x15 (R182 to R190). -/

namespace Sys2Proof.Machine

/-- Priority 3 belongs to resident graphs (R39, R65). -/
def priOk (p : BitVec 2) (t : TileId) (x : Tile) : Bool := decide (p ≠ 3) || isControl t || x.resident

/-- TOKEN of an execution check for which R404 lists no sub-code: that field is free. -/
def tokenOpen (s : State) (val : Nat) : FInfo := { code := .token, detail := subDetail (Config.freeWord s.tick).toNat val }

/-- Tokens that a firing holds for an output port. -/
def heldOn (f : Firing) (port : Nat) : Nat :=
  (f.out.filter (fun h => match h with | .tok p _ => decide (p = port) | _ => false)).length

/-- STV and STEER of a token: its own selector, or the port's steering register (R185). -/
def steerOf (f : Firing) (port : Nat) (stv : Bool) (k : BitVec 3) : Bool × BitVec 3 :=
  if stv then (true, k) else tabGet (false, 0) f.steer port

/-- The token of a SEND or SENDV (R182). -/
def builtToken (s : State) (t : TileId) (f : Firing) (port : Nat) (v n : Nat) (stv : Bool) (k : BitVec 3) (last : Bool)
    (pri : BitVec 2) : Token :=
  let st := steerOf f port stv k
  let fmt : BitVec 4 := match tabFind (s.tile t).outs (portKey f.node port) with | some o => o.fmt | none => 0
  { blankTok with pri := pri, ctx := BitVec.ofNat 10 (s.ctxOf f), tag := f.tag, fmt := fmt, last := last, stv := st.1
                  steer := st.2, bytes := BitVec.ofNat 7 n, payload := cutPayload v n }

/-- Holds a token for an output port, within the port's rate (R183). -/
def holdToken (s : State) (t : TileId) (f : Firing) (port : Nat) (k : Token) : Ex Done :=
  if hdrOutRate ((s.tile t).header f.node) port ≤ heldOn f port then raise .token (subDetail 10 port)
  else .ok { s := s, f := { f with out := f.out ++ [.tok port k] } }

/-- SEND (R182, R183). -/
def execSend (o : SENDo) (s : State) : Outcome :=
  issue o.g .plain (fun s t f => outPortOk o.port s t f && priOk o.pri t (s.tile t)) (fun s t f => do
    need f (octSlots o.q)
    holdToken s t f o.port.toNat
      (builtToken s t f o.port.toNat (f.octet o.q) o.bytes.toNat o.stv o.steer o.last o.pri)) s

/-- SENDV: BYTES from a slot (R182, R65). -/
def execSendv (o : SENDVo) (s : State) : Outcome :=
  issue o.g .plain (fun s t f => outPortOk o.port s t f && priOk o.pri t (s.tile t)) (fun s t f => do
    need f (octSlots o.q ++ sl o.t)
    let n := (f.slot o.t.toNat).toNat % 128
    if 64 < n then .error (.fault (tokenOpen s n))
    else
      holdToken s t f o.port.toNat
        (builtToken s t f o.port.toNat (f.octet o.q) n o.stv o.steer o.last o.pri)) s

/-- SENDD: to a route tag computed at run time, the MERGE of a tile (R184, R65). -/
def execSendd (o : SENDDo) (s : State) : Outcome :=
  issue o.g .plain always (fun s t f => do
    need f (octSlots o.q ++ sl o.t)
    let r := (f.slot o.t.toNat).toNat % 2 ^ 39
    let node := bitsNat r 15 6
    unless_ (priOk (BitVec.ofNat 2 r) t (s.tile t)) .illegal
    if node ≠ 10 then .error (.fault (tokenOpen s node))
    else
      let k : Token := { blankTok with
        dev := BitVec.ofNat 12 (bitsNat r 38 27), stk := BitVec.ofNat 2 (bitsNat r 26 25), tx := BitVec.ofNat 5 (bitsNat r 24 20)
        ty := BitVec.ofNat 4 (bitsNat r 19 16), node := 10, port := BitVec.ofNat 4 (bitsNat r 5 2), pri := BitVec.ofNat 2 r
        ctx := BitVec.ofNat 10 (s.ctxOf f), tag := f.tag, last := o.last, stv := o.stv
        steer := if o.stv then o.steer else 0, bytes := o.bytes, payload := cutPayload (f.octet o.q) o.bytes.toNat }
      pure { s := s, f := { f with out := f.out ++ [.direct k] } }) s

/-- REQ (R187): positions are asked for beyond those at hand and those on their way. -/
def execReq (o : PORT9) (s : State) : Outcome :=
  issue o.g .plain (inPortOk o.port) (fun s t f =>
    let key := portKey f.node o.port.toNat
    match tabFind (s.tile t).edges key with
    | none => .error (.fault (tokenOpen s o.port.toNat))
    | some e =>
      if !e.pull then .error (.fault (tokenOpen s o.port.toNat))
      else
        let have_ := e.fifo.length + (e.asked - e.arrived)
        let n := o.n.toNat
        pure { s := if have_ < n then
                 askMore s t key (n - have_) (BitVec.ofNat 2 (hdrPri ((s.tile t).header f.node))) (s.ctxOf f)
               else s
               f := f }) s

/-- The oldest committed token of a port with a tag, and the FIFO without it. -/
def takeTagged (tag : BitVec 32) : List FTok → Option (Token × List FTok)
  | [] => none
  | q :: r =>
    if q.tok.tag = tag then some (q.tok, r)
    else match takeTagged tag r with
      | some (k, l) => some (k, q :: l)
      | none => none

/-- A token taken by RECV: its payload, and header bits [63:0] in the last slot (R186). -/
def landRecv (f : Firing) (q : BitVec 7) (port : Nat) (k : Token) : Firing :=
  { (f.setOctet q k.payload.toNat).setSlot (8 * q.toNat + 7) (BitVec.ofNat 64 k.header) with
    recvd := f.recvd ++ [(port, k)] }

/-- The port's FIFO with a token taken out. -/
def takeFifo (s : State) (t : TileId) (key : Nat) (e : Edge) (l : List FTok) : State :=
  let x := s.tile t
  s.setTile t (reconfAll (reindex { x with edges := tabSet x.edges key { e with fifo := l } }))

/-- What a RECV finds: a token, or nothing yet. -/
def tryRecv (s : State) (t : TileId) (f : Firing) (q : BitVec 7) (port : Nat) : Option (State × Firing) :=
  let key := portKey f.node port
  match tabFind (s.tile t).edges key with
  | none => none
  | some e =>
    match takeTagged f.tag e.fifo with
    | none => none
    | some (k, l) => some (takeFifo s t key e l, landRecv f q port k)

-- DEDUCED, log 74 (unsafe).
/-- The firing has taken a LAST token of a port. -/
def tookLast (f : Firing) (port : Nat) : Bool := (f.recvd ++ f.inputs).any (fun p => decide (p.1 = port) && p.2.last)

/-- RECV (R186). -/
def execRecv (o : RECVo) (s : State) : Outcome :=
  issue o.g .plain (inPortOk o.port) (fun s t f => do
    need f (octSlots o.q)
    unless_ (!tookLast f o.port.toNat) .token (subDetail 11 o.port.toNat)
    match tryRecv s t f o.q o.port.toNat with
    | some (s, f) => pure { s := progress s (some f.inst), f := f }
    | none => pure { s := s, f := { f with st := .stalled, wait := .recv o.q o.port.toNat }, moved := true }) s

/-- STEERT (R185). -/
def execSteert (o : STEERTo) (s : State) : Outcome :=
  issue o.g .plain (outPortOk o.port) (fun s _ f =>
    pure { s := s, f := { f with steer := tabSet f.steer o.port.toNat (o.stv, if o.stv then o.steer else 0) } }) s

/-- RECONF (R188): held to retire. -/
def execReconf (o : PORT9) (s : State) : Outcome :=
  issue o.g .plain (outPortOk o.port) (fun s _ f =>
    pure { s := s, f := { f with out := f.out ++ [.reconf o.port.toNat o.n.toNat] } }) s

/-- E and P of a node (R189). -/
def Tile.tagEn (x : Tile) (n : Nat) : BitVec 16 := tabGet 0 x.tagE n
def Tile.tagPend (x : Tile) (n : Nat) : BitVec 16 := tabGet 0 x.tagP n

/-- A form that changes the tag bits of its firing's own node, at once. -/
def runTag (o : M16) (k : Tile → Nat → BitVec 16 → Tile) (s : State) : Outcome :=
  issue o.g .plain always (fun s t f => pure { s := wakeTile (s.setTile t (k (s.tile t) f.node o.m)) t, f := f }) s

/-- TEN (R189). -/
def execTen (o : M16) (s : State) : Outcome :=
  runTag o (fun x n m => { x with tagE := tabSet x.tagE n (x.tagEn n ||| m) }) s
/-- TDIS (R189). -/
def execTdis (o : M16) (s : State) : Outcome :=
  runTag o (fun x n m => { x with tagE := tabSet x.tagE n (x.tagEn n &&& ~~~m) }) s
/-- TPSET (R189). -/
def execTpset (o : M16) (s : State) : Outcome :=
  runTag o (fun x n m => { x with tagP := tabSet x.tagP n (x.tagPend n ||| m) }) s
/-- TPCLR (R189). -/
def execTpclr (o : M16) (s : State) : Outcome :=
  runTag o (fun x n m => { x with tagP := tabSet x.tagP n (x.tagPend n &&& ~~~m) }) s

/-- TQRY (R189). -/
def execTqry (o : OneD) (s : State) : Outcome :=
  issue o.g .plain always (fun s t f => do
    need f (sl o.d)
    let x := s.tile t
    pure { s := s, f := f.setSlot o.d.toNat
             (BitVec.ofNat 64 ((x.tagEn f.node).toNat * 2 ^ 16 + (x.tagPend f.node).toNat)) }) s

end Sys2Proof.Machine
end

