-- ==== Sys2Proof/Machine/Firing.lean ====
section
/-! DEFINITION. Firings: the firing rule, sources, resources and landing, waking, retire, re-queueing and resuming
(R226 to R242). -/

namespace Sys2Proof.Machine

/-- A halt has stopped the tile's issue (R352), or a debug halt (R405). -/
def Tile.stopped (x : Tile) : Bool := x.halting || x.atHalt || x.dbg.halt

/-! ## The firing rule (R227 to R229) -/

/-- The first n indexed tokens of a tag in a FIFO, and the FIFO without them; none where there are fewer. -/
def takeAssigned (tag : BitVec 32) : Nat → List FTok → List Token → Option (List Token × List FTok)
  | 0, l, acc => some (acc.reverse, l)
  | _ + 1, [], _ => none
  | n + 1, q :: r, acc =>
    if q.indexed ∧ q.tok.tag = tag then takeAssigned tag n r (q.tok :: acc)
    else (takeAssigned tag (n + 1) r acc).map (fun p => (p.1, q :: p.2))

/-- Condition 1 on ports k to NIN − 1: the tokens assigned, and the tile without them. -/
def assignPorts (node h : Nat) (tag : BitVec 32) : Nat → Nat → Tile → List (Nat × Token) → Option (Tile × List (Nat × Token))
  | 0, _, x, acc => some (x, acc)
  | n + 1, k, x, acc =>
    match tabFind x.edges (portKey node k) with
    | none => none
    | some e =>
      match takeAssigned tag (hdrInRate h k) e.fifo [] with
      | none => none
      | some (l, r) =>
        assignPorts node h tag n (k + 1) { x with edges := tabSet x.edges (portKey node k) { e with fifo := r } }
          (acc ++ l.map (fun q => (k, q)))

/-- Conditions 2 to 4 of R228. -/
def mayFire (s : State) (t : TileId) (node : Nat) (tag : BitVec 32) : Bool :=
  let x := s.tile t
  let h := x.header node
  let e := x.tagEn node
  (decide (e = 0) || decide (x.tagPend node &&& e = e)) &&
  (List.range (hdrNout h)).all (fun n => decide (hdrOutRate h n ≤ outSpace s t (portKey node n))) &&
  !x.firings.any (fun f => decide (f.node = node) && (!hdrReent h || decide (f.tag = tag)))

/-- A firing as it enters WAITING. -/
def newFiring (x : Tile) (node inst : Nat) (tag : BitVec 32) (inputs : List (Nat × Token)) : Firing :=
  let h := x.header node
  { id := x.nextFid, entry := 0, node := node, tag := tag, inst := inst, st := .waiting, wait := .none, held := false, failed := none
    pc := 0, age := 0, count := 0, frame := 0, slots := [], preds := 0, loops := [], rstack := [], fpf := 0, ppr := 0, wins := []
    closing := [], resv := none, steer := [], waveLast := none, pend := [], out := [], exitStatus := none, inputs := inputs
    recvd := [], reserved := (List.range (hdrNout h)).map (fun n => (n, hdrOutRate h n))
    cleared := x.tagPend node &&& x.tagEn node, committed := false, retries := 0, retried := false, rstep := 0
    fromDrain := false, resend := none, granted := none, reeval := none, banks := 0, fetched := [] }

/-- The firing enters WAITING, and P := P and not E. -/
def enterWaiting (s : State) (t : TileId) (node : Nat) (tag : BitVec 32) (inst : Nat) (x : Tile)
    (inputs : List (Nat × Token)) : State :=
  let f := newFiring x node inst tag inputs
  let x := { x with nextFid := x.nextFid + 1, firings := x.firings ++ [f]
                    tagP := tabSet x.tagP node (x.tagPend node &&& ~~~(x.tagEn node)) }
  progress (s.setTile t (reindex (reconfAll x))) (some inst)

/-- FIRING_RULE (R228): for one actor and tag. -/
def fireRule (t : TileId) (node tag : Nat) (s : State) : State :=
  let x := s.tile t
  let tg := BitVec.ofNat 32 tag
  match x.inst with
  | none => s
  | some i =>
    if x.stopped || !x.isActor node || decide (hdrNin (x.header node) = 0) || !mayFire s t node tg then s
    else
      match assignPorts node (x.header node) tg (hdrNin (x.header node)) 0 x [] with
      | none => s
      | some (x', l) => enterWaiting s t node tg i x' l
def execFiringRule (t : TileId) (node tag : Nat) (s : State) : Outcome := .next (fireRule t node tag s)

/-- SOURCE_FIRE (R227): a source of an armed instance, with a tag it has not finished. -/
def fireSource (t : TileId) (node tag : Nat) (s : State) : State :=
  let x := s.tile t
  let tg := BitVec.ofNat 32 tag
  match x.inst.bind s.inst? with
  | none => s
  | some i =>
    match x.sources.find? (fun q => decide (q.1 = node) && decide (q.2.1 = tg)) with
    | none => s
    | some q =>
      if x.stopped || !i.armed || i.halting || !x.isActor node || !mayFire s t node tg then s
      else
        let x := if hdrNout (x.header node) = 0 then { x with sources := x.sources.erase q } else x
        enterWaiting s t node tg i.id x []
def execSourceFire (t : TileId) (node tag : Nat) (s : State) : Outcome := .next (fireSource t node tag s)

/-! ## Resources and landing (R231, R232) -/

def FSt.holds : FSt → Bool
  | .ready => true
  | .running => true
  | .stalled => true
  | .draining => true
  | .suspended => true
  | _ => false

/-- The lowest free firing table entry. -/
def freeEntry (x : Tile) : Option Nat :=
  (List.range 32).find? (fun e => !x.firings.any (fun f => f.st.holds && decide (f.entry = e)))
def granulesUsed (x : Tile) : Nat := ((x.firings.filter (fun f => f.st.holds)).map (fun f => f.frame / 16)).foldl (· + ·) 0

/-- Octets of input tokens land in port order (R232). -/
def landInputs : Nat → List (Nat × Token) → Firing → Firing
  | _, [], f => f
  | n, (_, k) :: r, f => landInputs (n + 1) r (f.setSlotsNat (8 * n) k.payload.toNat 8)

-- DEDUCED, log 75 (unsafe).
/-- RESOURCE_GRANT (R231): the oldest WAITING firing, when the tile has what it needs. -/
def grantFiring (t : TileId) (s : State) : State :=
  let x := s.tile t
  match x.firings.find? (fun f => decide (f.st = .waiting)) with
  | none => s
  | some f =>
    let h := x.header f.node
    match freeEntry x with
    | none => s
    | some e =>
      if x.stopped || decide (512 < granulesUsed x + hdrGranules h) then s
      else
        let n := tabGet 0 x.counts f.node + 1
        let f := { f with st := .ready, entry := e, pc := recLit (x.rec_ f.node) % 4096, age := s.nextAge, count := n
                          frame := 16 * hdrGranules h, fpf := 0, ppr := 0 }
        let x := { x with counts := tabSet x.counts f.node n }
        progress (State.setTile { s with nextAge := s.nextAge + 1 } t (x.setFiring (landInputs 0 f.inputs f))) (some f.inst)
def execResourceGrant (t : TileId) (s : State) : Outcome := .next (grantFiring t s)

/-! ## Waking (R235) -/

/-- A firing whose wait has ended goes on after the form at which it waited. -/
def wokenAt (s : State) (t : TileId) (f : Firing) : State := s.setFiring t { f with st := .running, wait := .none }.advance

/-- STALL_WAKE: the condition of a stalled firing is looked at. -/
def wakeFiring (t : TileId) (fid : Nat) (s : State) : State :=
  match s.firing? t fid with
  | none => s
  | some f =>
    let x := s.tile t
    if f.st ≠ .stalled ∨ x.stopped = true then s
    else
      match f.wait with
      | .tags m => if x.tagPend f.node &&& m ≠ 0 then wokenAt s t f else s
      | .recv q port => match tryRecv s t f q port with | some (s, f) => wokenAt (progress s (some f.inst)) t f | none => s
      | .bwait d n key g acq target =>
        match bwaitValue s (s.ctxOf f) n key g target with
        | some v => wokenAt (planeAcquire s t f acq) t (f.setSlot d.toNat v)
        | none => s
      | .coll q n i acq =>
        match collResult s (s.ctxOf f) n i with
        | some a => takeResult s t f q n acq a
        | none => if collFailed s (s.ctxOf f) n i then raiseColl s (s.ctxOf f) n i else s
      | .cwait id =>
        match copyState (cwaitSet x f id) with
        | .met => wokenAt s t f
        | .failed e => faultWaiter s t f e
        | .notYet => s
      | .mwait m =>
        if mwaitMet x m then
          match owingIn x m with
          | some b => faultWaiter s t f (poisonInfo b)
          | none => wokenAt s t f
        else s
      | .lwait m => if lwaitMet x m then wokenAt s t f else s
      | _ => s
def execStallWake (t : TileId) (fid : Nat) (s : State) : Outcome := .next (wakeFiring t fid s)

/-! ## Retire (R236, R230, R183, R184, R188) -/

/-- A zero token of a skipped position that has to be sent (R43). -/
def zeroToken (s : State) (f : Firing) (o : Nat) (x : Tile) : Token :=
  { blankTok with ctx := BitVec.ofNat 10 (s.ctxOf f), tag := f.tag, pri := BitVec.ofNat 2 (hdrPri (x.header f.node))
                  fmt := (match tabFind x.outs (portKey f.node o) with | some e => e.fmt | none => 0) }

/-- The control token of a RECONF, to the consumer of an output's edge. -/
def reconfToken (s : State) (t : TileId) (f : Firing) (port depth : Nat) : State :=
  match tabFind (s.tile t).outs (portKey f.node port) with
  | none => s
  | some o =>
    let k := { blankTok with kind := 2, bytes := 3, payload := BitVec.ofNat 512 (1 + depth * 256), ctx := BitVec.ofNat 10 (s.ctxOf f)
                             pri := BitVec.ofNat 2 (hdrPri ((s.tile t).header f.node)) }
    inject s t (addressed s k o.dst o.dnode o.dport) false

/-- Step 4 for one output port: its tokens, the positions it did not use, its RECONF. -/
def releasePort (s : State) (t : TileId) (f : Firing) (port : Nat) : State :=
  let key := portKey f.node port
  let toks := f.out.filterMap (fun h => match h with | .tok p k => if p = port then some k else none | _ => none)
  let s := toks.foldl (fun s k => emit s t key k) s
  let s := if toks.any (fun k => k.last) then s
           else skipN t key (zeroToken s f port (s.tile t)) (tabGet 0 f.reserved port - toks.length) s
  f.out.foldl (fun s h => match h with | .reconf p d => if p = port then reconfToken s t f port d else s | _ => s) s

/-- Step 4 of R236. -/
def releaseTokens (s : State) (t : TileId) (f : Firing) : State :=
  let x := s.tile t
  let n := hdrNout (x.header f.node)
  let lasts := f.out.filterMap (fun h => match h with | .tok p k => if k.last then some p else none | _ => none)
  let src := x.sources.map (fun q =>
    if q.1 = f.node ∧ q.2.1 = f.tag then (q.1, q.2.1, lasts.foldl (fun m p => m ||| BitVec.ofNat 8 (2 ^ p)) q.2.2) else q)
  let full := BitVec.ofNat 8 (2 ^ n - 1)
  let x := { x with sources := src.filter (fun q => !(decide (q.1 = f.node) && decide (q.2.1 = f.tag) && decide (q.2.2 = full))) }
  let s := s.setTile t (x.setFiring { f with reserved := [] })
  let s := (List.range n).foldl (fun s p => releasePort s t f p) s
  let s := f.out.foldl (fun s h => match h with | .direct k => inject s t k true | _ => s) s
  let out := f.out.filter (fun h => match h with | .tok _ _ => false | .direct _ => false | .reconf _ _ => false | _ => true)
  s.setFiring t { f with out := out, reserved := [], rstep := 4 }

/-- Records that a queue has room for (R401, R420); a disabled queue's records go to the management queue. -/
def queueRoom (s : State) (q : QSel) (n : Nat) : Bool :=
  let x := s.queue q
  !x.en || decide ((x.head - x.tail).toNat + x.waiting.length + n ≤ x.size.toNat)

/-- Step 5 of R236: events, the exit status, launches; each when its queue has room. What remains. -/
def postEvents (s : State) (t : TileId) (f : Firing) (ctx : Nat) : List Held → State × List Held
  | [] => (s, [])
  | .event b :: r =>
    if !queueRoom s (.ev ctx) 1 then (s, .event b :: r)
    else
      let src : RecSrc := { tile := t, entry := some f.entry, ctx := ctx }
      let body := recHeader s 2 0 src + b.toNat / 2 ^ 64 * 2 ^ 64
      postEvents (s.post (.ev ctx) body) t f ctx r
  | h :: r =>
    let (s, l) := postEvents s t f ctx r
    (s, h :: l)
def isEvent : Held → Bool
  | .event _ => true
  | _ => false
def submitHeld (s : State) (ctx : Nat) : List Held → State × List Held
  | [] => (s, [])
  | .launch id b :: r =>
    if launchRoom s ctx b then submitHeld (submitLaunch s ctx id b) ctx r else (s, .launch id b :: r)
  | h :: r =>
    let (s, l) := submitHeld s ctx r
    (s, h :: l)
def isLaunch : Held → Bool
  | .launch _ _ => true
  | _ => false

/-- Step 6: each held ORELEASE. -/
def applyReleases (x : Tile) : List Held → Tile
  | [] => x
  | .orel o :: r => applyReleases (x.setSlotOf o { x.slotOf o with claimed := false, owner := none, nplanes := 0 }) r
  | _ :: r => applyReleases x r

/-- Step 1 holds (R177, R236). -/
def workDone (x : Tile) (f : Firing) : Bool := enginesIdle x f.id && f.reeval.isNone

/-- A poisoned bank of the firing that has not been reported. -/
def owedBy (x : Tile) (fid : Nat) : Option Nat := (x.me.owing.find? (fun p => decide (p.2 = fid))).map (fun p => p.1)

/-- Step 7: the firing is gone. -/
def retired (s : State) (t : TileId) (f : Firing) : State :=
  let s := dropResv s t f.id
  let x := s.tile t
  let x := { x.dropFiring f.id with
    cmds := x.cmds.filter (fun c => c.owner != f.id), store := x.store.filter (fun e => e.owner != f.id) }
  let s := progress (s.setTile t x) (some f.inst)
  (s.later (.resourceGrant t)).later (.endOfStream f.inst)

-- DESIGN CHOICE, log 76 (unsafe).
/-- RETIRE (R236): the steps from the one reached, as far as they go now. -/
def retireFiring (t : TileId) (fid : Nat) (s : State) : State :=
  match s.firing? t fid with
  | none => s
  | some f =>
    let x := s.tile t
    if f.st ≠ .draining ∨ x.stopped = true then s
    else
      match f.failed, owedBy x fid with
      | some e, _ => takeFault s t f e
      | none, some b => takeFault s t f (poisonInfo b)
      | none, none =>
        if !workDone x f then s
        else if f.rstep < 2 ∧ !f.wins.isEmpty then
          let (s, f) := closeAll s t f f.wins
          s.setFiring t { f with rstep := 1 }
        else if f.rstep < 4 ∧ relReady s t f = false then s
        else if f.rstep < 4 ∧ hdrOrd (x.header f.node) = true ∧
            x.firings.any (fun g => decide (g.node = f.node) && decide (g.tag.toNat < f.tag.toNat)) = true then s
        else
          let s := if f.rstep < 4 then releaseTokens s t f else s
          match s.firing? t fid with
          | none => s
          | some f =>
            let ctx := s.ctxOf f
            let (s, out) := postEvents s t f ctx f.out
            let f := { f with out := out }
            if out.any isEvent then s.setFiring t f
            else if f.exitStatus.isSome ∧ queueRoom s (.ev ctx) 1 = false then s.setFiring t f
            else
              let s := match f.exitStatus with
                | some v =>
                  s.post (.ev ctx) (recHeader s 3 0 { tile := t, entry := some f.entry, ctx := ctx } + fld 8 8 v.toNat +
                    fld 0x10 2 f.node + fld 0x14 4 f.tag.toNat)
                | none => s
              let f := { f with exitStatus := none }
              let (s, out) := submitHeld s ctx f.out
              let f := { f with out := out, rstep := 5 }
              if out.any isLaunch then s.setFiring t f
              else retired (s.setTile t (applyReleases ((s.tile t).setFiring f) out)) t f
def execRetire (t : TileId) (fid : Nat) (s : State) : Outcome := .next (retireFiring t fid s)

/-! ## Re-queueing and resuming (R240, R241) -/

/-- REQUEUE (R240): an ABORTED firing re-enters WAITING as the youngest. -/
def requeueFiring (t : TileId) (fid : Nat) (s : State) : State :=
  match s.firing? t fid with
  | none => s
  | some f =>
    if f.st ≠ .aborted then s
    else
      let x := s.tile t
      let e := x.tagEn f.node
      let f := { f with st := .waiting, wait := .none, cleared := x.tagPend f.node &&& e }
      let x := { x with firings := x.firings.filter (fun g => g.id != fid) ++ [f]
                        tagP := tabSet x.tagP f.node (x.tagPend f.node &&& ~~~e) }
      (s.setTile t x).later (.resourceGrant t)
def execRequeue (t : TileId) (fid : Nat) (s : State) : Outcome := .next (requeueFiring t fid s)

/-- Publications of a firing and its commands that FABRIC left unacknowledged are sent again under their identifiers (R347). -/
def resendOwed (s : State) (t : TileId) (fid : Nat) : State :=
  let mine := fun (r : RemOut) => r.sent && decide (r.due = 0) && (match r.who with
    | .publish t' f' _ => t' == t && f' == fid
    | .cmd t' c => t' == t && (s.tile t).cmds.any (fun d => decide (d.id = c) && decide (d.owner = fid))
    | _ => false)
  (s.remote.filter mine).foldl transmit s

/-- A suspended firing goes on (R241): failed commands are reissued first; an evaluation is the next of its block. -/
def resumeFiring (t : TileId) (fid : Nat) (s : State) : State :=
  match s.firing? t fid with
  | none => s
  | some f =>
    if f.st ≠ .suspended then s
    else
      let x := s.tile t
      let cmds := x.cmds.map (fun c => if c.owner = fid ∧ c.st = .failed then c.again else c)
      let lcb := match f.reeval with
        | some j => { x.lcb with queue := .eval j.again :: x.lcb.queue }
        | none => x.lcb
      let f := { f with st := if f.fromDrain then .draining else .ready, wait := .none, held := false, fromDrain := false
                        failed := none, retried := false, reeval := none, cause := none, debug := false }
      resendOwed (s.setTile t ({ x with cmds := cmds, lcb := lcb }.setFiring f)) t fid

end Sys2Proof.Machine
end

