-- ==== Sys2Proof/Machine/Sha.lean ====
section
/-! DEFINITION. SHA-512, by which graph images, configuration keys and firmware are named (R87, R223, R413). A message is one
number, its first byte the most significant; the working words and the schedule are one bit vector each. The constants are worked
out from what they are: 64 bits of the fractional parts of roots of the primes. -/

namespace Sys2Proof.Machine

/-- The greatest number of b bits whose k-th power is at most n, found from its highest bit down. -/
def rootBelow (k n b : Nat) : Nat :=
  (List.range b).foldr (fun i r => if (r + 2 ^ i) ^ k ≤ n then r + 2 ^ i else r) 0

/-- The primes below 410, of which there are eighty. -/
def smallPrimes : List Nat :=
  (List.range 410).filter (fun p => decide (2 ≤ p) && (List.range p).all (fun d => decide (d < 2) || decide (p % d ≠ 0)))

/-- The first 64 bits of the fractional part of the k-th root of p. -/
def rootFraction (k p : Nat) : BitVec 64 := BitVec.ofNat 64 (rootBelow k (p * 2 ^ (64 * k)) 71)
def roundConstants : List (BitVec 64) := smallPrimes.map (rootFraction 3)

/-- Sums of eight words at once: the top bit of each word is added apart, so that none carries into the next. -/
def addWords (x y : BitVec 512) : BitVec 512 :=
  let low := BitVec.ofNat 512 (2 ^ 512 / (2 ^ 64 - 1) * (2 ^ 63 - 1))
  ((x &&& low) + (y &&& low)) ^^^ ((x ^^^ y) &&& ~~~low)

/-- The eight starting words, the first at the top. -/
def digestStart : BitVec 512 :=
  (smallPrimes.take 8).foldl (fun d p => d <<< 64 ||| (rootFraction 2 p).setWidth 512) 0

/-- The exclusive or of x rotated right by each number of a list. -/
def turned (x : BitVec 64) (by_ : List Nat) : BitVec 64 := by_.foldl (fun y n => y ^^^ x.rotateRight n) 0

/-- The schedule after a word: sixteen words, the oldest at the top, move up by one and the new one enters below. -/
def nextSchedule (sched : BitVec 1024) : BitVec 1024 :=
  let back := fun n => sched.extractLsb' (64 * (n - 1)) 64
  let fresh := turned (back 2) [19, 61] ^^^ back 2 >>> 6
  let stale := turned (back 15) [1, 8] ^^^ back 15 >>> 7
  sched <<< 64 ||| (fresh + back 7 + stale + back 16).setWidth 1024

/-- One round: the eight words, the first at the top, move down by one; the last of them, the choice of the sixth and seventh by
the fifth, and `add` (the round's constant and schedule word) enter the fifth place, and with the majority of the first three the
first. -/
def digestRound (add : BitVec 64) (d : BitVec 512) : BitVec 512 :=
  let top := fun n => d.extractLsb' (512 - 64 * n) 64
  let enter := add + top 8 + turned (top 5) [14, 18, 41] + ((top 5 &&& top 6) ^^^ (~~~top 5 &&& top 7))
  let first := enter + turned (top 1) [28, 34, 39] + ((top 1 &&& top 2) ^^^ (top 1 &&& top 3) ^^^ (top 2 &&& top 3))
  first ++ d.extractLsb' 320 192 ++ (top 4 + enter) ++ d.extractLsb' 64 192

/-- A block folded into the digest: eighty rounds over the schedule that begins with it. -/
def digestBlock (d : BitVec 512) (block : BitVec 1024) : BitVec 512 :=
  addWords d (roundConstants.foldl
    (fun p c => (nextSchedule p.1, digestRound (c + p.1.extractLsb' 960 64) p.2)) (block, d)).2

/-- A number from bytes, most significant first, and n bytes of a number. -/
def beNat : List Byte → Nat
  | [] => 0
  | b :: l => b.toNat * 256 ^ l.length + beNat l
def beBytes : Nat → Nat → List Byte
  | 0, _ => []
  | n + 1, v => BitVec.ofNat 8 (v / 256 ^ n) :: beBytes n v

/-- SHA-512 of a byte list: 64 bytes. The message as a number, followed by a one bit, by zeros that fill up blocks of 1024 bits
but for 128 bits, and there by its length in bits. -/
def sha512 (m : List Byte) : List Byte :=
  let bits := 8 * m.length
  let blocks := (bits + 1152) / 1024
  let whole := (2 * beNat m + 1) * 2 ^ (1024 * blocks - bits - 1) + bits
  let d := (List.range blocks).foldr (fun i d => digestBlock d (BitVec.ofNat 1024 (whole / 2 ^ (1024 * i)))) digestStart
  beBytes 64 d.toNat

end Sys2Proof.Machine
end

