-- ==== Sys2Proof/Machine/Place.lean ====
section
/-! DEFINITION. Utund: the checks of a graph image and its placement (R71, R74, R81, R87, R221 to R223, R245, R246, R308). -/

namespace Sys2Proof.Machine

/-! ## The image (R87) -/

/-- A node and an edge of the graph. LIT is the entry word of an actor and the parameter block of another node. -/
structure GNode where
  kind : Nat
  sub  : Nat
  lit  : Nat
  param : List Byte
  deriving DecidableEq, Repr
structure GEdge where
  src   : Nat
  sport : Nat
  dst   : Nat
  dport : Nat
  depth : Nat
  pull  : Bool
  deriving DecidableEq, Repr
structure Graph where
  nodes : List GNode
  edges : List GEdge
  code  : Array Word
  resident : Bool
  deriving DecidableEq, Repr

def arrField (b : Array Byte) (off : Nat) : Nat → Nat
  | 0 => 0
  | n + 1 => arrField b off n + (b.getD (off + n) 0).toNat * 2 ^ (8 * n)
def arrBytes (b : Array Byte) (off n : Nat) : List Byte := (List.range n).map (fun i => b.getD (off + i) 0)

/-- Offset and size of a section. -/
def sect (b : Array Byte) (i : Nat) : Nat × Nat := (arrField b (0x10 + 8 * i) 4, arrField b (0x14 + 8 * i) 4)

/-- The header's checks and those of the sections (R221). -/
def imageHeaderOk (b : Array Byte) : Bool :=
  decide (128 ≤ b.size) && decide (arrField b 0 4 = 0x5A474931) && decide (arrField b 4 2 = 1) && decide (arrField b 6 2 = 0) &&
  decide (arrField b 8 4 ≤ 1) && decide (arrField b 0x0C 4 = 0) && decide (arrField b 0x48 56 = 0) &&
  (List.range 7).all (fun i => decide ((sect b i).1 + (sect b i).2 ≤ b.size))

/-- The entries' reserved bytes, and depths within 2 to 256 or 0. -/
def imageEntriesOk (b : Array Byte) : Bool :=
  (List.range ((sect b 0).2 / 16)).all (fun i =>
    let o := (sect b 0).1 + 16 * i
    decide (arrField b (o + 2) 2 = 0) && decide (arrField b (o + 8) 8 = 0)) &&
  (List.range ((sect b 1).2 / 16)).all (fun i =>
    let o := (sect b 1).1 + 16 * i
    let d := arrField b (o + 6) 2
    decide (arrField b (o + 12) 4 ≤ 1) && (decide (d = 0) || (decide (2 ≤ d) && decide (d ≤ 256))))

def noParam : Nat := 2 ^ 32 - 1

/-- The graph of an image. -/
def readGraph (b : Array Byte) : Graph :=
  let n := sect b 0
  let e := sect b 1
  let c := sect b 2
  let p := sect b 3
  { nodes := (List.range (n.2 / 16)).map (fun i =>
      let o := n.1 + 16 * i
      let lit := arrField b (o + 4) 4
      { kind := arrField b o 1, sub := arrField b (o + 1) 1, lit := lit
        param := if lit = noParam ∨ arrField b o 1 = 0 then List.replicate 64 0 else arrBytes b (p.1 + 64 * lit) 64 })
    edges := (List.range (e.2 / 16)).map (fun i =>
      let o := e.1 + 16 * i
      { src := arrField b o 4, sport := arrField b (o + 4) 1, dst := arrField b (o + 8) 4, dport := arrField b (o + 5) 1
        depth := arrField b (o + 6) 2, pull := decide (arrField b (o + 12) 4 = 1) })
    code := ((List.range (c.2 / 8)).map (fun i => BitVec.ofNat 64 (arrField b (c.1 + 8 * i) 8))).toArray
    resident := decide (arrField b 8 4 = 1) }

/-! ## Handlers (R70, R71) -/

def Graph.word (g : Graph) (i : Nat) : Nat := (g.code.getD i 0).toNat
def Graph.header (g : Graph) (n : GNode) : Nat := g.word (n.lit - 1)
/-- Word indices of the headers, ascending. -/
def Graph.heads (g : Graph) : List Nat :=
  let t : Tab Unit := (g.nodes.filter (fun n => decide (n.kind = 0))).foldl (fun t n => tabSet t (n.lit - 1) ()) []
  t.map (fun p => p.1)

/-- The sum of a header's rates on its input ports. -/
def inRates (h : Nat) : Nat := ((List.range (hdrNin h)).map (fun k => hdrInRate h k)).foldl (· + ·) 0

def frameOk (h : Nat) : Bool :=
  decide (hdrFrame h ≤ 1024) && (decide (hdrFrame h ≠ 0) || decide (hdrNin h = 0)) && decide (8 * inRates h ≤ hdrFrame h)
def headOk (resident : Bool) (h : Nat) : Bool :=
  decide (hdrNin h ≠ 7) && decide (hdrNout h ≠ 7) &&
  (List.range 6).all (fun k => (decide (k < hdrNin h) || decide (hdrInRate h k = 1)) &&
    (decide (k < hdrNout h) || decide (hdrOutRate h k = 1))) &&
  (decide (hdrPri h ≠ 3) || resident) && decide (h % 128 = 0)

/-- A word is a SEND or SENDV that names priority 3 (R39). -/
def sendsHigh (w : Word) : Bool :=
  match decodeWord w with
  | .ok (.form (.send o)) => decide (o.pri = 3)
  | .ok (.form (.sendv o)) => decide (o.pri = 3)
  | _ => false

/-! ## Parameter blocks (R245, R246) -/

/-- Bytes that a kind uses. -/
def usedByte (kind i : Nat) : Bool :=
  if kind = 15 then decide (i < 10)
  else
    decide (i < 2) || (decide (8 ≤ i) && decide (i < 12)) ||
    ((decide (3 ≤ kind ∧ kind ≤ 6) || decide (kind = 11) || decide (kind = 12)) && decide (i < 4)) ||
    (decide (kind = 3) && ((decide (4 ≤ i) && decide (i < 8)) || (decide (12 ≤ i) && decide (i < 20)))) ||
    ((decide (kind = 8) || decide (kind = 10)) && decide (i = 12)) ||
    ((decide (kind = 12) || decide (kind = 14)) && (decide (i = 12) || decide (i = 13))) ||
    (decide (kind = 13) && (decide (i = 12) || decide (i = 13) || decide (16 ≤ i))) ||
    (decide (kind = 8) && decide (32 ≤ i) && decide (i < 56)) ||
    (decide (kind = 9) && decide (32 ≤ i) && decide (i < 40))

def pIfmt (p : List Byte) : Nat := byteAt p 0
def pOfmt (p : List Byte) : Nat := byteAt p 1
def pTpr (p : List Byte) : Nat := byteAt p 2
def pTrows (p : List Byte) : Nat := byteAt p 3
def pStatd (p : List Byte) : Nat := leField p 4 4
def pSken (p : List Byte) : Bool := (leField p 8 4).testBit 0
def pCmpl (p : List Byte) : Bool := (leField p 8 4).testBit 1
def pKsc (p : List Byte) : Nat := leField p 12 4
def pKbias (p : List Byte) : Nat := leField p 16 4
/-- DEF, NPORT, P or WBYTES. -/
def pC (p : List Byte) : Nat := byteAt p 12
/-- FORM or NDIM. -/
def pD (p : List Byte) : Nat := byteAt p 13
def pCdst (p : List Byte) : Nat := leField p 16 4
def pTstr (p : List Byte) : Int := sextInt (leField p 20 4) 32
def pBase (p : List Byte) : Nat := leField p 24 8
def pDim (p : List Byte) (i : Nat) : Word := BitVec.ofNat 64 (leField p (32 + 8 * i) 8)
def pDst (p : List Byte) (n : Nat) : Nat := leField p (32 + 4 * (n - 2)) 4
def pRoute (p : List Byte) : Nat := leField p 0 8
def pFctx (p : List Byte) : Nat := leField p 8 2

def isElem (f : Nat) : Bool := (decide (2 ≤ f) && decide (f ≤ 6)) || (decide (8 ≤ f) && decide (f ≤ 11))
/-- FP32, FP16, BF16 and, where allowed, INT32. -/
def isArith (f : Nat) : Bool := decide (4 ≤ f ∧ f ≤ 6) || decide (f = 11)
/-- A destination field in four bytes: zero but for a valid one. -/
def destFieldOk (d : Nat) : Bool := decide (d = 0) || (decide (d < 2 ^ 24) && d.testBit 23)

-- DEDUCED, log 78 (unsafe).
/-- Formats that a kind and mode allow. -/
def formatsOk (kind sub : Nat) (p : List Byte) : Bool :=
  let i := pIfmt p
  let o := pOfmt p
  decide (i ≤ 12) && decide (o ≤ 12) &&
  (match kind, sub with
   | 3, 0 => (decide (i = 12) || isElem i) && isElem o
   | 3, _ => decide (i = 12) && isElem o
   | 4, 2 => true
   | 4, _ => isArith i && decide (i = o)
   | 5, _ => isArith i && decide (i = o)
   | 6, _ => decide (i = 6) && decide (o = 6)
   | 7, _ => isArith i && decide (i ≠ 11) && decide (i = o)
   | 11, _ => isArith i && decide (i = o)
   | 12, 0 => (isElem i && decide (i ≠ 2) && decide (i ≠ 3)) && decide (i = o)
   | 12, 1 => (decide (i = 9) && decide (o = 1)) || ((decide (i = 8) || decide (i = 10)) && decide (o = 0))
   | 12, _ => decide (i ≤ 1) && (if pC p ≤ 8 then decide (o = 8) || decide (o = 9) else decide (o = 10))
   | 14, 0 => decide (i = 7) && decide (o = 0)
   | 14, _ => decide (i = 2) && decide (o = 7)
   | _, _ => true)

/-- Bytes of a tile that TRAN in TRANS mode holds. -/
def tileRowsOk (p : List Byte) : Bool := decide (1 ≤ pTpr p) && decide (pTpr p ≤ 16) && decide (1 ≤ pTrows p)

/-- Fields within their limits. -/
def fieldsOk (kind sub : Nat) (p : List Byte) : Bool :=
  if kind = 15 then decide (pRoute p < 2 ^ 39) && decide (pFctx p < 1024)
  else
    decide (leField p 8 4 < 4) &&
    (match kind with
     | 3 => tileRowsOk p && decide (pTrows p ≤ 64) && destFieldOk (pStatd p)
     | 4 => tileRowsOk p && decide (pTrows p ≤ 64) && (decide (sub ≠ 1) || decide (pTrows p * pTpr p ≤ 256))
     | 5 => tileRowsOk p && decide (pTrows p ≤ 64)
     | 6 => tileRowsOk p && decide (pTrows p ≤ 64)
     | 11 => tileRowsOk p && decide (pTrows p ≤ 64)
     | 12 => tileRowsOk p && decide (pTrows p ≤ (if sub = 1 ∧ pD p = 1 then 128 else 64)) && decide (pD p ≤ 1) &&
             decide (pC p ≤ 16) && (decide (sub ≠ 2) || decide (1 ≤ pC p)) &&
             (decide (sub ≠ 0) || decide (pTrows p * pTpr p * 64 ≤ 16384))
     | 8 => decide (pC p ≤ 7) && (List.range 6).all (fun n => destFieldOk (pDst p (n + 2)))
     | 9 => (List.range 2).all (fun n => destFieldOk (pDst p (n + 2)))
     | 10 => decide (1 ≤ pC p) && decide (pC p ≤ 4)
     | 13 => decide (1 ≤ pC p) && decide (pC p ≤ 64) && decide (1 ≤ pD p) && decide (pD p ≤ 4) && destFieldOk (pCdst p)
     | 14 => decide (2 ≤ pC p) && decide (pC p ≤ 16) && decide (pD p ≤ 1)
     | _ => true)

/-- Modes of a kind. -/
def modes (kind : Nat) : Nat :=
  match kind with
  | 3 => 2 | 4 => 4 | 5 => 3 | 7 => 4 | 8 => 2 | 10 => 2 | 11 => 4 | 12 => 3 | 13 => 2 | 14 => 2
  | _ => 1

/-- Input and output ports of a node (R81, R246, R309, R267). -/
def Graph.inPort (g : Graph) (n : GNode) (p : Nat) : Bool :=
  match n.kind with
  | 0 => decide (p < hdrNin (g.header n))
  | 1 => decide (p < 16)
  | 2 => false
  | 3 => decide (p ≤ n.sub)
  | 4 => decide (p ≤ 1)
  | 5 => decide (p ≤ 1)
  | 8 => decide (p ≤ n.sub)
  | 10 => decide (p < pC n.param)
  | 13 => decide (n.sub = 1) && decide (p = 0)
  | _ => decide (p = 0)
def Graph.outPort (g : Graph) (n : GNode) (p : Nat) : Bool :=
  match n.kind with
  | 0 => decide (p < hdrNout (g.header n))
  | 1 => decide (p < 8)
  | 2 => false
  | 3 => decide (p ≤ 1)
  | 6 => decide (p ≤ 1)
  | 8 => decide (p ≤ 7)
  | 9 => decide (p ≤ 3)
  | 14 => decide (p = 0) || (decide (n.sub = 0) && decide (p = 1))
  | 15 => false
  | _ => decide (p = 0)

/-- Inputs that a mode needs bound. -/
def needsInputs (n : GNode) : List Nat :=
  match n.kind, n.sub with
  | 4, 0 => [1]
  | 4, 3 => [1]
  | 5, _ => [1]
  | 8, 1 => [1]
  | 10, 1 => List.range (pC n.param)
  | _, _ => []

/-! ## The checks (R221) -/

def Graph.node? (g : Graph) (i : Nat) : Option GNode := g.nodes[i]?
def Graph.fed (g : Graph) (i p : Nat) : Bool := g.edges.any (fun e => decide (e.dst = i) && decide (e.dport = p))
def Graph.feeds (g : Graph) (i p : Nat) : Bool := g.edges.any (fun e => decide (e.src = i) && decide (e.sport = p))

/-- Something of a user graph asks for priority 3 (R39): the word of a SEND, or the route of a CHAN node. Headers are
checked by `headOk`. -/
def Graph.asksHigh (g : Graph) : Bool :=
  !g.resident &&
  (g.code.toList.zipIdx.any (fun p => !g.heads.contains p.2 && sendsHigh p.1) ||
   g.nodes.any (fun n => decide (n.kind = 15) && decide (pRoute n.param % 4 = 3)))

/-- A node's own rules; `blocks` is the number of parameter blocks. DST1 of a record is not valid without DST0 (R74); an ME's
edges stand in its route table. -/
def Graph.nodeOk (g : Graph) (blocks i : Nat) (n : GNode) : Bool :=
  decide (n.kind < 16) && decide (n.sub < modes n.kind) && (decide (n.kind ≤ 2) || g.feeds i 0 || !g.feeds i 1) &&
  (if n.kind = 0 then
     (List.range (hdrNin (g.header n))).all (g.fed i) && (List.range (hdrNout (g.header n))).all (g.feeds i)
   else decide (n.lit = noParam) || decide (n.lit < blocks)) &&
  (decide (n.kind ≤ 2) ||
    ((List.range 64).all (fun k => usedByte n.kind k || decide (byteAt n.param k = 0)) && fieldsOk n.kind n.sub n.param &&
     (decide (n.kind = 15) || formatsOk n.kind n.sub n.param) && (needsInputs n).all (g.fed i) &&
     !(decide (n.kind = 4) && decide (n.sub = 1) && decide (pIfmt n.param = 11) && g.fed i 1)))

def Graph.edgeOk (g : Graph) (e : GEdge) : Bool :=
  (match g.node? e.src with | some n => g.outPort n e.sport | none => false) &&
  (match g.node? e.dst with | some n => g.inPort n e.dport | none => false) &&
  decide ((g.edges.filter (fun d => decide (d.dst = e.dst) && decide (d.dport = e.dport))).length = 1)

-- DEDUCED, log 77 (unsafe).
/-- Every rule of R221, the first that is broken by its status. -/
def checkImage (b : Array Byte) : Except LStatus Graph :=
  if !imageHeaderOk b || !imageEntriesOk b then .error .cfgReq
  else
    let g := readGraph b
    let actors := g.nodes.filter (fun n => decide (n.kind = 0))
    if actors.any (fun n => decide (n.lit = 0) || decide (g.code.size < n.lit)) || decide (4096 < g.code.size) ||
        (decide (g.code.size ≠ 0) && !actors.any (fun n => decide (n.lit = 1))) then .error .cfgHdr
    else if !g.heads.all (fun h => frameOk (g.word h)) then .error .cfgFrame
    else if !g.heads.all (fun h => headOk g.resident (g.word h)) || g.asksHigh then .error .cfgHdr
    else if (g.nodes.zipIdx.all (fun p => g.nodeOk ((sect b 3).2 / 64) p.2 p.1)) && g.edges.all g.edgeOk then .ok g
    else .error .cfgNode

/-! ## FORK trees and depths (R222) -/

/-- The rate of a port: 1 but for an actor's. -/
def Graph.outRate (g : Graph) (i p : Nat) : Nat :=
  match g.node? i with | some n => if n.kind = 0 then hdrOutRate (g.header n) p else 1 | none => 1
def Graph.inRate (g : Graph) (i p : Nat) : Nat :=
  match g.node? i with | some n => if n.kind = 0 then hdrInRate (g.header n) p else 1 | none => 1
-- DEDUCED, log 79 (unsafe).
def autoDepth (m : Nat) : Nat := Nat.max 2 (Nat.min 256 (2 * m))

/-- The format of tokens bound for a node (R182). -/
def Graph.fmtInto (g : Graph) (i : Nat) : Nat :=
  match g.node? i with | some n => if 3 ≤ n.kind ∧ n.kind ≤ 14 then pIfmt n.param else 0 | none => 0

-- DEDUCED, log 80 (unsafe).
def forkNode (fmt : Nat) : GNode :=
  { kind := 9, sub := 0, lit := noParam, param := [BitVec.ofNat 8 fmt, BitVec.ofNat 8 fmt] ++ List.replicate 62 0 }

/-- Sizes of a tree's levels, the leaves last: `fuel` bounds the number of levels. -/
def forkLevels : Nat → Nat → List Nat
  | 0, _ => []
  | k + 1, n => if n ≤ 4 then [1] else forkLevels k ((n + 3) / 4) ++ [(n + 3) / 4]

/-- The edges within a tree: each fork of a level to those of the next. -/
def treeEdges (pull : Bool) : Nat → List Nat → List GEdge
  | base, a :: b :: r =>
    ((List.range b).map (fun j =>
      { src := base + j / 4, sport := j % 4, dst := base + a + j, dport := 0, depth := 2, pull := pull })) ++
    treeEdges pull (base + a) (b :: r)
  | _, _ => []

/-- One output port: its edge, or a tree of FORK nodes added after the nodes so far. -/
def splitPort (g : Graph) (base : Nat) (src sport : Nat) (l : List GEdge) : List GNode × List GEdge :=
  match l with
  | [] => ([], [])
  | [e] => ([], [{ e with depth := if e.depth = 0 then autoDepth (Nat.max (g.outRate src sport) (g.inRate e.dst e.dport)) else e.depth }])
  | e :: _ =>
    let lv := forkLevels 32 l.length
    let pull := l.any (fun e => e.pull)
    let count := lv.foldl (· + ·) 0
    let leaf := base + count - lv.getLast?.getD 0
    let root : GEdge := { src := src, sport := sport, dst := base, dport := 0, depth := autoDepth (g.outRate src sport), pull := pull }
    let outs := l.zipIdx.map (fun p =>
      { p.1 with src := leaf + p.2 / 4, sport := p.2 % 4, pull := pull
                 depth := if p.1.depth = 0 then autoDepth (g.inRate p.1.dst p.1.dport) else p.1.depth })
    (List.replicate count (forkNode (g.fmtInto e.dst)), root :: (treeEdges pull base lv ++ outs))

/-- Every port with several edges has its tree, and every edge its depth. -/
def expand (g : Graph) : Graph :=
  let ports := g.nodes.zipIdx.flatMap (fun p => (List.range 16).map (fun k => (p.2, k)))
  let r := ports.foldl (fun (a : List GNode × List GEdge) q =>
    let x := splitPort g (g.nodes.length + a.1.length) q.1 q.2
      (g.edges.filter (fun e => decide (e.src = q.1) && decide (e.sport = q.2)))
    (a.1 ++ x.1, a.2 ++ x.2)) ([], [])
  { g with nodes := g.nodes ++ r.1, edges := r.2 }

/-! ## Placement (R222, R308) -/

/-- What a tile holds while nodes are placed. -/
structure TileUse where
  used  : List Nat := []
  heads : List Nat := []
  words : Nat := 0
  pool  : Nat := 0
  deriving DecidableEq, Repr

/-- Node numbers of a kind (R74). -/
def kindNumbers (kind : Nat) : List Nat :=
  match kind with
  | 1 => [16] | 2 => [17] | 3 => [0, 1] | 4 => [2, 3] | 5 => [4] | 6 => [5] | 7 => [6] | 8 => [7] | 9 => [8, 9] | 10 => [10]
  | 11 => [11] | 12 => [12] | 13 => [13, 14] | 14 => [15]
  | _ => []

/-- The lowest run of free numbers from 18 upward. -/
def freeRun (used : List Nat) (n : Nat) : Option Nat :=
  ((List.range 1006).map (· + 18)).find? (fun a => decide (a + n ≤ 1024) && (List.range n).all (fun i => !used.contains (a + i)))

/-- Numbers a node takes: one, or the run of an actor's main and extension records (R75). -/
def Graph.numbers (g : Graph) (u : TileUse) (n : GNode) : Option (List Nat) :=
  if n.kind = 0 then
    let k := Nat.max 1 ((hdrNout (g.header n) + 1) / 2)
    (freeRun u.used k).map (fun a => (List.range k).map (a + ·))
  else if n.kind = 15 then (freeRun u.used 1).map (fun a => [a])
  else ((kindNumbers n.kind).find? (fun a => !u.used.contains a)).map (fun a => [a])

/-- The words of the handler whose header is at `h`. -/
def Graph.handlerEnd (g : Graph) (h : Nat) : Nat := (g.heads.find? (fun k => decide (h < k))).getD g.code.size

/-- The depths that end at a node, with those of a MERGE's ports that no edge feeds. -/
def Graph.poolOf (g : Graph) (i : Nat) (n : GNode) : Nat :=
  ((g.edges.filter (fun e => decide (e.dst = i))).map (fun e => e.depth)).foldl (· + ·) 0 +
  (if n.kind = 10 then 2 * ((List.range (pC n.param)).filter (fun p => !g.fed i p)).length else 0)

/-- A tile takes a node. -/
def Graph.takeNode (g : Graph) (i : Nat) (n : GNode) (u : TileUse) : Option (Nat × TileUse) :=
  match g.numbers u n with
  | none => none
  | some l =>
    let h := n.lit - 1
    let new := decide (n.kind = 0) && !u.heads.contains h
    let words := if new then u.words + (g.handlerEnd h - h) else u.words
    let pool := u.pool + g.poolOf i n
    if 4096 < words ∨ 512 < pool then none
    else some (l.headD 0, { used := u.used ++ l, heads := if new then u.heads ++ [h] else u.heads, words := words, pool := pool })

/-- The first tile from a position that takes a node; `n` tiles are left. -/
def Graph.seek (g : Graph) (i : Nat) (x : GNode) : Nat → Nat → Tab TileUse → Option (Nat × Nat × Tab TileUse)
  | 0, _, _ => none
  | n + 1, p, t =>
    match g.takeNode i x (tabGet {} t p) with
    | some (a, u) => some (p, a, tabSet t p u)
    | none => Graph.seek g i x n (p + 1) t

/-- Every node's tile position and number, in image order. -/
def Graph.assign (g : Graph) (size : Nat) : List (GNode × Nat) → Nat → Tab TileUse → List (Nat × Nat) →
    Option (List (Nat × Nat) × Tab TileUse)
  | [], _, t, acc => some (acc.reverse, t)
  | (x, i) :: r, p, t, acc =>
    match g.seek i x (size - p) p t with
    | none => none
    | some (q, a, t) => Graph.assign g size r q t ((q, a) :: acc)

/-- A destination field (R73). -/
def destBits (w p node port : Nat) : Nat := 2 ^ 23 + p % w * 2 ^ 18 + p / w * 2 ^ 14 + node * 2 ^ 4 + port

-- DEDUCED, log 81 (unsafe).
/-- Words of the code store of a tile: its handlers in the order of their headers in the image, packed from 0. -/
def Graph.store (g : Graph) : List Nat → Nat → Tab CodeWord × List (Nat × Nat)
  | [], _ => ([], [])
  | h :: r, at_ =>
    let n := g.handlerEnd h - h
    let l := (List.range n).map (fun k => (at_ + k, { word := g.code.getD (h + k) 0, header := decide (k = 0) }))
    let x := Graph.store g r (at_ + n)
    (l ++ x.1, (h, at_) :: x.2)

/-- The edge from a node's port. -/
def Graph.out? (g : Graph) (i p : Nat) : Option GEdge := g.edges.find? (fun e => decide (e.src = i) && decide (e.sport = p))

/-- Destination fields added to a block: DSTn for the outputs from 2 up. -/
def fillDsts (p : List Byte) (l : List (Nat × Nat)) : List Byte :=
  l.foldl (fun p q => if q.1 < 2 then p else
    let o := 32 + 4 * (q.1 - 2)
    p.take o ++ bytesOf 4 q.2 ++ p.drop (o + 4)) p

/-- Records, parameters and routes that one node adds to its tile; `at_` gives the entry word of a header. -/
def Graph.install (g : Graph) (w : Nat) (place : Array (Nat × Nat)) (at_ : List (Nat × Nat)) (i : Nat) (n : GNode) (a : Nat)
    (t : TileCfg) : TileCfg :=
  let out : List (Nat × Nat × Bool) := (List.range 8).filterMap (fun p => (g.out? i p).map (fun e =>
    let q := place.getD e.dst (0, 0)
    (p, destBits w q.1 q.2 e.dport, e.pull)))
  let d := fun p => match out.find? (fun x => decide (x.1 = p)) with | some x => x.2.1 | none => 0
  let pl := fun p => out.any (fun x => decide (x.1 = p) && x.2.2)
  let rec_ := fun (sub p ord lit : Nat) => BitVec.ofNat 96 (n.kind * 2 ^ 92 + sub * 2 ^ 84 + d p * 2 ^ 60 + d (p + 1) * 2 ^ 36 +
    (if pl p then 2 ^ 35 else 0) + (if pl (p + 1) then 2 ^ 34 else 0) + ord * 2 ^ 33 + lit)
  let pulls : List Nat := (out.filter (fun x => x.2.2)).map (fun x => portKey a x.1)
  let pairs : List (Nat × Nat) := out.map (fun x => (x.1, x.2.1))
  let t := { t with pulls := t.pulls ++ pulls }
  if n.kind = 0 then
    let h := n.lit - 1
    let e := ((at_.find? (fun q => decide (q.1 = h))).map (fun q => q.2)).getD 0 + 1
    let ord := if hdrOrd (g.word h) then 1 else 0
    let main := tabSet t.nodes a (rec_ 0 0 ord e)
    let more := (List.range ((hdrNout (g.word h) + 1) / 2)).drop 1
    { t with nodes := more.foldl (fun m k => tabSet m (a + k) (rec_ 1 (2 * k) ord 0)) main }
  else if n.kind = 1 then
    { t with nodes := tabSet t.nodes a (BitVec.ofNat 96 (2 ^ 92))
             route := out.foldl (fun m (x : Nat × Nat × Bool) => tabSet m x.1 (BitVec.ofNat 24 x.2.1)) t.route }
  else if n.kind = 2 then { t with nodes := tabSet t.nodes a (BitVec.ofNat 96 (2 * 2 ^ 92)) }
  else
    { t with nodes := tabSet t.nodes a (rec_ n.sub 0 0 a)
             params := tabSet t.params a (if n.kind = 8 ∨ n.kind = 9 then fillDsts n.param pairs else n.param) }

/-- An edge's depth at its consumer's tile. -/
def addDepth (w : Nat) (t : Tab TileCfg) (p node port depth : Nat) : Tab TileCfg :=
  match tabFind t p with
  | some c => tabSet t p { c with depths := tabSet c.depths (portKey node port) depth }
  | none => t


-- DEDUCED, log 181 (unsafe).
/-- Destinations that the parameter block of node `i` names, which no edge of the image binds: an edge each (R73, R245). -/
def Graph.namedDests (g : Graph) (i : Nat) (n : GNode) : List Nat :=
  (match n.kind with
   | 3 => [pStatd n.param]
   | 13 => [pCdst n.param]
   | 8 => ((List.range 6).filter (fun k => !g.feeds i (k + 2))).map (fun k => pDst n.param (k + 2))
   | 9 => ((List.range 2).filter (fun k => !g.feeds i (k + 2))).map (fun k => pDst n.param (k + 2))
   | _ => []).filter (· ≠ 0)
def Graph.named (g : Graph) : List Dest := (g.nodes.zipIdx.flatMap (fun x => g.namedDests x.2 x.1)).filterMap readDest

/-- What the named edges take of the tiles' pools before a node is placed: two entries each (R222). -/
def namedUse (w : Nat) (l : List Dest) : Tab TileUse :=
  l.foldl (fun t q => let u := tabGet {} t (q.dy * w + q.dx); tabSet t (q.dy * w + q.dx) { u with pool := u.pool + 2 }) []

/-- Every destination that a block names lies in the rectangle and names an input port of a node there, which no other edge
enters (R74, R81); `place` says where the nodes stand. -/
def namedOk (g : Graph) (w h : Nat) (place : Array (Nat × Nat)) : Bool :=
  g.named.all (fun q => decide (q.dx < w) && decide (q.dy < h) && decide ((g.named.filter (fun r => r == q)).length = 1) &&
    g.nodes.zipIdx.any (fun x => decide (place.getD x.2 (0, 0) = (q.dy * w + q.dx, q.node)) && g.inPort x.1 q.port && !g.fed x.2 q.port))

/-- The configuration of one shape, where every rule holds. -/
def placeShape (g : Graph) (w h : Nat) : Option (List TileCfg) :=
  match g.assign (w * h) g.nodes.zipIdx 0 (namedUse w g.named) [] with
  | none => none
  | some (l, use) =>
    let place := l.toArray
    let empty : Tab TileCfg := (List.range (w * h)).map (fun p =>
      (p, { dx := p % w, dy := p / w, code := [], nodes := [], params := [], route := [], depths := [], pulls := [] }))
    let stores : Tab (List (Nat × Nat) × Tab CodeWord) := use.map (fun u =>
      let x := g.store (u.2.heads.mergeSort (· ≤ ·)) 0
      (u.1, (x.2, x.1)))
    let t := stores.foldl (fun t u =>
      match tabFind t u.1 with | some c => tabSet t u.1 { c with code := u.2.2 } | none => t) empty
    let t := g.nodes.zipIdx.foldl (fun t (x : GNode × Nat) =>
      let q := place.getD x.2 (0, 0)
      match tabFind t q.1 with
      | some c => tabSet t q.1 (g.install w place (tabGet ([], []) stores q.1).1 x.2 x.1 q.2 c)
      | none => t) t
    let t := g.edges.foldl (fun t e => let q := place.getD e.dst (0, 0); addDepth w t q.1 q.2 e.dport e.depth) t
    let t := g.nodes.zipIdx.foldl (fun t (x : GNode × Nat) =>
      if x.1.kind = 10 then
        let q := place.getD x.2 (0, 0)
        ((List.range (pC x.1.param)).filter (fun p => !g.fed x.2 p)).foldl (fun t p => addDepth w t q.1 q.2 p 2) t
      else t) t
    let t := g.named.foldl (fun t q => addDepth w t (q.dy * w + q.dx) q.node q.port 2) t
    if namedOk g w h place then some (t.map (fun p => p.2)) else none

/-- The shapes in Utund's order. -/
def shapeOrder : List (Nat × Nat) :=
  (List.range 257).flatMap (fun a => (List.range 16).filterMap (fun k =>
    if a % (k + 1) = 0 ∧ 1 ≤ a / (k + 1) ∧ a / (k + 1) ≤ 16 then some (a / (k + 1), k + 1) else none))

/-- The side of the largest shape under the levels (R225). -/
def shapeBoundOf (l : List Level) : Nat :=
  l.foldl (fun m x => Nat.min m (if x.domain = 1 then 1 else if x.domain = 2 then 2 else if x.domain = 3 then 4 else 16)) 16

/-- A placed shape. -/
def tryShape (g : Graph) (q : Nat × Nat) : Option (Nat × Nat × List TileCfg) :=
  (placeShape g q.1 q.2).map (fun l => (q.1, q.2, l))

/-- The first shape of the list that holds every rule. -/
def firstShape (g : Graph) : List (Nat × Nat) → Option (Nat × Nat × List TileCfg)
  | [] => none
  | q :: r => match tryShape g q with | some x => some x | none => firstShape g r

/-- Utund's answer for a launch: the first shape within its bound, or a status. -/
def utund (img : List Byte) (levels : List Level) : Except LStatus (Nat × Nat × List TileCfg) :=
  match checkImage img.toArray with
  | .error e => .error e
  | .ok g =>
    if g.resident then .error .resident
    else
      let g := expand g
      let b := shapeBoundOf levels
      match firstShape g (shapeOrder.filter (fun q => decide (q.1 ≤ b) && decide (q.2 ≤ b))) with
      | some x => .ok x
      | none => if (firstShape g shapeOrder).isSome then .error .levels else .error .cfgNode

/-! ## The configuration cache (R223) -/

def State.defectMap (s : State) (stk : Nat) : Nat := (tabGet 0 s.defects stk).toNat
/-- The key of a shape on a stack. -/
def cfgKey (s : State) (stk : Nat) (img : List Byte) (w h : Nat) : List Byte :=
  (sha512 (img ++ [BitVec.ofNat 8 w, BitVec.ofNat 8 h] ++ bytesOf 34 (s.defectMap stk) ++ bytesOf 4 s.fwver.toNat)).take 32

-- DEDUCED, log 110 (unsafe).
/-- Some instance, live or saved, was made from a configuration. -/
def cfgInUse (s : State) (stk : Nat) (key : List Byte) : Bool := s.insts.any (fun i => decide (i.stk = stk) && decide (i.cfg = key))

/-- The least recently loaded entry that may be replaced. -/
def cacheVictim (s : State) (stk : Nat) (l : List PlacedCfg) : Option PlacedCfg :=
  (l.filter (fun c => !cfgInUse s stk c.key)).foldl (fun b c =>
    match b with | none => some c | some d => if c.loaded < d.loaded then some c else some d) none

/-- A configuration enters a stack's cache. -/
def cacheInsert (s : State) (stk : Nat) (c : PlacedCfg) : State :=
  let l := tabGet [] s.cache stk
  if l.any (fun d => decide (d.key = c.key)) then s
  else if l.length < 4096 then { s with cache := tabSet s.cache stk (l ++ [c]) }
  else
    match cacheVictim s stk l with
    | none => s
    | some v => { s with cache := tabSet s.cache stk (l.filter (fun d => decide (d.key ≠ v.key)) ++ [c]) }

/-- A load of an entry makes it the most recent. -/
def cacheTouch (s : State) (stk : Nat) (key : List Byte) : State :=
  { s with cache := tabSet s.cache stk ((tabGet [] s.cache stk).map (fun c => if c.key = key then { c with loaded := s.nextAge } else c))
           nextAge := s.nextAge + 1 }

/-! ## The step (R315) -/

/-- UTUND_PLACE: hash, checks, the first shape, plane levels. The launch is a candidate when all pass. -/
def placeLaunch (lid ctx : Nat) (img : List Byte) (s : State) : State :=
  match s.launch? ctx lid with
  | none => s
  | some l =>
    if l.st ≠ .eligible ∨ l.placed.isSome then s
    else
      let hash := (sha512 img).take 32
      if hash ≠ l.ghash then completeLaunch s l .hash
      else
        match utund img l.levels with
        | .error e => completeLaunch s l e
        | .ok (w, h, tiles) =>
          if !planeLevelsOk s l then completeLaunch s l .levels
          else
            let c : PlacedCfg := { key := cfgKey s 0 img w h, hash := hash, w := w, h := h, tiles := tiles, loaded := 0 }
            (s.setLaunch { l with placed := some c, image := img }).later .arbitrationPass
def execUtundPlace (lid ctx : Nat) (image : List Byte) (s : State) : Outcome := .next (placeLaunch lid ctx image s)

end Sys2Proof.Machine
end

