-- ==== Sys2Proof/Machine/Streams.lean ====
section
/-! DEFINITION. The stream operators that compute and route (R244 to R259, R268, R270 to R273). A step of a node takes at
most one input position, or sends one token that waits to leave. -/

namespace Sys2Proof.Machine

/-! ## Parameters, positions, outputs -/

def Tile.block (x : Tile) (n : Nat) : List Byte := tabGet [] x.params n
def Tile.soOf (x : Tile) (n : Nat) : SoState := tabGet {} x.so n
def State.setSo (s : State) (t : TileId) (n : Nat) (v : SoState) : State := s.setTile t { s.tile t with so := tabSet (s.tile t).so n v }

/-- What stands at the head of a port: a skipped position of a token's stream, or the token. -/
inductive Head
  | skip (k : Token)
  | tok (k : Token)
  deriving DecidableEq, Repr
def Head.token : Head → Token
  | .skip k => k
  | .tok k => k
def Head.isSkip : Head → Bool
  | .skip _ => true
  | .tok _ => false
/-- The last position of a stream. -/
def Head.last : Head → Bool
  | .skip _ => false
  | .tok k => k.last
def headAt (s : State) (t : TileId) (n port : Nat) : Option Head :=
  (headTok s t n port).map (fun k => if k.skip = 0 then .tok k else .skip k)

/-- One position leaves a port. -/
def dropHead (s : State) (t : TileId) (n port : Nat) : State :=
  let x := s.tile t
  let key := portKey n port
  match tabFind x.edges key with
  | none => s
  | some e =>
    match e.fifo with
    | [] => s
    | q :: r =>
      if q.tok.skip = 0 then popTok s t n port
      else s.setEdge t key { e with fifo := { q with tok := { q.tok with skip := q.tok.skip - 1 } } :: r }

/-- An output can take n positions, of which the last may be a token: a place in its edge, and on a pull edge requests that
cover them (R244, R268). -/
def canEmit (s : State) (t : TileId) (n port k : Nat) : Bool :=
  let key := portKey n port
  match tabFind (s.tile t).outs key with
  | none => true
  | some o => decide (1 ≤ outSpace s t key) && (!o.pull || decide (o.made + k ≤ o.covered))

/-- The context a tile's configuration serves. -/
def tileCtx (s : State) (t : TileId) : Nat := match (s.tile t).inst.bind s.inst? with | some i => i.ctx | none => 0

/-- A token of a node, in a format, with `n` bytes. -/
def soTok (s : State) (t : TileId) (tag : BitVec 32) (fmt v n : Nat) (last : Bool) : Token :=
  { blankTok with ctx := BitVec.ofNat 10 (tileCtx s t), tag := tag, fmt := BitVec.ofNat 4 fmt, payload := cutPayload v n
                  bytes := BitVec.ofNat 7 n, last := last }

/-- A token leaves by an output port, at the priority of its edge. -/
def sendOut (s : State) (t : TileId) (n port : Nat) (k : Token) : State :=
  match tabFind (s.tile t).outs (portKey n port) with
  | none => s
  | some o => emit s t (portKey n port) { k with pri := o.pri }
/-- A position of an output is skipped; `bytes` is the length of its token where it has to be sent (R43). -/
def skipOut (s : State) (t : TileId) (n port : Nat) (tag : BitVec 32) (fmt bytes : Nat) : State :=
  skipOne s t (portKey n port) (soTok s t tag fmt 0 bytes false)
/-- Whether the next skipped position of an output is sent all the same (R43). -/
def skipSends (s : State) (t : TileId) (n port : Nat) : Bool :=
  match tabFind (s.tile t).outs (portKey n port) with | some o => decide (255 ≤ o.skip) | none => false

/-- The node's own REQ on a pull edge, when its free places have reached half the depth (R268). -/
def askEdge (s : State) (t : TileId) (key : Nat) : State :=
  match tabFind (s.tile t).edges key with
  | none => s
  | some e =>
    let free := e.depth - (e.fifo.length + e.early.length + (e.asked - e.arrived))
    if e.pull && decide (0 < free) && decide (e.depth ≤ 2 * free) then
      askMore s t key free (match tabFind (s.tile t).outs key with | some o => o.pri | none => 0) (tileCtx s t)
    else s

/-! ## Lanes in a format code (R33, R42, R124) -/

def fmtOfCode (c : Nat) : Option Fmt :=
  if c = 2 then some fmtE4M3 else if c = 3 then some fmtE5M2 else if c = 4 then some fmtFP16 else if c = 5 then some fmtBF16
  else if c = 6 then some fmtFP32 else none
/-- Bits of an element. -/
def codeBits (c : Nat) : Nat := 8 * (fmtBytes c).getD 1
def laneList (w n v : Nat) : List Nat := (List.range n).map (fun i => v / 2 ^ (w * i) % 2 ^ w)
def packLanes (w : Nat) : List Nat → Nat
  | [] => 0
  | a :: r => a + 2 ^ w * packLanes w r
/-- The elements of a token in a format. -/
def tokLanes (c : Nat) (k : Token) : List Nat := laneList (codeBits c) (k.bytes.toNat * 8 / codeBits c) k.payload.toNat

/-- The exact value of an element. -/
def codeVal (c x : Nat) : FVal :=
  match fmtOfCode c with
  | some f => f.val x
  | none => FVal.ofInt (if c = 9 then (x : Int) else sextInt x (codeBits c))
/-- A value in a format, saturating (R24). -/
def codeEnc (c : Nat) (v : FVal) : Nat × Flags :=
  match fmtOfCode c with
  | some f => f.enc true v
  | none =>
    let w := codeBits c
    let r := if c = 9 then v.toIntSat 0 ((2 : Int) ^ w - 1) else v.toIntSat (-((2 : Int) ^ (w - 1))) ((2 : Int) ^ (w - 1) - 1)
    (toBits w r.1, r.2)

inductive LaneOp | add | sub | mul | max
  deriving DecidableEq, Repr
/-- One rounded operation; INT32 wraps. -/
def laneOp (c : Nat) (op : LaneOp) (a b : Nat) : Nat × Flags :=
  match fmtOfCode c with
  | some f =>
    (match op with
     | .add => fAdd f a b
     | .sub => fSub f a b
     | .mul => fMul f a b
     | .max => fMax f a b)
  | none =>
    let x := sextInt a 32
    let y := sextInt b 32
    (match op with
     | .add => toBits 32 (x + y)
     | .sub => toBits 32 (x - y)
     | .mul => toBits 32 (x * y)
     | .max => toBits 32 (if x < y then y else x), .none)

def zipOp (c : Nat) (op : LaneOp) (a b : List Nat) : List (Nat × Flags) := (a.zip b).map (fun p => laneOp c op p.1 p.2)

/-- The flag counters after a token (R272). -/
def SoFlg.count (f : SoFlg) (l : List Flags) : SoFlg :=
  let n := fun (g : Flags → Bool) (c : Nat) => Nat.min 65535 (c + (l.filter g).length)
  { iv := n (fun x => x.iv) f.iv, ov := n (fun x => x.ov) f.ov, uf := n (fun x => x.uf) f.uf, ix := n (fun x => x.ix) f.ix }
/-- Result lanes as a token's payload and its length in bytes. -/
def lanesOut (c : Nat) (l : List (Nat × Flags)) : Nat × Nat := (packLanes (codeBits c) (l.map (·.1)), l.length * codeBits c / 8)

/-! ## Positions and streams (R247) -/

/-- The tile in positions, a position's row and the number within its row. -/
def tileLen (p : List Byte) : Nat := Nat.max 1 (pTrows p * pTpr p)
def rowOf (p : List Byte) (n : Nat) : Nat := n % tileLen p / Nat.max 1 (pTpr p)
def vecCount (rows : Nat) : Nat := (rows + 7) / 8

/-- The counters after one position: a LAST ends the stream, and the end of a tile its vectors. -/
def SoState.passed (v : SoState) (p : List Byte) (h : Head) : SoState :=
  let n := v.pos + 1
  if h.last then { v with pos := 0, cur := none, vecs := [], finished := true }
  else { v with pos := n, cur := some h.token.tag, vecs := if n % tileLen p = 0 then [] else v.vecs, finished := false }

-- DEDUCED, log 83 (unsafe).
/-- A stateful node serves one tag at a time. -/
def SoState.serves (v : SoState) (h : Head) : Bool :=
  match v.cur with | none => true | some t => decide (t = h.token.tag)

/-- A row vector as it is held, in lanes of 32 bits: one in a 16-bit format, as REDU sends it, is widened (R247, R255). -/
def wideLanes (k : Token) : BitVec 512 :=
  match fmtOfCode k.fmt.toNat with
  | some f =>
    if codeBits k.fmt.toNat = 16 then BitVec.ofNat 512 (packLanes 32 ((laneList 16 16 k.payload.toNat).map (fun x => (fConv f fmtFP32 false x).1)))
    else k.payload
  | none => k.payload

/-- Lane of a row vector held for the tile, row m (R247). -/
def SoState.rowLane (v : SoState) (m lane : Nat) : Nat := (v.vecs.getD (m / 8) 0).toNat / 2 ^ (32 * lane) % 2 ^ 32

/-- One rounded operation of an element with an FP32 value of a row vector (R247, R251, R252); INT32 wraps. -/
def rowOp (c : Nat) (op : LaneOp) (a v : Nat) : Nat × Flags :=
  match fmtOfCode c with
  | some f =>
    let x := f.val a
    let y := fmtFP32.val v
    f.rndOp (match op with
      | .add => x.add y
      | .sub => x.add y.neg
      | _ => x.mul y)
  | none => laneOp c op a v

/-- One vector token of the tile is taken on port 1; a skipped position is a zero token. -/
def takeVec (s : State) (t : TileId) (n : Nat) (v : SoState) (rows : Bool) : State :=
  match headAt s t n 1 with
  | none => s
  | some h =>
    if !v.serves h then s
    else
      let pay : BitVec 512 := match h with | .skip _ => 0 | .tok k => if rows then wideLanes k else k.payload
      let s := dropHead s t n 1
      progress (s.setSo t n { v with vecs := v.vecs ++ [pay], cur := some h.token.tag }) (s.tile t).inst

/-! ## Faults of a node (R46, R273) -/

/-- A TOKEN record of a node that discards a token. -/
def soTokenFault (s : State) (t : TileId) (k : Token) (sub val : Nat) : State :=
  postNodeFault s t k.ctx.toNat { code := .token, detail := fld 0 2 sub + fld 8 8 val } k.node.toNat k.tag.toNat .discarded

/-- A residue mismatch: computed again once, and a second one stops the node. -/
def soStruck (s : State) (t : TileId) (n : Nat) : State × Bool :=
  let place := tileKey t + 2 ^ 16 * n
  if s.struck 7 place then
    let s := s.spend 7 place
    if s.struck 7 place then (s.spend 7 place, true) else (s, false)
  else (s, false)
-- DEDUCED, log 90 (unsafe).
def soResidue (s : State) (t : TileId) (n : Nat) (k : Token) : State :=
  let s := s.setSo t n { (s.tile t).soOf n with dead := true }
  (postNodeFault s t k.ctx.toNat { code := .residue, detail := unitDetail 7 n } n k.tag.toNat .halted).later (.soResidueFault t n)

/-- A node that computes takes a position: `k` is given the state and the node's. -/
def compute (s : State) (t : TileId) (n : Nat) (h : Head) (k : State → State) : State :=
  let (s, bad) := soStruck s t n
  if bad then soResidue s t n h.token else progress (k s) (s.tile t).inst

/-- Whether a node may step: its tile runs, and it has not stopped. -/
def soRuns (s : State) (t : TileId) (n : Nat) : Bool :=
  let x := s.tile t
  x.inst.isSome && !x.stopped && x.bound n && !(x.soOf n).dead

/-- The first token that waits to leave goes, where its edge has a place. -/
def flushOut (s : State) (t : TileId) (n : Nat) : State :=
  let v := (s.tile t).soOf n
  match v.outq with
  | [] => s
  | (p, k) :: r =>
    if canEmit s t n p 1 then progress (sendOut (s.setSo t n { v with outq := r }) t n p k) (s.tile t).inst else s

/-- Requests of the node's pull edges, then what waits to leave, then a position. -/
def soStep (t : TileId) (n : Nat) (s : State) (k : Tile → SoState → List Byte → State) : State :=
  if !soRuns s t n then s
  else
    let keys := (List.range 4).map (fun p => portKey n p)
    match keys.find? (fun key => decide (askEdge s t key ≠ s)) with
    | some key => askEdge s t key
    | none =>
      let x := s.tile t
      let v := x.soOf n
      if v.outq.isEmpty then k x v (x.block n) else flushOut s t n

/-! ## CONV (R248 to R250, R270) -/

/-- Vector tokens of a tile of RESCALE: row scales, column scales, biases. -/
def convVecs (p : List Byte) : Nat := (pTrows p + 15) / 16 + 2 * ((8 * pTpr p + 15) / 16)
def SoState.scaleAt (v : SoState) (base i : Nat) : Nat := (v.vecs.getD (base + i / 16) 0).toNat / 2 ^ (32 * (i % 16)) % 2 ^ 32

/-- The unbiased exponent of a finite nonzero value. -/
def expOf : FVal → Option Int
  | .fin _ m e => if m = 0 then none else some (e + (bitLen m : Int) - 1)
  | _ => none

/-- One element through R30, or through R24: the value before the last step, the result, the flags of all steps, and
whether the last one clamped. -/
structure ConvElem where
  v   : FVal
  out : Nat
  fl  : Flags
  clamp : Bool
  deriving DecidableEq, Repr
def convElem (rescale : Bool) (i o : Nat) (row col bias x : Nat) : ConvElem :=
  let v0 := codeVal i x
  let (v, fl) :=
    if rescale then
      let a := fmtFP32.enc false v0
      let b := fMul fmtFP32 a.1 row
      let c := fMul fmtFP32 b.1 col
      let d := fAdd fmtFP32 c.1 bias
      (fmtFP32.val d.1, ((a.2.join b.2).join c.2).join d.2)
    else (v0, Flags.none)
  let r := codeEnc o v
  { v := v, out := r.1, fl := fl.join r.2, clamp := r.2.ov || (match v with | .inf _ => true | _ => false) }
def ConvElem.neg (e : ConvElem) : Bool :=
  match e.v with
  | .fin s _ _ => s
  | .inf s => s
  | _ => false

def bitsOf (l : List Bool) : Nat := packLanes 1 (l.map (fun b => if b then 1 else 0))

/-- The statistics after a token. -/
def Stat.add (a : Stat) (o : Nat) (l : List ConvElem) : Stat :=
  let c := fun (g : ConvElem → Bool) => (l.filter g).length
  { a with
    elems := a.elems + l.length, ovf := a.ovf + c (fun e => e.clamp), unf := a.unf + c (fun e => e.fl.uf)
    zero := a.zero + c (fun e => decide (e.out % 2 ^ (codeBits o - 1) = 0) && (decide (e.out = 0) || (fmtOfCode o).isSome))
    ivc := a.ivc + c (fun e => e.fl.iv)
    maxexp := l.foldl (fun m e => match expOf e.v with | some x => max m x | none => m) a.maxexp }
/-- The record of R270. -/
def Stat.record (a : Stat) (tag : BitVec 32) : Nat :=
  fld 0 1 0x53 + fld 2 2 a.nsrc + fld 4 4 tag.toNat + fld 8 8 a.elems + fld 0x10 8 a.ovf + fld 0x18 8 a.unf + fld 0x20 8 a.zero +
  fld 0x28 8 a.ivc + fld 0x30 8 a.skipt + fld 0x38 2 (toBits 16 a.maxexp)

/-- The output of STAT tokens, beside ports 0 to 7. -/
def statPort : Nat := 8

-- DEDUCED, log 84 (unsafe).
def convStep (t : TileId) (n : Nat) (s : State) : State :=
  soStep t n s (fun x v p =>
    let rescale := decide (recSub (x.rec_ n) = 1)
    let scaled := rescale && (tabFind x.edges (portKey n 1)).isSome
    if scaled && decide (v.pos % tileLen p = 0) && decide (v.vecs.length < convVecs p) then takeVec s t n v false
    else
      match headAt s t n 0 with
      | none => s
      | some h =>
        if !v.serves h || !canEmit s t n 0 1 || !canEmit s t n 1 1 || !canEmit s t n statPort 1 then s
        else
          compute s t n h (fun s =>
            let i := pIfmt p
            let o := pOfmt p
            let w := Nat.max (codeBits i) (codeBits o)
            let xs := match h with | .skip _ => List.replicate (512 / w) 0 | .tok k => tokLanes i k
            if 64 < xs.length * codeBits o / 8 then soTokenFault (popTok s t n 0) t h.token 8 (h.token.header % 2 ^ 64)
            else
              let m := rowOf p v.pos
              let c0 := v.pos % Nat.max 1 (pTpr p) * 8
              let nr := (pTrows p + 15) / 16
              let nc := (8 * pTpr p + 15) / 16
              let es := xs.zipIdx.map (fun q =>
                if scaled then convElem true i o (v.scaleAt 0 m) (v.scaleAt nr (c0 + q.2)) (v.scaleAt (nr + nc) (c0 + q.2)) q.1
                else convElem rescale i o (pKsc p) 0x3F800000 (pKbias p) q.1)
              let out := packLanes (codeBits o) (es.map (fun e => e.out))
              let tag := h.token.tag
              let skips := pSken p && !h.last && decide (out = 0)
              let st := v.stat.add o es
              let st := if skips && !skipSends s t n 0 then { st with skipt := st.skipt + 1 } else st
              let main := soTok s t tag o out (es.length * codeBits o / 8) h.last
              let clamped := es.any (fun e => e.clamp)
              let ov := packLanes 32 [m, c0, bitsOf (es.map (fun e => e.clamp)) % 2 ^ 32, bitsOf (es.map (fun e => e.clamp && e.neg)) % 2 ^ 32]
              let q := (if clamped then [(1, soTok s t tag 11 ov 16 false)] else []) ++
                (if h.last then [(1, soTok s t tag 11 0 0 true)] else []) ++
                (if h.last ∧ pStatd p ≠ 0 then [(statPort, { soTok s t tag 0 (st.record tag) 64 h.last with kind := 3 })] else [])
              let v := { v.passed p h with stat := if h.last then {} else st, flg := v.flg.count (es.map (fun e => e.fl)), outq := q }
              let s := (dropHead s t n 0).setSo t n v
              if skips then skipOut s t n 0 tag o main.bytes.toNat else sendOut s t n 0 main))
def execConvToken (t : TileId) (node : Nat) (s : State) : Outcome :=
  .next (if node < 2 then convStep t node s else s)

/-! ## ADDE (R251, R271) -/

/-- Two paired tokens that do not agree (R247). -/
def pairBad (a b : Token) : Bool := decide (a.tag ≠ b.tag) || decide (a.fmt ≠ b.fmt) || decide (a.bytes ≠ b.bytes)

/-- Both tokens of a mismatched pair are discarded; the position carries nothing but a LAST (R247). -/
def dropPair (s : State) (t : TileId) (n : Nat) (v : SoState) (a b : Token) (fmt : Nat) : State :=
  let last := a.last || b.last
  let s := (dropHead (dropHead s t n 0) t n 1).setSo t n { v with finished := last, cur := if last then none else v.cur }
  let s := soTokenFault s t b 8 (b.header % 2 ^ 64)
  let s := if last then sendOut s t n 0 (soTok s t a.tag fmt 0 a.bytes.toNat true) else skipOut s t n 0 a.tag fmt a.bytes.toNat
  progress s (s.tile t).inst

def satAdd (a b : Nat) : Nat := Nat.min (2 ^ 64 - 1) (a + b)
/-- Two STAT records merged. -/
def mergeStat (a b : Nat) : Nat :=
  let f := fun (o n : Nat) (v : Nat) => v / 2 ^ (8 * o) % 2 ^ (8 * n)
  let sums := [8, 0x10, 0x18, 0x20, 0x28, 0x30].map (fun o => fld o 8 (satAdd (f o 8 a) (f o 8 b)))
  let e := max (sextInt (f 0x38 2 a) 16) (sextInt (f 0x38 2 b) 16)
  a % 2 ^ 16 + fld 2 2 (f 2 2 a + f 2 2 b) + fld 4 4 (f 4 4 a) + sums.foldl (· + ·) 0 + fld 0x38 2 (toBits 16 e)

-- DEDUCED, log 85 (unsafe).
/-- The pair at the heads of ports 0 and 1. -/
def addPair (t : TileId) (n : Nat) (s : State) (v : SoState) (p : List Byte) : State :=
  match headAt s t n 0, headAt s t n 1 with
  | some a, some b =>
    if !canEmit s t n 0 1 then s
    else
      let c := pOfmt p
      match a, b with
      | .tok k, .tok j =>
        if pairBad k j then dropPair s t n v k j c
        else
          compute s t n a (fun s =>
            let r := zipOp c .add (tokLanes c k) (tokLanes c j)
            let o := lanesOut c r
            let s := (dropHead (dropHead s t n 0) t n 1).setSo t n
              { v with flg := v.flg.count (r.map (·.2)), finished := k.last || j.last }
            sendOut s t n 0 (soTok s t k.tag c o.1 o.2 (k.last || j.last)))
      | .skip k, .skip _ => progress (skipOut (dropHead (dropHead s t n 0) t n 1) t n 0 k.tag c 64) (s.tile t).inst
      | .skip _, .tok k =>
        progress (sendOut ((dropHead (dropHead s t n 0) t n 1).setSo t n { v with finished := k.last }) t n 0
          (soTok s t k.tag c k.payload.toNat k.bytes.toNat k.last)) (s.tile t).inst
      | .tok k, .skip _ =>
        progress (sendOut ((dropHead (dropHead s t n 0) t n 1).setSo t n { v with finished := k.last }) t n 0
          (soTok s t k.tag c k.payload.toNat k.bytes.toNat k.last)) (s.tile t).inst
  | _, _ => s

/-- The stored tile of ACC, at LAST. -/
def accTile (s : State) (t : TileId) (v : SoState) (p : List Byte) (tag : BitVec 32) : List (Nat × Token) :=
  let n := tileLen p
  let most := (v.sizes.map (fun q => q.2)).foldl Nat.max 0
  (List.range n).map (fun j =>
    let b := match tabFind v.sizes j with | some b => b | none => if most = 0 then 64 else most
    (0, soTok s t tag (pOfmt p) (tabGet 0 v.store j).toNat b (decide (j + 1 = n))))

def addAcc (t : TileId) (n : Nat) (s : State) (x : Tile) (v : SoState) (p : List Byte) : State :=
  let factors := (tabFind x.edges (portKey n 1)).isSome
  if factors && decide (v.pos % tileLen p = 0) && decide (v.vecs.length < vecCount (pTrows p)) then takeVec s t n v true
  else
    match headAt s t n 0 with
    | none => s
    | some h =>
      if !v.serves h || (h.last && !canEmit s t n 0 1) then s
      else
        compute s t n h (fun s =>
          let c := pOfmt p
          let j := v.pos % tileLen p
          let m := rowOf p v.pos
          let v := match h with
            | .skip _ => v
            | .tok k =>
              if v.pos < tileLen p then { v with store := tabSet v.store j k.payload, sizes := tabSet v.sizes j k.bytes.toNat }
              else
                let b := tabGet 0 v.sizes j
                let xs := tokLanes c k
                let acc := laneList (codeBits c) xs.length (tabGet 0 v.store j).toNat
                let acc := if factors then acc.map (fun a => rowOp c .mul a (v.rowLane m (8 + m % 8))) else acc.map (fun a => (a, Flags.none))
                let r := (acc.zip xs).map (fun q => let y := laneOp c .add q.1.1 q.2; (y.1, q.1.2.join y.2))
                let o := lanesOut c r
                let rest := (tabGet 0 v.store j).toNat / 2 ^ (8 * o.2) * 2 ^ (8 * o.2)
                { v with store := tabSet v.store j (BitVec.ofNat 512 (o.1 + rest)), sizes := tabSet v.sizes j (Nat.max b o.2)
                         flg := v.flg.count (r.map (·.2)) }
          let q := if h.last then accTile s t v p h.token.tag else []
          let v := { v.passed p h with outq := q }
          (dropHead s t n 0).setSo t n (if h.last then { v with store := [], sizes := [] } else v))

def addStat (t : TileId) (n : Nat) (s : State) (x : Tile) (v : SoState) : State :=
  let two := (tabFind x.edges (portKey n 1)).isSome
  match headTok s t n 0, (if two then headTok s t n 1 else none) with
  | some a, some b =>
    if !canEmit s t n 0 1 || !v.serves (.tok a) || !v.serves (.tok b) then s
    else if pairBad a b then dropPair s t n v a b 0
    else
      let last := a.last || b.last
      compute s t n (.tok a) (fun s =>
        let s := (popTok (popTok s t n 0) t n 1).setSo t n { v with finished := last, cur := if last then none else some a.tag }
        sendOut s t n 0 { soTok s t a.tag 0 (mergeStat a.payload.toNat b.payload.toNat) 64 last with kind := 3 })
  | some a, none =>
    if two || !canEmit s t n 0 1 || !v.serves (.tok a) then s
    else
      let s := (popTok s t n 0).setSo t n { v with finished := a.last, cur := if a.last then none else some a.tag }
      progress (sendOut s t n 0 { soTok s t a.tag 0 a.payload.toNat 64 a.last with kind := 3 }) (s.tile t).inst
  | none, _ => s

def addRowSub (t : TileId) (n : Nat) (s : State) (v : SoState) (p : List Byte) : State :=
  if v.pos % tileLen p = 0 ∧ v.vecs.length < vecCount (pTrows p) then takeVec s t n v true
  else
    match headAt s t n 0 with
    | none => s
    | some h =>
      if !v.serves h || !canEmit s t n 0 1 then s
      else
        compute s t n h (fun s =>
          let c := pOfmt p
          let m := rowOf p v.pos
          let xs := match h with | .skip _ => List.replicate (512 / codeBits c) 0 | .tok k => tokLanes c k
          let r := xs.map (fun a => rowOp c .sub a (v.rowLane m (m % 8)))
          let o := lanesOut c r
          let s := (dropHead s t n 0).setSo t n { v.passed p h with flg := v.flg.count (r.map (·.2)) }
          sendOut s t n 0 (soTok s t h.token.tag c o.1 o.2 h.last))

def addeStep (t : TileId) (n : Nat) (s : State) : State :=
  soStep t n s (fun x v p =>
    match recSub (x.rec_ n) with
    | 0 => addPair t n s v p
    | 1 => addAcc t n s x v p
    | 2 => addStat t n s x v
    | _ => addRowSub t n s v p)
def execAddeToken (t : TileId) (node : Nat) (s : State) : Outcome :=
  .next (if node = 2 ∨ node = 3 then addeStep t node s else s)

/-! ## MULE (R252) -/

-- DEDUCED, log 86 (unsafe).
/-- The product of a position, or a position that carries nothing. -/
def muleSend (t : TileId) (n : Nat) (s : State) (v : SoState) (c bytes : Nat) (tag : BitVec 32) (last : Bool)
    (r : Option (List (Nat × Flags))) : State :=
  match r with
  | some l =>
    let o := lanesOut c l
    sendOut (s.setSo t n { v with flg := v.flg.count (l.map (·.2)) }) t n 0 (soTok s t tag c o.1 o.2 last)
  | none =>
    if last then sendOut (s.setSo t n v) t n 0 (soTok s t tag c 0 bytes true) else skipOut (s.setSo t n v) t n 0 tag c bytes

def mulePair (t : TileId) (n : Nat) (s : State) (v : SoState) (p : List Byte) : State :=
  match headAt s t n 0, headAt s t n 1 with
  | some a, some b =>
    if !canEmit s t n 0 1 then s
    else
      let c := pOfmt p
      let last := a.last || b.last
      match a, b with
      | .tok k, .tok j =>
        if pairBad k j then dropPair s t n v k j c
        else
          compute s t n a (fun s =>
            muleSend t n (dropHead (dropHead s t n 0) t n 1) { v with finished := last } c 64 k.tag last
              (some (zipOp c .mul (tokLanes c k) (tokLanes c j))))
      | _, _ =>
        let bytes := match a, b with
          | .tok k, _ => k.bytes.toNat
          | _, .tok k => k.bytes.toNat
          | _, _ => 64
        progress (muleSend t n (dropHead (dropHead s t n 0) t n 1) { v with finished := last } c bytes a.token.tag last none) (s.tile t).inst
  | _, _ => s

def muleVec (t : TileId) (n : Nat) (s : State) (v : SoState) (p : List Byte) (rowwise : Bool) : State :=
  let need := if rowwise then vecCount (pTrows p) else 1
  if v.pos % tileLen p = 0 ∧ v.vecs.length < need then takeVec s t n v rowwise
  else
    match headAt s t n 0 with
    | none => s
    | some h =>
      if !v.serves h || !canEmit s t n 0 1 then s
      else
        compute s t n h (fun s =>
          let c := pOfmt p
          let m := rowOf p v.pos
          let r := match h with
            | .skip _ => none
            | .tok k =>
              let xs := tokLanes c k
              some (if rowwise then xs.map (fun a => rowOp c .mul a (v.rowLane m (m % 8)))
                    else zipOp c .mul xs (laneList (codeBits c) xs.length (v.vecs.getD 0 0).toNat))
          muleSend t n (dropHead s t n 0) (v.passed p h) c 64 h.token.tag h.last r)

def muleStep (t : TileId) (n : Nat) (s : State) : State :=
  soStep t n s (fun x v p =>
    match recSub (x.rec_ n) with
    | 0 => mulePair t n s v p
    | 1 => muleVec t n s v p false
    | _ => muleVec t n s v p true)
def execMuleToken (t : TileId) (node : Nat) (s : State) : Outcome := .next (if node = 4 then muleStep t node s else s)

/-! ## MAXE and FUNC (R253, R254) -/

def negInf32 : BitVec 32 := 0xFF800000

/-- One row of a row vector: the new maximum, and the factor by which sums so far are scaled. -/
def maxLane (old x : Nat) : Nat × Nat × Flags :=
  let a := fMax fmtFP32 old x
  if old = 0xFF800000 then (a.1, 0, a.2)
  else
    let d := fSub fmtFP32 old a.1
    let e := fExp2 fmtFP32 d.1
    (a.1, e.1, (a.2.join d.2).join e.2)

def maxeStep (t : TileId) (n : Nat) (s : State) : State :=
  soStep t n s (fun _ v p =>
    match headAt s t n 0 with
    | none => s
    | some h =>
      if !v.serves h || !canEmit s t n 0 1 || !canEmit s t n 1 1 then s
      else
        compute s t n h (fun s =>
          let xs := (match h with | .skip _ => List.replicate 8 0 | .tok k => tokLanes 6 k).take 8
          let base := 8 * (v.pos % Nat.max 1 (vecCount (pTrows p)))
          let r := xs.zipIdx.map (fun q => maxLane (tabGet negInf32 v.rowmax (base + q.2)).toNat q.1)
          let rows := r.zipIdx.foldl (fun m q => tabPut negInf32 m (base + q.2) (BitVec.ofNat 32 q.1.1)) v.rowmax
          let pad := fun (l : List Nat) => l ++ List.replicate (8 - l.length) 0
          let out := packLanes 32 (pad (r.map (·.1)) ++ pad (r.map (fun q => q.2.1)))
          let k := soTok s t h.token.tag 6 out 64 h.last
          let w := { v with flg := v.flg.count (r.map (fun q => q.2.2)), pos := if h.last then 0 else v.pos + 1, finished := h.last
                            cur := if h.last then none else some h.token.tag, rowmax := if h.last then [] else rows }
          sendOut (sendOut ((dropHead s t n 0).setSo t n w) t n 0 k) t n 1 k))
def execMaxeToken (t : TileId) (node : Nat) (s : State) : Outcome := .next (if node = 5 then maxeStep t node s else s)

/-- The function of a FUNC node. -/
def funcOp (sub : Nat) (f : Fmt) (x : Nat) : Nat × Flags :=
  match sub with
  | 0 => fExp2 f x
  | 1 => fRcp f x
  | 2 => fRsq f x
  | _ => fLog2 f x

def funcStep (t : TileId) (n : Nat) (s : State) : State :=
  soStep t n s (fun x v p =>
    match headAt s t n 0 with
    | none => s
    | some h =>
      if !canEmit s t n 0 1 then s
      else
        compute s t n h (fun s =>
          let c := pOfmt p
          let xs := match h with | .skip _ => List.replicate (512 / codeBits c) 0 | .tok k => tokLanes c k
          let r := xs.map (funcOp (recSub (x.rec_ n)) ((fmtOfCode c).getD fmtFP32))
          let o := lanesOut c r
          let w := { v with flg := v.flg.count (r.map (·.2)), finished := h.last }
          sendOut ((dropHead s t n 0).setSo t n w) t n 0 (soTok s t h.token.tag c o.1 o.2 h.last)))
def execFuncToken (t : TileId) (node : Nat) (s : State) : Outcome := .next (if node = 6 then funcStep t node s else s)

/-! ## REDU (R255) -/

/-- What a lane beyond BYTES enters the tree as. -/
def reduPad (c : Nat) (isMax : Bool) : Nat :=
  match fmtOfCode c with
  | some f => if isMax then f.infBits true else f.signBit true
  | none => if isMax then 2 ^ 31 else 0

-- DEDUCED, log 87 (unsafe).
/-- Rows: one token's lanes by the tree, into its row, and a row vector for every eight rows. -/
def reduRows (t : TileId) (n : Nat) (s : State) (v : SoState) (p : List Byte) (isMax : Bool) (h : Head) : State :=
  let c := pOfmt p
  let w := codeBits c
  let op := if isMax then LaneOp.max else .add
  let full := 512 / w
  let j := v.pos % tileLen p
  let m := rowOf p v.pos
  let term : Option (Nat × Flags) := match h with
    | .skip _ => if isMax then some (0, .none) else none
    | .tok k =>
      let xs := tokLanes c k
      some (treeFold (laneOp c op) (Nat.log2 full) (xs ++ List.replicate (full - xs.length) (reduPad c isMax)))
  let cell := m % 8
  let (store, fl) : Tab (BitVec 512) × List Flags := match term with
    | none => (v.store, [])
    | some (a, f) =>
      match tabFind v.store cell with
      | none => (tabSet v.store cell (BitVec.ofNat 512 a), [f])
      | some b =>
        let r := laneOp c op b.toNat a
        (tabSet v.store cell (BitVec.ofNat 512 r.1), [f.join r.2])
  let endRow := decide ((j + 1) % Nat.max 1 (pTpr p) = 0) || h.last
  let send := endRow && (decide (cell = 7) || decide (j + 1 = tileLen p) || h.last)
  let out := packLanes w ((List.range 8).map (fun i => (tabGet 0 store i).toNat))
  let v' := { v.passed p h with store := if send then [] else store, flg := v.flg.count fl }
  let s := (dropHead s t n 0).setSo t n v'
  if send then sendOut s t n 0 (soTok s t h.token.tag c out (8 * w / 8) h.last) else s

/-- Columns: lane by lane into the tile's row of tokens, which leaves at the tile's end. -/
def reduCols (t : TileId) (n : Nat) (s : State) (v : SoState) (p : List Byte) (isMax : Bool) (h : Head) : State :=
  let c := pOfmt p
  let w := codeBits c
  let op := if isMax then LaneOp.max else .add
  let j := v.pos % tileLen p
  let col := j % Nat.max 1 (pTpr p)
  let xs : List Nat := match h with
    | .skip _ => if isMax then List.replicate (512 / w) 0 else []
    | .tok k => tokLanes c k
  let have_ := tabGet 0 v.sizes col
  let old := laneList w have_ (tabGet 0 v.store col).toNat
  let r := zipOp c op old xs
  let lanes := r.map (·.1) ++ old.drop xs.length ++ xs.drop have_
  let store := tabSet v.store col (BitVec.ofNat 512 (packLanes w lanes))
  let sizes := tabSet v.sizes col lanes.length
  let done := h.last || decide (j + 1 = tileLen p)
  let q := if done then
      (List.range (pTpr p)).map (fun i =>
        let b := match tabFind sizes i with | some k => if k = 0 then 64 else k * w / 8 | none => 64
        (0, soTok s t h.token.tag c (tabGet 0 store i).toNat b (h.last && decide (i + 1 = pTpr p))))
    else []
  let v' := { v.passed p h with store := if done then [] else store, sizes := if done then [] else sizes
                                flg := v.flg.count (r.map (·.2)), outq := q }
  (dropHead s t n 0).setSo t n v'

def reduStep (t : TileId) (n : Nat) (s : State) : State :=
  soStep t n s (fun x v p =>
    match headAt s t n 0 with
    | none => s
    | some h =>
      if !v.serves h || !canEmit s t n 0 1 then s
      else
        let sub := recSub (x.rec_ n)
        compute s t n h (fun s =>
          if sub < 2 then reduRows t n s v p (decide (sub = 1)) h else reduCols t n s v p (decide (sub = 3)) h))
def execReduToken (t : TileId) (node : Nat) (s : State) : Outcome := .next (if node = 11 then reduStep t node s else s)

/-! ## STEER, FORK, MERGE, CHAN (R256 to R259, R344) -/

/-- A token passes through with the positions before it. -/
def passOn (s : State) (t : TileId) (n port : Nat) (k : Token) : State :=
  let s := skipN t (portKey n port) (soTok s t k.tag k.fmt.toNat 0 k.bytes.toNat false) k.skip.toNat s
  sendOut s t n port k
def passRoom (s : State) (t : TileId) (n port : Nat) (k : Token) : Bool := canEmit s t n port (k.skip.toNat + 1)

-- DEDUCED, log 88 (unsafe).
def steerStep (t : TileId) (n : Nat) (s : State) : State :=
  soStep t n s (fun x v p =>
    let byToken := decide (recSub (x.rec_ n) = 1)
    if byToken && v.sel.isNone then
      match headTok s t n 1 with
      | none => s
      | some k =>
        let s := popTok s t n 1
        progress (s.setSo t n { v with sel := some (BitVec.ofNat 3 k.payload.toNat) }) x.inst
    else
      match headTok s t n 0 with
      | none => s
      | some k =>
        let port := if byToken then (v.sel.getD 0).toNat else if k.stv then k.steer.toNat else pC p
        if !passRoom s t n port k then s
        else
          let s := (popTok s t n 0).setSo t n { v with sel := if k.last then none else v.sel, finished := k.last }
          let s := if outBound s t (portKey n port) then passOn s t n port k
            else postNodeFault s t k.ctx.toNat { code := .token, detail := fld 0 2 12 + fld 8 8 port } n k.tag.toNat .discarded
          progress s x.inst)
def execSteerToken (t : TileId) (node : Nat) (s : State) : Outcome := .next (if node = 7 then steerStep t node s else s)

def forkStep (t : TileId) (n : Nat) (s : State) : State :=
  soStep t n s (fun x v _ =>
    match headTok s t n 0 with
    | none => s
    | some k =>
      if (List.range 4).all (fun o => passRoom s t n o k) then
        let s := (popTok s t n 0).setSo t n { v with finished := k.last }
        progress ((List.range 4).foldl (fun s o => passOn s t n o k) s) x.inst
      else s)
def execForkToken (t : TileId) (node : Nat) (s : State) : Outcome := .next (if node = 8 ∨ node = 9 then forkStep t node s else s)

/-- Ports of a MERGE that hold a token, the one that arrived first before the others. -/
def mergeFirst (x : Tile) (n ports : Nat) : Option Nat :=
  ((List.range ports).foldl (fun best p =>
    match tabFind x.edges (portKey n p) with
    | some e =>
      (match e.fifo.head? with
       | some q => (match best with | none => some (q.stamp, p) | some (b, _) => if q.stamp < b then some (q.stamp, p) else best)
       | none => best)
    | none => best) none).map (·.2)

/-- OBJ of a MERGE choice: node and output position (R407). -/
def mergeObj (n : Nat) (x : Tile) : Nat :=
  n + 2 ^ 16 * (match tabFind x.outs (portKey n 0) with | some o => o.next.toNat | none => 0)

/-- A MERGE in arrival order takes from a port. -/
def mergeFrom (t : TileId) (n : Nat) (s : State) (v : SoState) (port : Nat) : State :=
  match headTok s t n port with
  | none => s
  | some k =>
    if !passRoom s t n 0 k then s
    else
      let s := (popTok s t n port).setSo t n { v with finished := k.last }
      progress (passOn s t n 0 k) (s.tile t).inst

/-- Arrival order, logged and replayed (R258, R407, R408). A choice by the log waits for its port. -/
def mergeArrival (t : TileId) (n : Nat) (s : State) (x : Tile) (v : SoState) (p : List Byte) : State :=
  match x.inst with
  | none => s
  | some i =>
    let obj := mergeObj n x
    if replaying s i then
      match logged s i 1 obj with
      | none => if (mergeFirst x n (pC p)).isSome then s.later (.diverged i) else s
      | some port =>
        match headTok s t n port with
        | none => s
        | some k =>
          if passRoom s t n 0 k then
            (match forced s i 1 obj port with
             | .now s => mergeFrom t n s v port
             | _ => s)
          else s
    else
      match mergeFirst x n (pC p) with
      | none => s
      | some port =>
        match headTok s t n port with
        | none => s
        | some k =>
          if !passRoom s t n 0 k then s
          else
            match record s i { kind := 1, src := srcField { tile := t, entry := none, ctx := 0 }, obj := obj, val := port } [] with
            | none => s
            | some s => mergeFrom t n s v port

-- DEDUCED, log 89 (unsafe).
/-- SEQ order: position n from port n mod NPORT. -/
def mergeSeq (t : TileId) (n : Nat) (s : State) (x : Tile) (v : SoState) (p : List Byte) : State :=
  let np := Nat.max 1 (pC p)
  let port := v.merged % np
  let next := { v with merged := v.merged + 1, finished := false }
  if !canEmit s t n 0 1 then s
  else if v.ended.contains port then
    match v.cur with
    | some tag => progress (skipOut (s.setSo t n next) t n 0 tag (pOfmt p) 64) x.inst
    | none => s
  else
    match headAt s t n port with
    | none => s
    | some (.skip k) =>
      progress (skipOut ((dropHead s t n port).setSo t n { next with cur := some k.tag }) t n 0 k.tag k.fmt.toNat k.bytes.toNat) x.inst
    | some (.tok k) =>
      let ended := if k.last then port :: v.ended else v.ended
      let all_ := (List.range np).all (fun q => ended.contains q)
      let w := if all_ then { v with merged := 0, ended := [], cur := none, finished := true }
               else { next with ended := ended, cur := some k.tag }
      progress (sendOut ((dropHead s t n port).setSo t n w) t n 0 { k with last := all_ }) x.inst

def mergeStep (t : TileId) (n : Nat) (s : State) : State :=
  soStep t n s (fun x v p => if recSub (x.rec_ n) = 0 then mergeArrival t n s x v p else mergeSeq t n s x v p)
def execMergeToken (t : TileId) (node : Nat) (s : State) : Outcome := .next (if node = 10 then mergeStep t node s else s)

/-- A CHAN is a bound record of its kind. -/
def Tile.isChan (x : Tile) (n : Nat) : Bool := x.bound n && decide (18 ≤ n) && decide (recKind (x.rec_ n) = 15)

-- DEDUCED, log 91 (unsafe).
/-- Route tag and context replaced, every other field as it was; an unbound CHAN discards, and reports it once. -/
def chanStep (t : TileId) (n : Nat) (s : State) : State :=
  soStep t n s (fun x v p =>
    match headTok s t n 0 with
    | none => s
    | some k =>
      let s := popTok s t n 0
      let s := s.setSo t n { v with finished := k.last, discard := v.discard || !v.bound }
      let s :=
        if v.bound then
          let r := pRoute p
          inject s t { k with dev := BitVec.ofNat 12 (bitsNat r 38 27), stk := BitVec.ofNat 2 (bitsNat r 26 25)
                              tx := BitVec.ofNat 5 (bitsNat r 24 20), ty := BitVec.ofNat 4 (bitsNat r 19 16)
                              node := BitVec.ofNat 10 (bitsNat r 15 6), port := BitVec.ofNat 4 (bitsNat r 5 2)
                              pri := BitVec.ofNat 2 r, ctx := BitVec.ofNat 10 (pFctx p) } false
        else if v.discard then s
        else postNodeFault s t k.ctx.toNat { code := .perm, detail := fld 20 2 (pFctx p) + fld 22 2 (bitsNat (pRoute p) 38 27) }
          n k.tag.toNat .discarded
      progress s x.inst)
def execChanToken (t : TileId) (node : Nat) (s : State) : Outcome :=
  .next (if (s.tile t).isChan node then chanStep t node s else s)

end Sys2Proof.Machine
end

