-- ==== Sys2Proof/Machine/Ports.lean ====
section
/-! DEFINITION. Stream operators that hold tiles and that reach memory: TRAN, EXDC and MPORT (R25 to R29, R260 to R266). -/

namespace Sys2Proof.Machine

/-! ## TRAN (R260) -/

/-- Elements of one position of a row: those of its token, or as many zeros as the row's longest token has where the
position was skipped. -/
def SoState.placeElems (v : SoState) (w most n : Nat) : List Nat :=
  match tabFind v.sizes n with
  | none => List.replicate most 0
  | some c => (List.range c).map (fun e => (tabGet 0 v.store n).toNat / 2 ^ (w * e) % 2 ^ w)

/-- A row of the tile in store: the elements of its tokens in position order (R310). -/
def SoState.rowElems (v : SoState) (p : List Byte) (w row : Nat) : List Nat :=
  let tpr := Nat.max 1 (pTpr p)
  let places := (List.range tpr).map (fun j => row * tpr + j)
  let most := places.foldl (fun m n => Nat.max m (tabGet 0 v.sizes n)) 0
  if row < Nat.max 1 (pTrows p) then places.flatMap (v.placeElems w most) else []

/-- Rows of elements as tokens of at most 64 bytes, in order; the last of the tile carries LAST. -/
def rowTokens (s : State) (t : TileId) (tag : BitVec 32) (fmt w : Nat) (rows : List (List Nat)) (last : Bool) : List (Nat × Token) :=
  let per := 512 / w
  let parts : List (List Nat) := rows.flatMap (fun r =>
    (List.range ((r.length + per - 1) / per)).map (fun i => (r.drop (i * per)).take per))
  parts.zipIdx.map (fun q => (0, soTok s t tag fmt (packLanes w q.1) (q.1.length * w / 8) (last && decide (q.2 + 1 = parts.length))))

/-- Columns that the tile in store holds: those of its longest row, all of them where every position was skipped. -/
def columnsOf (p : List Byte) (w : Nat) (rows : List (List Nat)) : Nat :=
  let n := rows.foldl (fun m r => Nat.max m r.length) 0
  if n = 0 then Nat.max 1 (pTpr p) * (512 / w) else n

/-- A plane of a 64 by 128 tile as 16 tokens: `bit i k` is the bit of row i and reduction index k (R10). -/
def planeTokens (s : State) (t : TileId) (tag : BitVec 32) (fmt planes : Nat) (bit : Nat → Nat → Nat → Bool) (last : Bool) : List (Nat × Token) :=
  (List.range planes).flatMap (fun p => (List.range 16).map (fun h =>
    let bits := (List.range 512).map (fun b => bit p (4 * h + b / 128) (b % 128))
    (0, soTok s t tag fmt (bitsOf bits) 64 (last && decide (p + 1 = planes) && decide (h = 15)))))

-- DEDUCED, log 97 (unsafe).
/-- What leaves of a complete tile. -/
def tranTile (s : State) (t : TileId) (sub : Nat) (v : SoState) (p : List Byte) (tag : BitVec 32) (last : Bool) : List (Nat × Token) :=
  match sub with
  | 0 =>
    let w := codeBits (pIfmt p)
    let rows := (List.range (Nat.max 1 (pTrows p))).map (v.rowElems p w)
    rowTokens s t tag (pOfmt p) w ((List.range (columnsOf p w rows)).map (fun j => rows.map (fun r => r.getD j 0))) last
  | 1 =>
    let w := codeBits (pIfmt p)
    let rows := (List.range 128).map (v.rowElems p w)
    let el := fun (i k : Nat) => if pD p = 0 then (rows.getD i []).getD k 0 else (rows.getD k []).getD i 0
    planeTokens s t tag (pOfmt p) w (fun q i k => (el i k).testBit q) last
  | _ =>
    let n := Nat.max 1 (pC p)
    let w := if n ≤ 8 then 8 else 16
    let value := fun i k =>
      let c := (List.range n).map (fun q => (tabGet 0 v.store (16 * q + i / 4)).getLsbD (128 * (i % 4) + k))
      let u := bitsOf c
      if pIfmt p = 0 then toBits w (sextInt u n) else u
    let rows := if pD p = 0 then (List.range 64).map (fun i => (List.range 128).map (fun k => value i k))
                else (List.range 128).map (fun k => (List.range 64).map (fun i => value i k))
    rowTokens s t tag (pOfmt p) w rows last

def tranStep (t : TileId) (n : Nat) (s : State) : State :=
  soStep t n s (fun x v p =>
    match headAt s t n 0 with
    | none => s
    | some h =>
      if !v.serves h then s
      else
        let w := if pIfmt p ≤ 1 then 1 else codeBits (pIfmt p)
        let j := v.pos % tileLen p
        let v := match h with
          | .skip _ => v
          | .tok k => { v with store := tabPut 0 v.store j k.payload, sizes := tabSet v.sizes j (k.bytes.toNat * 8 / w) }
        let done := h.last || decide (j + 1 = tileLen p)
        if done && !canEmit s t n 0 1 then s
        else
          let w := v.passed p h
          let w := if done then { w with store := [], sizes := [], outq := tranTile s t (recSub (x.rec_ n)) v p h.token.tag h.last } else w
          progress ((dropHead s t n 0).setSo t n w) x.inst)
/-- TRAN_TOKEN (R260). -/
def execTranToken (t : TileId) (node : Nat) (s : State) : Outcome := .next (if node = 12 then tranStep t node s else s)

/-! ## EC8 blocks (R25 to R28) -/

/-- Length of a run of one-bits, at most n. -/
def onesRun (v : Nat) : Nat → Nat → Nat
  | 0, _ => 0
  | n + 1, at_ => if v.testBit at_ then 1 + onesRun v n (at_ + 1) else 0
/-- n bits, the first most significant. -/
def bitsMsb (v : Nat) : Nat → Nat → Nat
  | 0, _ => 0
  | n + 1, at_ => (if v.testBit at_ then 2 ^ n else 0) + bitsMsb v n (at_ + 1)

/-- The exponent fields of n elements: the fields, whether any is an escape, and the bit after the last; none where a field
is out of range. -/
def ec8Fields (v base k : Nat) : Nat → Nat → Option (List Nat × Bool × Nat)
  | 0, at_ => some ([], false, at_)
  | n + 1, at_ =>
    let q := onesRun v 7 at_
    if q = 7 then (ec8Fields v base k n (at_ + 11)).map (fun r => (bitsMsb v 4 (at_ + 7) :: r.1, true, r.2.2))
    else
      let u := q * 2 ^ k + bitsMsb v k (at_ + q + 1)
      let e : Int := (base : Int) + (if u % 2 = 0 then ((u / 2 : Nat) : Int) else -(((u + 1) / 2 : Nat) : Int))
      if e < 0 ∨ 15 < e then none
      else (ec8Fields v base k n (at_ + q + 1 + k)).map (fun r => (e.toNat :: r.1, r.2))

/-- What stands at the front of a stream: a block with its length in bytes, a refusal, or too few bytes. -/
inductive BlockRes
  | block (codes : List Nat) (n : Nat)
  | refused
  | more
  deriving DecidableEq, Repr
def ec8Decode (l : List Byte) : BlockRes :=
  if l.length < 2 then .more
  else
    let h := leField l 0 2
    let base := h / 2 ^ 11
    let k := h / 2 ^ 9 % 4
    let esc := h.testBit 8
    let len := h % 256
    if (16 ≤ base ∧ base ≤ 30) ∨ len = 0 ∨ 32 ≤ len ∨ (base = 31 ∧ h ≠ 0xF801) then .refused
    else if l.length < 4 * len then .more
    else
      let v := leField l 0 (4 * len)
      if base = 31 then (if v / 2 ^ 16 = 0 then .block (List.replicate 64 0) 4 else .refused)
      else
        match ec8Fields v base k 64 272 with
        | none => .refused
        | some (es, escs, end_) =>
          if 32 * len < end_ ∨ v / 2 ^ end_ ≠ 0 ∨ escs ≠ esc then .refused
          else
            .block (es.zipIdx.map (fun q =>
              let nib := v / 2 ^ (16 + 4 * q.2) % 16
              nib / 8 * 128 + q.1 * 8 + nib % 8)) (4 * len)

/-- The code of one exponent field: its bits as a number with the first lowest, and their count (R26). -/
def ec8Code (base k e : Nat) : Nat × Nat :=
  let u := if base ≤ e then 2 * (e - base) else 2 * (base - e) - 1
  let q := u / 2 ^ k
  let msb := fun (n x : Nat) => bitsOf ((List.range n).map (fun i => x.testBit (n - 1 - i)))
  if q ≤ 6 then (2 ^ q - 1 + msb k (u % 2 ^ k) * 2 ^ (q + 1), q + 1 + k) else (127 + msb 4 e * 2 ^ 7, 11)

def joinCodes : List (Nat × Nat) → Nat × Nat
  | [] => (0, 0)
  | c :: r => let x := joinCodes r; (c.1 + x.1 * 2 ^ c.2, c.2 + x.2)

/-- The encoder's choice and the block's bytes (R27). -/
def ec8Encode (codes : List Nat) : List Byte :=
  if codes.all (fun c => c == 0) then bytesOf 4 0xF801
  else
    let es := codes.map (fun c => c / 8 % 16)
    let cnt := fun b => (es.filter (fun e => e == b)).length
    let base := (List.range 16).foldl (fun b c => if cnt b < cnt c then c else b) 0
    let len := fun k => ((es.map (fun e => (ec8Code base k e).2))).foldl (· + ·) 0
    let k := (List.range 4).foldl (fun b c => if len c < len b then c else b) 0
    let x := joinCodes (es.map (fun e => ec8Code base k e))
    let esc := es.any (fun e => decide ((ec8Code base k e).2 = 11) && decide ((ec8Code base k e).1 % 128 = 127))
    let n := (272 + x.2 + 31) / 32
    let nib := packLanes 4 (codes.map (fun c => c / 128 * 8 + c % 8))
    bytesOf (4 * n) (base * 2 ^ 11 + k * 2 ^ 9 + (if esc then 2 ^ 8 else 0) + n + nib * 2 ^ 16 + x.1 * 2 ^ 272)

/-- One element of a group under R29: its significand and exponent; none for a NaN. -/
def ec8Part (c : Nat) : Option (Bool × Nat × Nat) :=
  let e := c / 8 % 16
  let m := c % 8
  if e = 15 ∧ m = 7 then none else some (decide (128 ≤ c), if e = 0 then (m, 1) else (8 + m, e))

/-- A group of 128 elements aligned to P planes: the values, the block exponent, the flags (R29, R272). -/
def alignGroup (planes : Nat) (codes : List Nat) : List Int × Int × List Flags :=
  let parts := codes.map ec8Part
  let emax := parts.foldl (fun (m : Nat) q => match q with | some (_, _, e) => Nat.max m e | none => m) 1
  let lim : Int := (2 : Int) ^ (planes - 1) - 1
  let r := parts.map (fun q => match q with
    | none => ((0 : Int), { Flags.none with iv := true })
    | some (neg, m, e) =>
      let sh : Int := (planes : Int) - 5 - ((emax - e : Nat) : Int)
      let (k, ix) := if 0 ≤ sh then (m * 2 ^ sh.toNat, false) else rneShift m (-sh).toNat
      let v : Int := if neg then -(k : Int) else k
      let c := decide (lim < v) || decide (v < -lim)
      (if lim < v then lim else if v < -lim then -lim else v, { Flags.none with ix := ix || c, ov := c }))
  (r.map (·.1), (emax : Int) - 10 - ((planes : Int) - 5), r.map (·.2))

/-! ## EXDC (R261) -/

/-- A complete tile: 64 groups of two blocks. -/
def exdcTile (s : State) (t : TileId) (p : List Byte) (blocks : List (List Nat)) (tag : BitVec 32) (last : Bool) : List (Nat × Token) × List Flags :=
  let all_ := (blocks ++ List.replicate (128 - blocks.length) (List.replicate 64 0)).toArray
  let groups := (List.range 64).map (fun g => alignGroup (pC p) (all_.getD (2 * g) [] ++ all_.getD (2 * g + 1) []))
  let rows := (groups.map (fun g => (g.1.map (fun q => toBits (pC p) q)).toArray)).toArray
  let planes := planeTokens s t tag 0 (pC p) (fun q i k => ((rows.getD i #[]).getD k 0).testBit q) last
  let xs := packLanes 8 (groups.map (fun g => toBits 8 g.2.1))
  (planes ++ [(1, soTok s t tag 8 xs 64 last)], groups.flatMap (fun g => g.2.2))

/-- The tile and what the stream still holds are discarded (R261, R273). -/
def exdcRefuse (s : State) (t : TileId) (n : Nat) (v : SoState) (tag : BitVec 32) (val : Nat) : State :=
  let over_ := v.ended.contains 0
  let w := { v with bytes := [], blocks := [], ended := [], discard := !over_, cur := if over_ then none else v.cur, pos := 0 }
  postNodeFault (s.setSo t n w) t (tileCtx s t) { code := .token, detail := fld 0 2 13 + fld 8 8 val } n tag.toNat .discarded

/-- A tile leaves. -/
def exdcEmit (s : State) (t : TileId) (n : Nat) (v : SoState) (p : List Byte) (tag : BitVec 32) : State :=
  let last := v.ended.contains 0 && v.bytes.isEmpty
  let r := exdcTile s t p v.blocks tag last
  let w := { v with blocks := [], outq := r.1, flg := v.flg.count r.2, ended := if last then [] else v.ended
                    cur := if last then none else v.cur, finished := last }
  s.setSo t n w

/-- DECODE: the next block of the bytes held, a complete tile, or the next token. -/
def exdcDecode (t : TileId) (n : Nat) (s : State) (v : SoState) (p : List Byte) : State :=
  let tag := v.cur.getD 0
  let on := fun s => progress s (s.tile t).inst
  let emitTile := compute s t n (.tok { blankTok with tag := tag, ctx := BitVec.ofNat 10 (tileCtx s t) }) (fun s => exdcEmit s t n v p tag)
  if v.blocks.length = 128 then emitTile
  else
    match ec8Decode v.bytes with
    | .block c k => on (s.setSo t n { v with bytes := v.bytes.drop k, blocks := v.blocks ++ [c] })
    | .refused => on (exdcRefuse s t n v tag (leField v.bytes 0 8))
    | .more =>
      if v.ended.contains 0 then
        if v.bytes.isEmpty then emitTile else on (exdcRefuse s t n v tag (leField v.bytes 0 8))
      else
        match headAt s t n 0 with
        | none => s
        | some h =>
          let fills := h.last || decide (128 ≤ v.blocks.length + (v.bytes.length + h.token.bytes.toNat) / 4)
          if !v.serves h || (fills && !v.discard && !(canEmit s t n 0 1 && canEmit s t n 1 1)) then s
          else
            let s := dropHead s t n 0
            let v := { v with cur := some h.token.tag, finished := false }
            if v.discard then on (s.setSo t n (if h.last then { v with discard := false, cur := none, finished := true } else v))
            else
              match h with
              | .skip k => on (exdcRefuse s t n v k.tag (k.header % 2 ^ 64))
              | .tok k =>
                on (s.setSo t n { v with bytes := v.bytes ++ bytesOf k.bytes.toNat k.payload.toNat, ended := if k.last then [0] else [] })

/-- ENCODE: one block for each position, in tokens of 64 bytes; the last holds whole blocks. -/
def exdcEncode (t : TileId) (n : Nat) (s : State) (v : SoState) : State :=
  match headAt s t n 0 with
  | none => s
  | some h =>
    if !v.serves h then s
    else
      let codes := match h with | .skip _ => List.replicate 64 0 | .tok k => laneList 8 64 k.payload.toNat
      let b := v.bytes ++ ec8Encode codes
      let full := if h.last then (b.length - 1) / 64 else b.length / 64
      let tag := h.token.tag
      let part := fun i (l : Bool) => let c := (b.drop (64 * i)).take 64; ((0 : Nat), soTok s t tag 7 (wordOfBytes c) c.length l)
      let q := (List.range full).map (fun i => part i false) ++ (if h.last then [part full true] else [])
      let w := { v with bytes := if h.last then [] else b.drop (64 * full), outq := q, cur := if h.last then none else some tag
                        finished := h.last }
      if !q.isEmpty && !canEmit s t n 0 1 then s
      else compute s t n h (fun s => (dropHead s t n 0).setSo t n w)

-- DEDUCED, log 98 (unsafe).
def exdcStep (t : TileId) (n : Nat) (s : State) : State :=
  soStep t n s (fun x v p => if recSub (x.rec_ n) = 0 then exdcDecode t n s v p else exdcEncode t n s v)
/-- EXDC_TOKEN (R261). -/
def execExdcToken (t : TileId) (node : Nat) (s : State) : Outcome := .next (if node = 15 then exdcStep t node s else s)

/-! ## MPORT: addresses and latches (R262, R263) -/

def mpDims (p : List Byte) : List Word := (List.range (pD p)).map (pDim p)
def mpCount (p : List Byte) : Nat := boundProductExact (mpDims p)
/-- a(n, t). -/
def mpAddr (p : List Byte) (n tag : Nat) : Nat := toBits 64 ((pBase p : Int) + (tag : Int) * pTstr p + agenWalk (mpDims p) n 0)
/-- The largest power of two that divides WBYTES, at most 64. -/
def mpAlign (w : Nat) : Nat := Nat.gcd w 64

/-- The whole range, over every tag: the hull of its accesses. -/
def mpHull (p : List Byte) (ntags : Nat) : List Rect :=
  if mpCount p = 0 ∨ ntags = 0 then []
  else
    let ext := fun (b : Nat) (st : Int) => ((b - 1 : Nat) : Int) * st
    let es := ext ntags (pTstr p) :: (mpDims p).map (fun d => ext (shapeBound d) (shapeStride d))
    let lo : Int := (es.map (fun e => min 0 e)).foldl (· + ·) 0
    let hi : Int := (es.map (fun e => max 0 e)).foldl (· + ·) 0
    [{ base := toBits 64 ((pBase p : Int) + lo), rowb := (hi - lo).toNat + pC p, pitch := 0, rows := 1 }]

def mpAccess (s : State) (t : TileId) (inst : Nat) (w : Bool) (va : Nat) : Access :=
  { stk := t.stk, ctx := match s.inst? inst with | some i => i.ctx | none => 0, inst := some inst, kind := .mport, write := w, va := va }

/-- A latch over one page, as the page's address was found on this device; a page not found stands for 64 KiB. -/
def latchOf (s : State) (t : TileId) (va : Nat) : Except FInfo XPage → Latch
  | .error e => { va := va / 65536 * 65536, size := 65536, dev := s.dev, stk := t.stk, base := none, off := 0, gpa := 0, why := some e }
  | .ok q =>
    { va := va - q.off, size := q.size, dev := s.dev, stk := q.stk, base := if q.stk = t.stk then some (q.key - q.off) else none
      off := (va - q.off) % 2 ^ 49, gpa := q.gpa, why := none }

/-- A latch over a page of another device, from its owner's answer to a probe: the guest page, its size, and the place in it. -/
def latchAway (va : Nat) (d k c o v : Nat) : Latch :=
  let at_ := v / 2 ^ 128 % 2 ^ 64
  { va := va - at_, size := v / 2 ^ 64 % 2 ^ 64, dev := d, stk := k, rctx := c, base := none, off := o - at_, gpa := v % 2 ^ 64, why := none }

/-- A refused registration: a record, and the MPORT takes and sends nothing. -/
def mpRefuse (s : State) (t : TileId) (n : Nat) (ctx : Nat) (e : FInfo) : State :=
  (postNodeFault s t ctx e n 0 .none).setSo t n { (s.tile t).soOf n with dead := true }

/-- The probe of a page at another device (R263). -/
def sendProbe (s : State) (t : TileId) (n ctx : Nat) (w : Bool) (va d k c o : Nat) : State :=
  let (rid, s) := sendRemote s t.stk ctx va (awayKey d k c o) (.mport t n 0) { req := { blankReq with kind := .probe }, openW := w } none
  s.setSo t n { (s.tile t).soOf n with probes := [(rid, va)] }

/-- The pages of a range are latched in turn, as far as this device can tell; a page of another device is probed first. True when all are
latched. -/
def mpScan (t : TileId) (n : Nat) (a : Access) (r : List Rect) : Nat → State → State × Bool
  | 0, s => (s, false)
  | k + 1, s =>
    let v := (s.tile t).soOf n
    let put := fun (l : Latch) => s.setSo t n { v with latches := v.latches ++ [l], scan := some (l.va + l.size) }
    match v.scan.bind (areaNext r) with
    | none => (s.setSo t n { v with scan := none }, true)
    | some b =>
      if 256 ≤ v.latches.length then (mpRefuse (s.setSo t n { v with scan := none }) t n a.ctx (engineInfo 4 (areaBase r)), false)
      else
        match locate s { a with va := b } with
        | .error e => mpScan t n a r k (put (latchOf s t b (.error e)))
        | .ok (.here q) => mpScan t n a r k (put (latchOf s t b (.ok q)))
        | .ok (.away d kk c o) =>
          if routed s t.stk d then (sendProbe s t n a.ctx a.write b d kk c o, false)
          else mpScan t n a r k (put (latchOf s t b (.error (fabricInfo s b AccKind.mport.num a.ctx d none))))

/-- The latched pages of this device, each with its translation. -/
def mpFound (s : State) (a : Access) (r : List Rect) (l : List Latch) : List (Nat × XPage) :=
  l.filterMap (fun q =>
    if q.why.isSome ∨ q.dev ≠ s.dev then none
    else
      match areaNext r q.va with
      | none => none
      | some b => match locate s { a with va := b } with | .ok (.here p) => some (b - p.off, p) | _ => none)

/-- The stretches of latched pages of another device that stand together: route, first address, offset there, length. -/
def mpRuns (here : Nat) : List Latch → List (Nat × Nat × Nat × Nat × Nat × Nat)
  | [] => []
  | q :: l =>
    let rest := mpRuns here l
    if q.why.isSome ∨ q.dev = here then rest
    else
      match rest with
      | (d, k, c, va, o, z) :: more =>
        if d = q.dev ∧ k = q.stk ∧ c = q.rctx ∧ va = q.va + q.size ∧ o = q.off + q.size then (d, k, c, q.va, q.off, q.size + z) :: more
        else (q.dev, q.stk, q.rctx, q.va, q.off, q.size) :: rest
      | [] => [(q.dev, q.stk, q.rctx, q.va, q.off, q.size)]

/-- The range is registered at its owner: here in the window table, when it has the entries; at another device by opens. A conflict
refuses the MPORT (R263); in a replay, and where the log is full, it waits (R407, R408). -/
def mpRegister (t : TileId) (n : Nat) (i : Inst) (a : Access) (r : List Rect) (s : State) : State :=
  let v := (s.tile t).soOf n
  let later := s.setSo t n { v with todo := true }
  let src := srcField { tile := t, entry := none, ctx := i.ctx }
  let lost := (lostOpen s i.id src (mportObj n)).map (fun e => e.2.2)
  match mpFound s a r v.latches with
  | q :: ps =>
    let (wid, s1) := s.fresh
    let reg : Reg := { wid := wid, holder := .inst i.id, range := true, ctx := i.ctx, w := a.write, area := r
                       pages := (q :: ps).map regPage, closing := false }
    let k := q.2.stk
    if openWaits s i.id src (mportObj n) (firstConflict s k reg) then later
    else
      match firstConflict s k reg with
      | some o =>
        (match raceDecided s i.id src (mportObj n) (holderValue o.holder) with
         | none => later
         | some s => mpRefuse s t n i.ctx (raceInfo (areaBase r) i.ctx o))
      | none =>
        if !regsFit s [(k, reg)] then later
        else
          let uses := (q :: ps).map (fun p => p.2)
          (rdcDropClaim (enterRegs s1 [(k, reg)] uses) t.stk i.ctx (.here k reg uses)).setSo t n
            { v with range := some (k, wid), todo := false }
  | [] =>
    (mpRuns s.dev v.latches).foldl (fun s g =>
      let (d, k, c, va, o, z) := g
      let lo := Nat.max va (areaBase r)
      let hi := Nat.min (va + z) ((r.headD { base := 0, rowb := 0, pitch := 0, rows := 0 }).last + 1)
      let (rid, s) := sendRemote s t.stk i.ctx lo (awayKey d k c (o + (lo - va))) (.mport t n 0)
        { req := blankReq, isOpen := true, openW := a.write, rowb := hi - lo, pitch := 0, rows := 1, range := true, winner := lost } none
      let v := (s.tile t).soOf n
      s.setSo t n { v with asked := v.asked ++ [(rid, 0)] }) (s.setSo t n { v with todo := false })

/-- Latching goes on; when every page is latched, the range is registered. -/
def mpGoOn (t : TileId) (n : Nat) (s : State) : State :=
  let x := s.tile t
  match x.inst.bind s.inst? with
  | none => s
  | some i =>
    let r := mpHull (x.block n) i.ntags
    let a := mpAccess s t i.id (decide (recSub (x.rec_ n) = 1)) (areaBase r)
    match mpScan t n a r 258 s with
    | (s, true) => mpRegister t n i a r s
    | (s, false) => s

-- DEDUCED, log 94 (unsafe).
/-- Latches and registration at instantiation (R263). -/
def mpInit (t : TileId) (n : Nat) (s : State) : State :=
  let x := s.tile t
  match x.inst.bind s.inst? with
  | none => s
  | some i =>
    if (mpHull (x.block n) i.ntags).isEmpty then s
    else mpGoOn t n (s.setSo t n { x.soOf n with latches := [], scan := some 0, todo := true })

/-- Where an access goes: by its latch. A page of this stack has its base there; any other is translated again at the owner that the
latch names (R333). -/
def mpPlace (s : State) (a : Access) (l : List Latch) : Except FInfo Place :=
  match l.find? (fun q => decide (q.va ≤ a.va) && decide (a.va < q.va + q.size)) with
  | none => locate s a
  | some q =>
    let d := a.va - q.va
    match q.why, q.base with
    | some e, _ => .error e
    | none, some b => .ok (.here { stk := q.stk, key := b + d, off := d, size := q.size, gpa := q.gpa, leaf := none, step := none })
    | none, none =>
      if q.dev = s.dev then (agentXlate s q.stk a.ctx (q.off + d) a.write a.va a.kind.num).map .here
      else .ok (.away q.dev q.stk q.rctx (q.off + d))

/-- The pieces of an access within lines: place and length. -/
def mpPieces (s : State) (a : Access) (l : List Latch) : Nat → Nat → Nat → List (Nat × Place × Nat) → Except FInfo (List (Nat × Place × Nat))
  | 0, _, _, acc => .ok acc.reverse
  | k + 1, va, n, acc =>
    if n = 0 then .ok acc.reverse
    else
      match mpPlace s { a with va := va } l with
      | .error e => .error e
      | .ok p =>
        let m := Nat.min n (128 - va % 128)
        mpPieces s a l k (va + m) (n - m) ((va, p, m) :: acc)

-- DEDUCED, log 99 (unsafe).
/-- The stream stalls at its position, at an address, and the fault is recorded (R263, R273). -/
def mpStall (s : State) (t : TileId) (n : Nat) (tag va : Nat) (e : FInfo) : State :=
  let v := (s.tile t).soOf n
  (postNodeFault s t (tileCtx s t) e n tag .none).setSo t n
    { v with stall := some va, asked := v.asked.filter (fun q => q.2 == 0), lines := [] }

/-- The bytes of a READ's pieces: the bytes, or the lines of other devices to ask for, or a fault. -/
def mpRead (s : State) (v : SoState) : List (Nat × Place × Nat) → List Byte → List (Nat × Nat) → Except FInfo (List Byte × List (Nat × Nat))
  | [], acc, ask => .ok (acc, ask)
  | (va, p, m) :: l, acc, ask =>
    let o := p.key % 128
    match p with
    | .here q =>
      match lineSound s q.key with
      | .error (.fault e) => .error e
      | _ => mpRead s v l (acc ++ memBytes s.mem q.key m) ask
    | .away _ _ _ _ =>
      match v.lines.find? (fun q => q.1 == p.key - o) with
      | some q => mpRead s v l (acc ++ ((bytesOf 128 q.2.toNat).drop o).take m) ask
      | none => mpRead s v l acc (ask ++ [(va - o, p.key - o)])

/-- Requests for lines that are not yet asked for. -/
def mpAsk (t : TileId) (n ctx : Nat) : List (Nat × Nat) → State → State
  | [], s => s
  | (va, key) :: l, s =>
    let v := (s.tile t).soOf n
    if v.asked.any (fun q => q.2 == key) then mpAsk t n ctx l s
    else
      let (rid, s) := sendRemote s t.stk ctx va key (.mport t n v.mpos) { req := { blankReq with kind := .load, size := 128 } } none
      mpAsk t n ctx l (s.setSo t n { (s.tile t).soOf n with asked := (rid, key) :: v.asked })

/-! ## RELATCH (R265) -/

/-- A write of the node is on its way to another device; what FABRIC has left unacknowledged is not (R347). -/
def mpBusy (s : State) (v : SoState) : Bool :=
  s.remote.any (fun r => v.inflight.contains r.rid && (decide (r.due ≠ 0) || !r.sent)) || v.asked.any (fun q => q.2 != 0)

/-- What FABRIC left unacknowledged is sent again under its identifiers (R347). -/
def mpResend (s : State) (t : TileId) (n : Nat) : State :=
  (s.remote.filter (fun r => r.sent && decide (r.due = 0) && (match r.who with | .mport t' m _ => t' == t && m == n | _ => false))).foldl transmit s

/-- A RELATCH is done: the page has its new latch, the stream that stalled on it goes on, and the answer is sent. -/
def relatched (s : State) (t : TileId) (n : Nat) (old : Latch) (l : Latch) (ret : BitVec 24) : State :=
  let v := (s.tile t).soOf n
  let here := match v.stall with | some a => decide (old.va ≤ a) && decide (a < old.va + old.size) | none => false
  let s := s.setSo t n { v with latches := v.latches.filter (fun z => z.va != old.va) ++ [l], relatches := v.relatches.drop 1
                                stall := if here then none else v.stall }
  let s := if here then mpResend s t n else s
  match (s.tile t).inst with
  | some i => if ret = 0 then s else sendResp s t i ret.toNat 0 0 0
  | none => s

/-- The page of a registration is what it has been latched to; the others stay with their owner (R333). -/
def relatchReg (s : State) (range : Option (Nat × Nat)) (old va : Nat) (g : XPage) : State :=
  match range with
  | some (k, wid) =>
    if g.stk ≠ k then s
    else
      let s := noteUse s g
      let y := s.stack k
      s.setStack k { y with regs := y.regs.map (fun z => if z.wid = wid then
        { z with pages := z.pages.filter (fun e => e.va != old) ++ [regPage (va - g.off, g)] } else z) }
  | none => s

-- DEDUCED, log 100 (unsafe).
/-- The page is translated again, at its owner, and its answer sent. -/
def mpRelatch (t : TileId) (n : Nat) (s : State) : State :=
  let x := s.tile t
  let v := x.soOf n
  match v.relatches, x.inst with
  | (page, ret) :: r, some i =>
    if mpBusy s v || v.scan.isSome || !v.probes.isEmpty then s
    else
      let a := page.toNat
      let hull := mpHull (x.block n) (match s.inst? i with | some j => j.ntags | none => 0)
      let acc := mpAccess s t i (decide (recSub (x.rec_ n) = 1)) a
      match v.latches.find? (fun q => decide (q.va ≤ a) && decide (a < q.va + q.size)) with
      | none =>
        let s := s.setSo t n { v with relatches := r }
        if ret = 0 then s else sendResp s t i ret.toNat 0 0 0
      | some old =>
        let b := (areaNext hull old.va).getD old.va
        match locate s { acc with va := b } with
        | .error e => relatched s t n old (latchOf s t b (.error e)) ret
        | .ok (.here g) => relatched (relatchReg s v.range old.va b g) t n old (latchOf s t b (.ok g)) ret
        | .ok (.away d k c o) =>
          if routed s t.stk d then sendProbe s t n acc.ctx acc.write b d k c o
          else relatched s t n old (latchOf s t b (.error (fabricInfo s b AccKind.mport.num acc.ctx d none))) ret
  | _, _ => s

/-- A probe has answered, or failed: the page is latched, or left unlatched (R263, R265). -/
def mpProbed (s : State) (t : TileId) (n : Nat) (l : Latch) : State :=
  let v := { (s.tile t).soOf n with probes := [] }
  if v.scan.isSome then mpGoOn t n (s.setSo t n { v with latches := v.latches ++ [l], scan := some (l.va + l.size) })
  else
    match v.relatches with
    | (page, ret) :: _ =>
      (match v.latches.find? (fun q => decide (q.va ≤ page.toNat) && decide (page.toNat < q.va + q.size)) with
       | some old => relatched (s.setSo t n v) t n old l ret
       | none => s.setSo t n v)
    | [] => s.setSo t n v

/-- RELATCH (R265): noted, and done once no access uses the old base. -/
def execRelatch (t : TileId) (node : Nat) (page : Word) (ret : BitVec 24) (s : State) : Outcome :=
  let x := s.tile t
  .next (if node = 13 ∨ node = 14 then
    if x.bound node then
      mpRelatch t node (s.setSo t node { x.soOf node with relatches := (x.soOf node).relatches ++ [(page, ret)] })
    else s
  else s)

/-! ## MPORT: accesses (R262, R264, R266) -/

/-- The node may start an access: its range stands, its pages are latched, and the position before is done with. -/
def mpReady (v : SoState) : Bool :=
  v.stall.isNone && v.scan.isNone && !v.todo && v.relatches.isEmpty && v.inflight.isEmpty && !v.asked.any (fun q => q.2 == 0)

/-- Position n of a tag has been passed by a READ. -/
def mpNext (v : SoState) (count ntags : Nat) : SoState :=
  if v.mpos + 1 < count then { v with mpos := v.mpos + 1 }
  else { v with mpos := 0, mtag := v.mtag + 1, finished := decide (ntags ≤ v.mtag + 1) }

/-- MPORT_READ: one position that requests cover. -/
def readStep (t : TileId) (n : Nat) (s : State) : State :=
  soStep t n s (fun x v p =>
    match x.inst.bind s.inst? with
    | none => s
    | some i =>
      if !i.armed || i.halting || !mpReady v || decide (i.ntags ≤ v.mtag) || decide (mpCount p = 0) || !canEmit s t n 0 1 then s
      else
        let w := pC p
        let va := mpAddr p v.mpos v.mtag
        let tag := BitVec.ofNat 32 v.mtag
        let last := decide (v.mpos + 1 = mpCount p)
        if va % mpAlign w ≠ 0 then
          let s := postNodeFault s t i.ctx (engineInfo 14 va) n v.mtag .none
          let s := s.setSo t n (mpNext v (mpCount p) i.ntags)
          progress (if last then sendOut s t n 0 (soTok s t tag (pOfmt p) 0 w true) else skipOut s t n 0 tag (pOfmt p) w) (some i.id)
        else
          match mpPieces s (mpAccess s t i.id false va) v.latches 4 va w [] with
          | .error e => mpStall s t n v.mtag va e
          | .ok ps =>
            match mpRead s v ps [] [] with
            | .error e => mpStall s t n v.mtag va e
            | .ok (b, []) =>
              let s := ps.foldl (fun s q => notePlace s q.2.1) s
              let q := (0, soTok s t tag (pOfmt p) (wordOfBytes b) w last)
              progress (s.setSo t n { mpNext v (mpCount p) i.ntags with lines := [], asked := [], outq := [q] }) (some i.id)
            | .ok (_, ask) =>
              match ps.find? (fun q => match q.2.1 with | .away d _ _ _ => !routed s t.stk d | _ => false) with
              | some (a, .away d _ _ _, _) => mpStall s t n v.mtag a (fabricInfo s a AccKind.mport.num i.ctx d none)
              | _ => mpAsk t n i.ctx ask s)

/-- The bytes of a WRITE's pieces go to their homes; writes to other devices are counted until acknowledged. False where a beat met a
scratch bank of another owner and was dropped (R358). -/
def mpWrite (t : TileId) (n ctx : Nat) : List (Nat × Place × Nat) → State → List Byte → State × Bool
  | [], s, _ => (s, true)
  | (va, p, m) :: l, s, b =>
    let o := p.key % 128
    let w := b.take m
    let data := wordOfBytes w * 2 ^ (8 * o)
    let mask := (2 ^ m - 1) * 2 ^ o
    let s := notePlace s p
    match p with
    | .here q =>
      if beatOk s ctx q.key then
        let s := homeWrite s q.key w
        mpWrite t n ctx l (if q.stk = t.stk then s else rdcUpdate s t.stk ctx (q.key - o) (BitVec.ofNat 1024 data) mask) (b.drop m)
      else ((mpWrite t n ctx l s (b.drop m)).1, false)
    | .away d k c f =>
      let v := (s.tile t).soOf n
      let q : HomeReq := { blankReq with kind := .publish, size := 128, val := BitVec.ofNat 1024 data, mask := BitVec.ofNat 128 mask }
      let (rid, s) := sendRemote s t.stk ctx (va - o) (awayKey d k c (f - o)) (.mport t n v.pos) { req := q } none
      let s := s.setSo t n { (s.tile t).soOf n with inflight := v.inflight ++ [rid], wrote := true }
      mpWrite t n ctx l (rdcUpdate s t.stk ctx (p.key - o) (BitVec.ofNat 1024 data) mask) (b.drop m)

/-- A position has been dealt with: the counters, the token to forward, the completion owed. -/
def mpPassed (s : State) (t : TileId) (n : Nat) (p : List Byte) (h : Head) (wrote forward complete : Bool) : State :=
  let v := (s.tile t).soOf n
  let written := v.written + (if wrote then 1 else 0)
  let w := { v.passed p h with
    pos := if h.last then 0 else v.pos + 1, wrote := false, written := if h.last then 0 else written
    outq := if forward && !h.isSkip then [(0, h.token)] else []
    dones := if complete && h.last && pCmpl p then v.dones ++ [(h.token.tag, written)] else v.dones }
  let s := (dropHead s t n 0).setSo t n w
  let s := if h.isSkip || !forward then skipOut s t n 0 h.token.tag h.token.fmt.toNat (pC p) else s
  let s := if h.last && complete && pCmpl p && w.inflight.isEmpty then s.later (.streamDone t n) else s
  progress s (s.tile t).inst

/-- The position at the head, once the other devices have acknowledged its bytes. -/
def mpAcked (t : TileId) (n : Nat) (s : State) : State :=
  let x := s.tile t
  match headAt s t n 0 with
  | some h => if canEmit s t n 0 1 then mpPassed s t n (x.block n) h true true true else s
  | none => s

/-- MPORT_WRITE: one position. -/
def writeStep (t : TileId) (n : Nat) (s : State) : State :=
  soStep t n s (fun x v p =>
    match x.inst.bind s.inst?, headAt s t n 0 with
    | some i, some h =>
      if !mpReady v || !v.serves h || !canEmit s t n 0 1 then s
      else
        let w := pC p
        let va := mpAddr p v.pos h.token.tag.toNat
        if !h.isSkip && decide (w < h.token.bytes.toNat) then
          mpPassed (postNodeFault s t i.ctx (engineInfo 14 h.token.bytes.toNat) n h.token.tag.toNat .discarded) t n p h false false false
        else if va % mpAlign w ≠ 0 then
          mpPassed (postNodeFault s t i.ctx (engineInfo 14 va) n h.token.tag.toNat .none) t n p h false true true
        else
          match mpPieces s (mpAccess s t i.id true va) v.latches 4 va w [] with
          | .error e => mpStall s t n h.token.tag.toNat va e
          | .ok ps =>
            match ps.find? (fun q => match q.2.1 with | .away d _ _ _ => !routed s t.stk d | _ => false) with
            | some (a, .away d _ _ _, _) => mpStall s t n h.token.tag.toNat a (fabricInfo s a AccKind.mport.num i.ctx d none)
            | _ =>
              let pay : Nat := match h with | .skip _ => 0 | .tok k => k.payload.toNat
              match mpWrite t n i.ctx ps s (bytesOf w pay) with
              | (s, false) => mpStall (s.setSo t n { (s.tile t).soOf n with wrote := false }) t n h.token.tag.toNat va (ownerFault s (mpAccess s t i.id true va))
              | (s, true) => if ((s.tile t).soOf n).wrote then progress s x.inst else mpPassed s t n p h true true true
    | _, _ => s)

/-- A completion owed is posted once the writes of its stream are acknowledged (R266). -/
def streamDone (t : TileId) (n : Nat) (s : State) : State :=
  let x := s.tile t
  let v := x.soOf n
  match v.dones, x.inst.bind s.inst? with
  | (tag, k) :: r, some i =>
    if !v.inflight.isEmpty then s
    else
      let body := recHeader s 5 0 { tile := t, entry := none, ctx := i.ctx } + fld 8 2 n + fld 0x0C 4 tag.toNat + fld 0x10 8 k +
        fld 0x18 8 (s.cyc t.stk)
      let s := progress (s.setSo t n { v with dones := r }) x.inst
      let cd := pCdst (x.block n)
      if cd = 0 then s.post (.ev i.ctx) body else sendResp s t i.id cd tag 64 body
  | _, _ => s
/-- STREAM_DONE (R266). -/
def execStreamDone (t : TileId) (node : Nat) (s : State) : Outcome :=
  .next (if node = 13 ∨ node = 14 then streamDone t node s else s)

/-- The node is an MPORT of a mode. -/
def Tile.isMport (x : Tile) (n sub : Nat) : Bool := x.bound n && (decide (n = 13) || decide (n = 14)) && decide (recSub (x.rec_ n) = sub)

/-- A read has returned, or a write been acknowledged: its token leaves (R264). -/
def mpAccessDone (t : TileId) (n : Nat) (s : State) : State :=
  let v := (s.tile t).soOf n
  if !soRuns s t n || !v.inflight.isEmpty then s
  else if !v.outq.isEmpty then flushOut s t n
  else if v.wrote && v.stall.isNone then mpAcked t n s
  else s
/-- MPORT_ACCESS_DONE (R264). -/
def execMportAccessDone (t : TileId) (node : Nat) (s : State) : Outcome :=
  .next (if (s.tile t).isMport node 0 || (s.tile t).isMport node 1 then mpAccessDone t node s else s)

/-- What an MPORT does next: a relatch, the token of a finished access, a completion, or an access. -/
def mportStep (t : TileId) (n : Nat) (s : State) (access : State → State) : State :=
  let v := (s.tile t).soOf n
  if !v.relatches.isEmpty then mpRelatch t n s
  else if v.todo && v.scan.isNone then mpGoOn t n s
  else if !v.outq.isEmpty || v.wrote then mpAccessDone t n s
  else if !v.dones.isEmpty && v.inflight.isEmpty then streamDone t n s
  else access s
/-- MPORT_READ (R262). -/
def execMportRead (t : TileId) (node : Nat) (s : State) : Outcome :=
  .next (if (s.tile t).isMport node 0 then mportStep t node s (readStep t node) else s)
/-- MPORT_WRITE (R262). -/
def execMportWrite (t : TileId) (node : Nat) (s : State) : Outcome :=
  .next (if (s.tile t).isMport node 1 then mportStep t node s (writeStep t node) else s)

/-! ## Residue faults of a node (R273) -/

-- DESIGN CHOICE, log 92 (safe).
/-- The step of one stream-operator node, by its kind. -/
def nodeStep (t : TileId) (n : Nat) (s : State) : State :=
  match n with
  | 0 => convStep t n s
  | 1 => convStep t n s
  | 2 => addeStep t n s
  | 3 => addeStep t n s
  | 4 => muleStep t n s
  | 5 => maxeStep t n s
  | 6 => funcStep t n s
  | 7 => steerStep t n s
  | 8 => forkStep t n s
  | 9 => forkStep t n s
  | 10 => mergeStep t n s
  | 11 => reduStep t n s
  | 12 => tranStep t n s
  | 15 => exdcStep t n s
  | _ =>
    let x := s.tile t
    if x.isMport n 0 then mportStep t n s (readStep t n)
    else if x.isMport n 1 then mportStep t n s (writeStep t n)
    else if x.isChan n then chanStep t n s
    else s

end Sys2Proof.Machine
end

