-- ==== Sys2Proof/Machine/Instances.lean ====
section
/-! DEFINITION. Configuration instances: their coordinates (R225, R226), banks (R285 to R287), instantiation (R224), arming
(R227, R344), end of stream (R243), the watchdog (R274, R406), the halt of an instance (R352 to R357) and KILL (R327). -/

namespace Sys2Proof.Machine

/-! ## The tiles of an instance -/

def rectOf (stk ox oy w h : Nat) : List TileId :=
  (List.range w).flatMap (fun i => (List.range h).map (fun j => { stk := stk, x := ox + i, y := oy + j }))
def Inst.rect (i : Inst) : List TileId := rectOf i.stk i.ox i.oy i.w i.h
/-- Memory banks under a rectangle. -/
def Inst.banks (i : Inst) : List Nat := i.rect.map (fun t => 16 * (t.x - 1) + t.y)

/-- The configuration of an instance: from the stack's cache, or as Utund placed the launch. -/
def instCfg (s : State) (i : Inst) : Option PlacedCfg :=
  match (tabGet [] s.cache i.stk).find? (fun c => decide (c.key = i.cfg)) with
  | some c => some c
  | none => (s.launch? i.ctx i.lid).bind (fun l => l.placed)

/-! ## Coordinates (R225, R226) -/

/-- Where an instance of a launch stands: its coordinates by level, and its stack where a STACK level fixes it. -/
structure Spot where
  coords : List Nat
  stk    : Option Nat
  deriving DecidableEq, Repr

/-- This device's place in a list. -/
def placeIn (d : Nat) (l : List Nat) : List Nat := match l.findIdx? (fun x => x == d) with | some i => [i] | none => []

/-- The spots on this device; `devs` is the device list that a DEVICE level spreads over. -/
def spotsFrom (s : State) (ctx : Nat) (devs : List Nat) : List Level → Spot → List Spot
  | [], q => [q]
  | l :: r, q =>
    if l.domain = 0 then spotsFrom s ctx devs r { q with coords := q.coords ++ [0] }
    else if l.domain = 4 then (List.range l.count).flatMap (fun c => spotsFrom s ctx devs r { coords := q.coords ++ [c], stk := some c })
    else if l.domain = 5 then (placeIn s.dev devs).flatMap (fun c => spotsFrom s ctx devs r { q with coords := q.coords ++ [c] })
    else if l.domain = 6 then
      (boundPlanes s ctx).zipIdx.flatMap (fun p =>
        let g := devs.filter (fun d => (groupDevs s ctx p.1).contains d)
        if devs.isEmpty || g.contains s.dev then spotsFrom s ctx g r { q with coords := q.coords ++ [p.2] } else [])
    else (List.range l.count).flatMap (fun c => spotsFrom s ctx devs r { q with coords := q.coords ++ [c] })
/-- In ascending order of coordinates. -/
def launchSpots (s : State) (l : Launch) : List Spot := spotsFrom s l.ctx l.devs l.levels { coords := [], stk := none }

/-! ## Banks (R285, R287) -/

def inBank (stk b k : Nat) : Bool := isScratch k && decide (stackOfKey k = stk) && decide (bankOfKey k = b)
/-- Scratch contents of banks end. -/
def dropScratch (s : State) (stk : Nat) (l : List Nat) : State :=
  { s with mem := s.mem.filter (fun p => !(isScratch p.1 && decide (stackOfKey p.1 = stk) && l.contains (bankOfKey p.1))) }
/-- Lines homed in banks that keep no cache way are written back. -/
def cleanBanks (s : State) (stk : Nat) (l : List Nat) : State :=
  s.setStack stk { s.stack stk with dirty := (s.stack stk).dirty.filter (fun p => !l.contains (homeBank s p.1)) }
-- DEDUCED, log 95 (safe).
/-- Banks take an owner tag, or none; their ways are converted. -/
def convertBanks (s : State) (stk : Nat) (l : List Nat) (tag : Option (Nat × Nat)) : State :=
  let s := dropScratch s stk l
  match tag with
  | none => s.setStack stk { s.stack stk with banks := (s.stack stk).banks.filter (fun p => !l.contains p.1) }
  | some q =>
    let s := if q.2 = 16 then cleanBanks s stk l else s
    s.setStack stk { s.stack stk with banks := l.foldl (fun m b => tabSet m b q) (s.stack stk).banks }

/-! ## Instantiation (R224) -/

/-- The output ports of a tile of a configuration with their destination fields, by the key of node and port. -/
def cfgOuts (c : TileCfg) : List (Nat × Nat) :=
  (c.nodes.flatMap (fun q =>
    let n := q.1
    let r := q.2.toNat
    let k := recKind r
    if k = 0 then
      if recSub r = 0 then
        let h := match tabFind c.code (recLit r % 4096 - 1) with | some w => w.word.toNat | none => 0
        (List.range (hdrNout h)).map (fun p => (portKey n p, recDst (tabGet 0 c.nodes (n + p / 2)).toNat (p % 2)))
      else []
    else if k = 1 then c.route.map (fun p => (portKey n p.1, p.2.toNat))
    else if k = 2 ∨ k = 15 then []
    else
      let b := tabGet [] c.params n
      [(portKey n 0, recDst r 0), (portKey n 1, recDst r 1)] ++
        (if k = 8 ∨ k = 9 then (List.range 6).map (fun p => (portKey n (p + 2), pDst b (p + 2))) else []) ++
        (if k = 3 then [(portKey n statPort, pStatd b)] else []))).filter (fun q => (readDest q.2).isSome)

/-- The format of tokens on an edge: what its consumer's block names (R182). -/
def destFmt (cfg : List TileCfg) (d : Dest) : BitVec 4 :=
  match cfg.find? (fun c => decide (c.dx = d.dx) && decide (c.dy = d.dy)) with
  | none => 0
  | some c =>
    let k := recKind (tabGet 0 c.nodes d.node).toNat
    if k ≤ 2 ∨ k = 15 then 0 else BitVec.ofNat 4 (pIfmt (tabGet [] c.params d.node))

def tileAt (i : Inst) (dx dy : Nat) : TileId := { stk := i.stk, x := i.ox + dx, y := i.oy + dy }

-- DESIGN CHOICE, log 152 (safe).
/-- The producer's end of an edge; R35 gives the priority of SO and ME tokens no value, which is free. -/
def mkOut (s : State) (i : Inst) (cfg : List TileCfg) (c : TileCfg) (q : Nat × Nat) : OutEdge :=
  let d := (readDest q.2).getD { dx := 0, dy := 0, node := 0, port := 0 }
  { dst := tileAt i d.dx d.dy, dnode := d.node, dport := d.port, depth := 0, pull := c.pulls.contains q.1, next := 0, skip := 0, made := 0
    covered := 0, waiting := [], fmt := destFmt cfg d
    pri := BitVec.ofNat 2 ((Config.freeWord (s.tick * 2 ^ 40 + tileKey (tileAt i c.dx c.dy) * 2 ^ 14 + q.1)).toNat % 3), lastSent := [] }

/-- The sink end of an edge, with its producer. -/
def mkEdge (outs : List (TileId × Nat × OutEdge)) (t : TileId) (key depth : Nat) : Edge :=
  let p := outs.find? (fun o => decide (o.2.2.dst = t) && decide (portKey o.2.2.dnode o.2.2.dport = key))
  { depth := depth, expect := 0, early := [], fifo := [], pull := (match p with | some o => o.2.2.pull | none => false), asked := 0, arrived := 0
    reconf := none, src := (match p with | some o => o.1 | none => t), srcNode := (match p with | some o => o.2.1 / 16 | none => 1023)
    srcPort := (match p with | some o => o.2.1 % 16 | none => 15), lastTaken := [] }

/-- Sources of a tile, once for each tag. -/
def mkSources (c : TileCfg) (ntags : Nat) : List (Nat × BitVec 32 × BitVec 8) :=
  c.nodes.flatMap (fun q =>
    let r := q.2.toNat
    let h := match tabFind c.code (recLit r % 4096 - 1) with | some w => w.word.toNat | none => 0
    if recKind r = 0 ∧ recSub r = 0 ∧ hdrNin h = 0 then (List.range ntags).map (fun g => (q.1, BitVec.ofNat 32 g, 0)) else [])

/-- A tile of an instance with its initial state; debug control stays. -/
def mkTile (i : Inst) (outs : List (TileId × Nat × OutEdge)) (c : TileCfg) (dbg : DbgState) : Tile :=
  let t := tileAt i c.dx c.dy
  { inst := some i.id, resident := i.resident, code := c.code, nodes := c.nodes, params := c.params, route := c.route
    sources := mkSources c i.ntags
    edges := c.depths.map (fun d => (d.1, mkEdge outs t d.1 d.2))
    outs := (outs.filter (fun o => decide (o.1 = t))).foldl (fun m o => tabSet m o.2.1 o.2.2) []
    dbg := dbg }

/-- All tiles of a configuration at an instance's place. -/
def placeTiles (s : State) (i : Inst) (c : PlacedCfg) : State :=
  let outs : List (TileId × Nat × OutEdge) := c.tiles.flatMap (fun k => (cfgOuts k).map (fun q => (tileAt i k.dx k.dy, q.1, mkOut s i c.tiles k q)))
  c.tiles.foldl (fun s k => let t := tileAt i k.dx k.dy; s.setTile t (mkTile i outs k (s.tile t).dbg)) s

/-- Nodes of an instance that a test selects. -/
def instNodes (s : State) (i : Inst) (p : Tile → Nat → Bool) : List (TileId × Nat) :=
  i.rect.flatMap (fun t => let x := s.tile t; ((x.nodes.map (fun q => q.1)).filter (p x)).map (fun n => (t, n)))

/-- Quantum in cycles; none where it never expires (R313, R322). -/
def quantumOf (s : State) (l : Launch) : Option Nat :=
  if l.quant = 2 ^ 32 - 1 then none else some (1024 * (if l.quant = 0 then (s.part (s.partOfCtx l.ctx)).qdef else l.quant))

/-- The quantum of an instance counts from now. -/
def startQuantum (s : State) (l : Launch) (i : Inst) : State :=
  match quantumOf s l with
  | none => s
  | some q => s.at_ i.stk ((s.stack i.stk).cyc + q) (.quantumExpiry l.lid l.ctx i.stk)

/-- The sources are armed once every bind has answered (R227, R344); a launch whose instances all run is RUNNING. -/
def armInst (s : State) (id : Nat) : State :=
  match s.inst? id with
  | none => s
  | some i =>
    if i.armed || decide (i.binding ≠ 0) then s
    else
      let s := s.setInst { i with armed := true, wd := s.cyc i.stk, qstart := (s.stack i.stk).cyc }
      match s.launch? i.ctx i.lid with
      | none => s
      | some l =>
        let s := startQuantum s l i
        let all_ := s.insts.all (fun j => !(decide (j.ctx = l.ctx) && decide (j.lid = l.lid)) || j.armed)
        let s := if all_ && decide (l.st = .admitted) then s.setLaunch { l with st := .running } else s
        (s.later (.endOfStream id)).later (.replayDelivery l.ctx l.lid i.stk)

/-- One of the answers that an instance's sources wait for has come (R314, R344). -/
def bindDone (s : State) (id : Nat) : State :=
  match s.inst? id with
  | none => s
  | some i => if i.binding ≤ 1 then armInst (s.setInst { i with binding := 0 }) id else s.setInst { i with binding := i.binding - 1 }

-- DEDUCED, log 106 (unsafe).
-- DEDUCED, log 178 (safe).
/-- SHPW: the shape addresses are written at ARGP (R314); writes at another device are acknowledged before the sources are armed. -/
def writeShapes (s : State) (i : Inst) (l : Launch) : State :=
  if !l.shpw then s
  else
    let b := l.shapes.flatMap (fun a => bytesOf 8 a)
    let go := fun (s : State) (va : Nat) (b : List Byte) =>
      match locate s { stk := i.stk, ctx := i.ctx, inst := none, kind := .host, write := true, va := va } with
      | .error e => readFault s i.ctx e
      | .ok p =>
        let s := notePlace s p
        let o := p.key % 128
        let data := wordOfBytes b * 2 ^ (8 * o)
        match p with
        | .here q => homeWrite s q.key b
        | .away d _ _ _ =>
          if routed s i.stk d then
            let q : HomeReq := { blankReq with kind := .publish, size := 128, val := BitVec.ofNat 1024 data
                                               mask := BitVec.ofNat 128 ((2 ^ b.length - 1) * 2 ^ o) }
            (sendRemote s i.stk i.ctx va p.key (.shapes i.id) { req := q } none).2
          else readFault s i.ctx (fabricInfo s va AccKind.host.num i.ctx d none)
    let a := i.argp.toNat
    let m := Nat.min 32 (128 - a % 128)
    let s := go s a (b.take m)
    if m < 32 then go s (a + m) (b.drop m) else s

/-- What stands before the arming of the sources: the shape addresses, and the binds of CHANs (R314, R344). -/
def beginInst (s : State) (id : Nat) : State :=
  match s.inst? id with
  | none => s
  | some i =>
    let s := match s.launch? i.ctx i.lid with | some l => writeShapes s i l | none => s
    let chans := instNodes s i (fun x n => x.isChan n && !(x.soOf n).bound)
    let s := s.setInst { i with binding := chans.length + (s.remote.filter (fun r => r.who == .shapes id)).length }
    armInst (s.laterAll (chans.map (fun q => Act.chanBind q.1 q.2))) id

/-- INSTANTIATE (R224): configuration-span state is set, MPORTs register, CHANs ask to be bound, sources are armed. -/
def instantiate (id : Nat) (s : State) : State :=
  match s.inst? id with
  | none => s
  | some i =>
    if i.armed || i.saved || i.rect.any (fun t => decide ((s.tile t).inst = some id)) then s
    else
      match instCfg s i with
      | none => s
      | some c =>
        let s := cacheTouch (placeTiles s i c) i.stk c.key
        let s := (instNodes s i (fun x n => x.isMport n 0 || x.isMport n 1)).foldl (fun s q => mpInit q.1 q.2 s) s
        let s := beginInst s id
        if i.halting then s.laterAll (i.rect.map Act.halt) else s
def execInstantiate (inst : Nat) (s : State) : Outcome := .next (instantiate inst s)

/-! ## Leaving (R243, R285, R327, R357) -/

/-- Requests at other devices that tiles wait for before they stand still. -/
def waitsOn (ts : List TileId) : RemFor → Bool
  | .load t _ => ts.contains t
  | .sync t _ => ts.contains t
  | .fill t _ => ts.contains t
  | .window t _ _ => ts.contains t
  | .range t _ _ => ts.contains t
  | .publish t _ _ => ts.contains t
  | .cmd t _ => ts.contains t
  | .mport t _ _ => ts.contains t
  | _ => false
/-- Requests at other devices that end with an instance's place. -/
def ownedBy (i : Inst) : RemFor → Bool
  | .prefetch t _ => i.rect.contains t
  | .chan t _ => i.rect.contains t
  | .shapes j => decide (j = i.id)
  | w => waitsOn i.rect w

/-- Registrations at other devices that an instance's tiles hold. -/
def awayOf (s : State) (i : Inst) : List AwayReg :=
  i.rect.flatMap (fun t =>
    let x := s.tile t
    x.firings.flatMap (fun f =>
      (f.wins.filter (fun w => w.2.remote)).map (fun w => { stk := t.stk, ctx := i.ctx, key := w.2.key, rid := w.2.wid }) ++
      (match f.granted with | some (_, a) => a | none => [])) ++
    x.cmds.flatMap (fun c => c.away) ++ x.so.flatMap (fun v => v.2.away))

def Inst.holds? (i : Inst) : Holder → Bool
  | .firing t _ => i.rect.contains t
  | .inst j => decide (j = i.id)
  | _ => false
/-- Reservations and waiting opens of an instance leave the tables (R161, R354). -/
def dropWaits (s : State) (i : Inst) : State :=
  { s with stks := s.stks.map (fun p => (p.1, { p.2 with
      resvs := p.2.resvs.filter (fun r => !i.holds? r.2.1)
      waits := p.2.waits.filter (fun w => !(match w.who with | .window t _ _ => i.rect.contains t | .command t _ _ => i.rect.contains t | _ => false)) })) }
def mapRegs (f : List Reg → List Reg) (s : State) : State :=
  { s with stks := s.stks.map (fun p => (p.1, { p.2 with regs := f p.2.regs })) }
/-- Every registration of an instance and its firings leaves the tables. -/
def dropInstRegs (s : State) (i : Inst) : State := dropWaits (mapRegs (fun l => l.filter (fun r => !i.holds? r.holder)) s) i
-- DEDUCED, log 93 (unsafe).
/-- The registrations of an instance that is saved stay, in its name (R153, R157). -/
def parkInstRegs (s : State) (i : Inst) : State :=
  dropWaits (mapRegs (fun l => l.map (fun r => match r.holder with
    | .firing t fid => if i.rect.contains t then { r with holder := .saved i.id t fid } else r
    | _ => r)) s) i
/-- They leave when it is restored or discarded. -/
def unparkRegs (s : State) (i : Inst) : State :=
  releaseAway (mapRegs (fun l => l.filter (fun r => match r.holder with
    | .saved j _ _ => decide (j ≠ i.id)
    | .inst j => decide (j ≠ i.id)
    | _ => true)) s) i.parked

/-- The tiles of an instance are free; debug control stays. -/
def clearTiles (s : State) (i : Inst) : State := i.rect.foldl (fun s t => s.setTile t { dbg := (s.tile t).dbg }) s

/-- Tokens in the network that are an instance's: for its tiles, or still held where one of them sent it (R48). -/
def netOf (s : State) (i : Inst) : List NetTok :=
  s.net.filter (fun n =>
    (decide (n.tok.dev.toNat = s.dev) && decide (n.tok.ctx.toNat = i.ctx) && i.rect.contains n.tok.tile) ||
    (decide (n.at_ = n.src) && i.rect.contains n.at_))

/-- An instance leaves its place: banks, tiles, and what they wait for; requests that waited to be sent may go now (R347). -/
def vacate (s : State) (i : Inst) : State :=
  let s := pumpRemote { s with remote := s.remote.filter (fun r => !ownedBy i r.who), closes := s.closes.filter (fun c => !i.rect.contains c.t) }
  let s := convertBanks s i.stk i.banks none
  (retryOpens (clearTiles s i)).later .arbitrationPass

/-- An instance is gone. -/
def dropInst (s : State) (i : Inst) : State :=
  let away := awayOf s i ++ opensAsked s (waitsOn i.rect)
  let s := vacate (dropInstRegs (releaseAway { s with net := s.net.filter (fun n => !(netOf s i).contains n) } away) i) i
  { s with insts := s.insts.filter (fun j => j.id != i.id) }

/-- A saved instance is gone. -/
def dropSaved (s : State) (i : Inst) : State :=
  let s := retryOpens (unparkRegs s i)
  { s with insts := s.insts.filter (fun j => j.id != i.id) }

/-- A launch loses an instance; with the last one it completes. -/
def leaveLaunch (s : State) (i : Inst) (st : LStatus) : State :=
  match s.launch? i.ctx i.lid with
  | none => s
  | some l =>
    let l := { l with insts := l.insts.filter (fun j => j != i.id) }
    if l.insts.isEmpty then completeLaunch (s.setLaunch l) l st else s.setLaunch l

/-! ## End of stream (R243) -/

/-- A stream operator has passed its last token: nothing is held, and what is fed from outside has ended. -/
def soEnded (x : Tile) (n ntags : Nat) : Bool :=
  let v := x.soOf n
  let outside := x.edges.any (fun e => decide (e.1 / 16 = n) && decide (e.2.srcNode = 1023))
  v.outq.isEmpty && v.store.isEmpty && v.bytes.isEmpty && v.blocks.isEmpty && v.inflight.isEmpty && !v.wrote && v.dones.isEmpty && v.relatches.isEmpty &&
  (if x.isMport n 0 then v.dead || decide (ntags ≤ v.mtag) || decide (mpCount (x.block n) = 0)
   else v.dead || !outside || isArrival x n || v.finished)

def tileEnded (x : Tile) (ntags : Nat) : Bool :=
  x.sources.isEmpty && x.firings.isEmpty && x.matching.isEmpty && x.edges.all (fun e => e.2.early.isEmpty && e.2.fifo.isEmpty) &&
  x.outs.all (fun o => o.2.waiting.isEmpty) && !x.cmds.any (fun c => c.pending) && x.me.queue.isEmpty && x.me.drains.isEmpty &&
  x.me.held.isEmpty && x.lcb.job.isNone && x.lcb.queue.isEmpty && x.nodes.all (fun q => x.isActor q.1 || decide (recKind q.2.toNat ≤ 2) || soEnded x q.1 ntags)

-- DEDUCED, log 96 (unsafe).
def instEnded (s : State) (i : Inst) : Bool :=
  i.armed && !i.halting && !i.saved && !i.resident && (netOf s i).isEmpty && i.rect.all (fun t => tileEnded (s.tile t) i.ntags)

/-- END_OF_STREAM. -/
def endStream (id : Nat) (s : State) : State :=
  match s.inst? id with
  | none => s
  | some i => if instEnded s i then leaveLaunch (dropInst s i) i .ok else s
def execEndOfStream (inst : Nat) (s : State) : Outcome := .next (endStream inst s)

/-! ## Halting (R352 to R355) -/

/-- A firing's opens and its command's ranges, granted or not, are asked for no longer. -/
def cancelOpens (s : State) (t : TileId) (f : Firing) : State :=
  let mine := fun (w : WtReq) => match w.who with
    | .window t' f' _ => decide (t' = t) && decide (f' = f.id)
    | .command t' f' _ => decide (t' = t) && decide (f' = f.id)
    | _ => false
  let s := releaseAway s (opensAsked s (RemFor.opensFor t f.id))
  let s : State := { s with remote := s.remote.filter (fun r => !r.who.opensFor t f.id) }
  let s := dropGranted s f
  let s := dropRanges s (s.stks.flatMap (fun p => (p.2.waits.filter (fun w => mine w && w.decided)).flatMap (fun w =>
    w.regs.map (fun q => (q.1, q.2.wid)))))
  retryOpens { s with stks := s.stks.map (fun p => (p.1, { p.2 with waits := p.2.waits.filter (fun w => !mine w) })) }

/-- Opens and ranges that are not granted are withdrawn, with the firing at the form (R354). -/
def withdraw (s : State) (t : TileId) (f : Firing) : State :=
  let ungranted := fun (rid : Nat) => s.stks.any (fun p => p.2.waits.any (fun w => decide (w.rid = rid) && !w.decided))
  let here := match f.wait with
    | .window _ rid => ungranted rid
    | .range rids => rids.any ungranted
    | _ => false
  let away := s.remote.any (fun r => match r.who with
    | .window t' f' _ => decide (t' = t) && decide (f' = f.id) && f.wait == .remote r.rid
    | .range t' f' _ => decide (t' = t) && decide (f' = f.id)
    | _ => false)
  if !here && !away then s
  else (cancelOpens s t f).setFiring t { f with st := .running, wait := .none, held := false, granted := none }

-- DESIGN CHOICE, log 102 (unsafe).
/-- HALT (R352): issue stops at the tile; what is not granted is withdrawn. -/
def haltTile (t : TileId) (s : State) : State :=
  let x := s.tile t
  if x.inst.isNone || x.resident || x.halting then s
  else
    let s := s.setTile t { x with halting := true }
    x.firings.foldl (fun s f => withdraw s t f) s
def execHalt (t : TileId) (s : State) : Outcome := .next (haltTile t s)

/-- A firing has nothing in flight (R354), and its posts have been delivered here (R173). -/
def firingStill (s : State) (f : Firing) : Bool :=
  (f.closing.isEmpty || decide (f.st = .suspended)) && f.pend.all (fun p => match p.src with | .remote _ => false | .post _ _ => false | _ => true) &&
  (match f.wait with
   | .remote _ => false
   | .window _ _ => false
   | .range _ => false
   | .coll _ n i _ => ownDelivered s n i
   | _ => true)

/-- Steps 1 to 3 of R352 are done, and the commands of R357 that run to completion are: a copy stands at the end of a chunk, and before
a save the drains have ended. -/
def tileStill (s : State) (t : TileId) : Bool :=
  let x := s.tile t
  x.me.queue.isEmpty && (x.me.drains.isEmpty || !x.halting) && x.firings.all (firingStill s) &&
  x.cmds.all (fun c => !c.pending || (c.isCopy && decide (c.acks = 0) && c.sent.isNone && c.asked.isEmpty)) &&
  !s.remote.any (fun r => waitsOn [t] r.who && (decide (r.due ≠ 0) || !r.sent))

/-- Every tile of a launch's instances has reached its halt point. -/
def launchHalted (s : State) (l : Launch) : Bool :=
  s.insts.all (fun i => !(decide (i.ctx = l.ctx) && decide (i.lid = l.lid)) || i.saved || i.rect.all (fun t => (s.tile t).atHalt))

/-- A failure in flight is reported at the boundary where its firing stands (R242, R355). -/
def haltFaults (t : TileId) (s : State) : State :=
  ((s.tile t).firings.map (fun f => f.id)).foldl (fun s fid =>
    match s.firing? t fid with
    | some f =>
      if decide (f.st = .ready) || decide (f.st = .running) || decide (f.st = .draining) then
        match f.failed with
        | some e => takeFault s t f e
        | none => s
      else s
    | none => s) s

/-- HALT_POINT (R352, R405): the tile reports; with the last one of a launch, or of a configuration that no launch placed, its save
begins. A debug halt sets HALTED. -/
def haltPoint (t : TileId) (s : State) : State :=
  let s := if (s.tile t).halting && !(s.tile t).atHalt then haltFaults t s else s
  let x := s.tile t
  if x.halting && !x.atHalt then
    if !tileStill s t then s
    else
      let s := s.setTile t { x with atHalt := true }
      match x.inst.bind s.inst? with
      | none => s
      | some i =>
        match s.launch? i.ctx i.lid with
        | some l => if decide (l.st = .halting) && launchHalted s l then s.later (.imageSave l.ctx l.lid) else s
        | none => if i.lid = 0 then s.later (.imageSave i.ctx 0) else s
  else if x.dbg.halt && !x.dbg.halted && !x.halting && tileStill s t then s.setTile t { x with dbg := { x.dbg with halted := true } }
  else s
def execHaltPoint (t : TileId) (s : State) : Outcome := .next (haltPoint t s)

/-- A launch whose admission is to restore it gives its places up: it is saved, as it was (R325). -/
def unadmit (s : State) (l : Launch) (is_ : List Inst) (why : Option HoldWhy) : State :=
  let s := is_.foldl (fun s i => convertBanks s i.stk i.banks none) s
  (s.setLaunch { l with st := .saved, held := if why.isSome then why else l.held }).later .arbitrationPass

/-- An instance is asked to halt (R352); one that has just been rebuilt waits for its registrations first. -/
def askHalt (s : State) (i : Inst) : State :=
  (i.rect.foldl (fun s t => s.setTile t { s.tile t with atHalt := false }) (s.setInst { i with halting := true })).laterAll (i.rect.map Act.halt)

/-- A launch is pre-empted (R325, R352): every instance that has not ended is halted. An instance that has just ended
completes instead (R328). -/
def preempt (s : State) (ctx lid : Nat) (why : Option HoldWhy) : State :=
  let s := ((s.insts.filter (fun i => decide (i.ctx = ctx) && decide (i.lid = lid))).map (fun i => i.id)).foldl (fun s i => endStream i s) s
  match s.launch? ctx lid with
  | none => s
  | some l =>
    if l.st = .halting then s.setLaunch { l with held := if why.isSome then why else l.held }
    else if l.st ≠ .running ∧ l.st ≠ .admitted then s
    else
      let mine := s.insts.filter (fun i => decide (i.ctx = ctx) && decide (i.lid = lid))
      let is_ := mine.filter (fun i => !i.saved)
      if is_.isEmpty then unadmit s l mine why else
      is_.foldl askHalt (s.setLaunch { l with st := .halting, held := why })

/-! ## The watchdog (R274, R326, R406) -/

/-- A firing waits in one of the waits that hold the watchdog. -/
def waitHolds (f : Firing) : Bool :=
  decide (f.st = .stalled) && (match f.wait with
    | .bwait _ _ _ _ _ _ => true
    | .mwait _ => true
    | .cwait _ => true
    | .lwait _ => true
    | .coll _ _ _ _ => true
    | .window _ _ => true
    | .range _ => true
    | _ => false)
def waitRecv (f : Firing) : Bool := decide (f.st = .stalled) && (match f.wait with | .recv _ _ => true | _ => false)
/-- Live firings of an instance. -/
def liveFirings (s : State) (i : Inst) : List Firing := i.rect.flatMap (fun t => (s.tile t).firings)
def watchdogHeld (s : State) (i : Inst) : Bool :=
  i.dhold || (let l := liveFirings s i; l.any waitHolds && l.all (fun f => waitHolds f || waitRecv f))

def wdPeriod (s : State) (i : Inst) : Nat := 2 ^ (s.part i.part).wdlog.toNat
def watchdogDue (s : State) (i : Inst) : Bool :=
  i.armed && !i.halting && !i.saved && !i.resident && !watchdogHeld s i && decide (wdPeriod s i ≤ s.cyc i.stk - i.wd)

/-- DEADLOCK names the instance (R404). -/
def deadlockInfo (s : State) (i : Inst) : FInfo :=
  { code := .deadlock, detail := fld 0 1 i.stk + fld 1 1 i.ox + fld 2 1 i.oy + fld 3 1 i.w + fld 4 1 i.h + fld 8 8 (wdPeriod s i) }
def takeDeadlock (s : State) (i : Inst) : State :=
  let s := postNodeFault s { stk := i.stk, x := i.ox, y := i.oy } i.ctx (deadlockInfo s i) 0 0 .halted
  preempt s i.ctx i.lid (some .deadlock)

-- DEDUCED, log 101 (unsafe).
/-- WATCHDOG_EXPIRY. -/
def watchdog (id : Nat) (s : State) : State :=
  match s.inst? id with
  | none => s
  | some i => if watchdogDue s i && !instEnded s i then takeDeadlock s i else s
def execWatchdogExpiry (inst : Nat) (s : State) : Outcome := .next (watchdog inst s)

/-- SO_RESIDUE_FAULT (R273, R326): the launch of a node that has stopped is saved and held. -/
def soResidueFault (t : TileId) (n : Nat) (s : State) : State :=
  match (s.tile t).inst.bind s.inst? with
  | none => s
  | some i => if ((s.tile t).soOf n).dead then preempt s i.ctx i.lid (some .residue) else s
def execSoResidueFault (t : TileId) (node : Nat) (s : State) : Outcome := .next (soResidueFault t node s)

/-- Instances that a CHAN of an instance reaches on this device. -/
def chanReach (s : State) (i : Inst) : List Nat :=
  (instNodes s i (fun x n => x.isChan n && (x.soOf n).bound)).filterMap (fun q =>
    let r := pRoute ((s.tile q.1).block q.2)
    if bitsNat r 38 27 = s.dev then
      (s.tile { stk := bitsNat r 26 25, x := Nat.min (bitsNat r 24 20) 16, y := bitsNat r 19 16 }).inst
    else none)
/-- One step of the joined set: either direction of a binding joins. -/
def joinStep (s : State) (l : List Nat) : List Nat :=
  ((s.insts.filter (fun i => l.contains i.id || (chanReach s i).any (fun j => l.contains j))).flatMap (fun i => i.id :: chanReach s i) ++ l).eraseDups
def joined (s : State) : Nat → List Nat → List Nat
  | 0, l => l
  | n + 1, l => joined s n (joinStep s l)

/-- DHOLD (R406): the set as the bindings stand now is held. -/
def debugHold (id : Nat) (s : State) : State :=
  let l := joined s s.insts.length [id]
  { s with insts := s.insts.map (fun i => if l.contains i.id then { i with holds := (id :: i.holds).eraseDups } else i) }
def execDhold (inst : Nat) (s : State) : Outcome := .next (debugHold inst s)
/-- DFREE (R406): the holds that the instance is under end, each for the whole set it was taken for, and a watchdog that no hold is left
on counts again from zero. -/
def debugFree (id : Nat) (s : State) : State :=
  let ends := (s.insts.filter (fun i => i.id == id)).flatMap (fun i => i.holds)
  { s with insts := s.insts.map (fun i =>
      let left := i.holds.filter (fun h => !ends.contains h)
      if i.dhold && left.isEmpty then { i with holds := [], wd := s.cyc i.stk } else { i with holds := left }) }
def execDfree (inst : Nat) (s : State) : Outcome := .next (debugFree inst s)

-- DEDUCED, log 70 (unsafe).
/-- A replayed choice that cannot match its log (R408): the launch stops as at a deadlock. -/
def diverged (id : Nat) (s : State) : State :=
  match s.inst? id with
  | none => s
  | some i =>
    match s.launch? i.ctx i.lid with
    | some l =>
      if l.st ≠ .running then s
      else
        preempt (postNodeFault s { stk := i.stk, x := i.ox, y := i.oy } i.ctx (engineInfo 7 id) 0 0 .halted) i.ctx i.lid (some .deadlock)
    | none => s

/-! ## KILL (R327) -/

/-- A launch's instances on this device are discarded, and it completes. -/
def discardLaunch (s : State) (l : Launch) (st : LStatus) : State :=
  let s := (s.insts.filter (fun i => decide (i.ctx = l.ctx) && decide (i.lid = l.lid))).foldl (fun s i =>
    if i.saved then dropSaved s i else dropInst s i) s
  let s : State := { s with images := s.images.filter (fun m => !(decide (m.ctx = l.ctx) && decide (m.lid = l.lid) && !m.wide)) }
  completeLaunch s l st

def killFiring (t : TileId) (fid : Nat) (s : State) : State :=
  match s.firing? t fid with
  | none => s
  | some f =>
    if f.st ≠ .suspended then s
    else
      match (s.inst? f.inst).bind (fun i => s.launch? i.ctx i.lid) with
      | some l => discardLaunch s l .killed
      | none => s
def execKill (t : TileId) (fid : Nat) (s : State) : Outcome := .next (killFiring t fid s)

end Sys2Proof.Machine
end

