-- ==== Sys2Proof/Machine/Image.lean ====
section
/-! DEFINITION. The Caravan image as bytes (R359 to R365): one codec for each kind of content, which both writes and reads it. The spec
lays out the header, the section table, INST, LREC, WIN, MAP, PENDQ, the firing record and the tokens; where it lays nothing out, the
order of the fields is the model's. -/

namespace Sys2Proof.Machine

/-! ## Codecs -/

/-- How a content is written, and read from the front of some bytes; none where they do not hold one. -/
structure Codec (α : Type) where
  put : α → List Byte
  get : List Byte → Option (α × List Byte)

/-- A number of n bytes. -/
def cU (n : Nat) : Codec Nat where
  put := bytesOf n
  get b := let l := b.take n; if l.length < n then none else some (wordOfBytes l, b.drop n)
/-- n bytes that are zero (R365). -/
def cZero (n : Nat) : Codec Unit where
  put _ := List.replicate n 0
  get b := let l := b.take n; if l.length < n || l.any (fun x => x != 0) then none else some ((), b.drop n)
/-- Bytes as they are. -/
def cRaw (n : Nat) : Codec (List Byte) where
  put b := b.take n ++ List.replicate (n - b.length) 0
  get b := let l := b.take n; if l.length < n then none else some (l, b.drop n)
/-- A number in as many bytes as it needs, after their count. -/
def cNat : Codec Nat where
  put v := let n := if v = 0 then 0 else Nat.log2 v / 8 + 1; BitVec.ofNat 8 n :: bytesOf n v
  get b := match b with | [] => none | n :: r => (cU n.toNat).get r

/-- One content after another. -/
def Codec.x {α β : Type} (a : Codec α) (b : Codec β) : Codec (α × β) where
  put p := a.put p.1 ++ b.put p.2
  get l := match a.get l with | none => none | some (u, l) => (b.get l).map (fun q => ((u, q.1), q.2))
/-- The same content under another type. -/
def Codec.map {α β : Type} (a : Codec α) (f : α → β) (g : β → α) : Codec β where
  put v := a.put (g v)
  get l := (a.get l).map (fun q => (f q.1, q.2))
/-- A content that has to pass a test. -/
def Codec.check {α : Type} (a : Codec α) (p : α → Bool) : Codec α where
  put := a.put
  get l := match a.get l with | some (v, r) => if p v then some (v, r) else none | none => none
/-- n contents of one kind. -/
def getMany {α : Type} (a : Codec α) : Nat → List Byte → Option (List α × List Byte)
  | 0, l => some ([], l)
  | n + 1, l => match a.get l with | none => none | some (v, l) => (getMany a n l).map (fun q => (v :: q.1, q.2))
def Codec.many {α : Type} (a : Codec α) (n : Nat) : Codec (List α) where
  put l := l.flatMap a.put
  get := getMany a n
/-- A list, after its length. -/
def Codec.list {α : Type} (a : Codec α) : Codec (List α) where
  put l := cNat.put l.length ++ l.flatMap a.put
  get b := match cNat.get b with | none => none | some (n, b) => getMany a n b
def Codec.opt {α : Type} (a : Codec α) : Codec (Option α) := a.list.map List.head? Option.toList
def Codec.tab {α : Type} (a : Codec α) : Codec (Tab α) := (cNat.x a).list

def cInt : Codec Int := cNat.map (fun n => if n % 2 = 0 then ((n / 2 : Nat) : Int) else -((n / 2 : Nat) : Int) - 1) (fun v => if v < 0 then 2 * (-v - 1).toNat + 1 else 2 * v.toNat)
def cBool : Codec Bool := ((cU 1).check (fun n => decide (n ≤ 1))).map (fun n => decide (n = 1)) Bool.toNat
def cBv (n : Nat) : Codec (BitVec n) := cNat.map (BitVec.ofNat n) BitVec.toNat
def cNats : Codec (List Nat) := cNat.list
def cByte : Codec Byte := (cU 1).map (BitVec.ofNat 8) BitVec.toNat
/-- The 82 bytes of a token (R35). -/
def cToken : Codec Token := (cU 82).map tokenOfFlit Token.flit
def cTile : Codec TileId := (cNat.x (cNat.x cNat)).map (fun (a, b, c) => { stk := a, x := b, y := c }) (fun t => (t.stk, t.x, t.y))

/-! ## Waits, faults, commands -/

def waitNums : Wait → List Nat
  | .tags m => [1, m.toNat]
  | .recv q p => [2, q.toNat, p]
  | .bwait d n k g a v => [3, d.toNat, n, k, g.toNat, a.toNat, v.toNat]
  | .coll q n i a => [4, q.toNat, n, i, a.toNat]
  | .cwait id => 5 :: id.toList
  | .mwait m => [6, m.toNat]
  | .lwait m => [7, m.toNat]
  | .leval => [8]
  | .cause c => [9, c.num]
  | _ => []
def waitOf : List Nat → Wait
  | [1, m] => .tags (BitVec.ofNat 16 m)
  | [2, q, p] => .recv (BitVec.ofNat 7 q) p
  | [3, d, n, k, g, a, v] => .bwait (BitVec.ofNat 10 d) n k (decide (g = 1)) (decide (a = 1)) (BitVec.ofNat 64 v)
  | [4, q, n, i, a] => .coll (BitVec.ofNat 7 q) n i (decide (a = 1))
  | [5] => .cwait none
  | [5, i] => .cwait (some i)
  | [6, m] => .mwait (BitVec.ofNat 4 m)
  | [7, m] => .lwait (BitVec.ofNat 8 m)
  | [8] => .leval
  | [9, c] => .cause (codeOf c)
  | _ => .none

def cFault : Codec FInfo := (cNat.x (cNat.x ((cNat.x cNat).opt.x (cBool.x cNat)))).map
  (fun (c, d, h, p, m) => { code := codeOf c, detail := d, hv := h, poison := p, cmd := m })
  (fun e => (e.code.num, e.detail, e.hv, e.poison, e.cmd))

def cRect : Codec Rect := (cNat.x (cNat.x (cNat.x cNat))).map
  (fun (a, b, c, d) => { base := a, rowb := b, pitch := c, rows := d }) (fun r => (r.base, r.rowb, r.pitch, r.rows))

def descNums (d : Desc) : List Int :=
  [d.base, d.fmt, d.spl, d.plo, d.phi, d.layout, d.blk, d.rows, d.cols, d.rstr, d.pstr, d.scale, d.cstr]
def descOfNums (l : List Int) : Desc :=
  let n := fun i => (l.getD i 0).toNat
  { base := n 0, fmt := n 1, spl := n 2, plo := n 3, phi := n 4, layout := n 5, blk := n 6, rows := n 7, cols := n 8, rstr := l.getD 9 0
    pstr := n 10, scale := n 11, cstr := l.getD 12 0 }
def cDesc : Codec Desc := (cInt.many 13).map descOfNums descNums

def kindParts : CmdKind → List Nat × List Desc
  | .cpy a b n => ([0, a, b, n], [])
  | .cpyp x y => ([1], [x, y])
  | .cpyt x y => ([2], [x, y])
  | .gath x y i n => ([3, i, n], [x, y])
  | .scat x y i n => ([4, i, n], [x, y])
  | .cpyr a b n => ([5, a, b, n], [])
  | .oload o d r c w b => ([6, o, r, c, w, b], [d])
  | .ostore o d r c => ([7, o, r, c], [d])
  | .ltload c a => ([8, c, a], [])
  | .lwire c a => ([9, c, a], [])
def kindOfParts : List Nat × List Desc → CmdKind
  | ([1], [x, y]) => .cpyp x y
  | ([2], [x, y]) => .cpyt x y
  | ([3, i, n], [x, y]) => .gath x y i n
  | ([4, i, n], [x, y]) => .scat x y i n
  | ([5, a, b, n], _) => .cpyr a b n
  | ([6, o, r, c, w, b], [d]) => .oload o d r c w b
  | ([7, o, r, c], [d]) => .ostore o d r c
  | ([8, c, a], _) => .ltload c a
  | ([9, c, a], _) => .lwire c a
  | (l, _) => .cpy (l.getD 1 0) (l.getD 2 0) (l.getD 3 0)

/-- The areas of a command (R178). -/
def Cmd.ranges? (c : Cmd) : List Range :=
  let b : Block := { src := 0, dst := 0, len := 0, idx := 0, evid := 0, cdst := 0, flg := 0, rest := 0 }
  let d := readDesc 0
  match c.kind with
  | .cpy x y n => (copyWork .cpy { b with src := x, dst := y, len := n } d d).2
  | .cpyr x y n => (copyWork .cpyr { b with src := x, dst := y, len := n } d d).2
  | .cpyp x y => (copyWork .cpyp b x y).2
  | .cpyt x y => (copyWork .cpyt b x y).2
  | .gath x y i n => (copyWork .gath { b with idx := i, len := n } x y).2
  | .scat x y i n => (copyWork .scat { b with idx := i, len := n } x y).2
  | .oload _ x r k _ _ => [⟨false, x.tileArea r k⟩]
  | .ostore _ x r k => [⟨true, x.tileArea r k⟩]
  | .ltload _ a => [⟨false, lineArea a 8192⟩]
  | .lwire _ a => [⟨false, lineArea a 16384⟩]

def stNum : CmdSt → Nat := CmdSt.num
def stOf (n : Nat) : CmdSt := [CmdSt.queued, .running, .done, .failed].getD n .queued

/-- An attached command. Its firing, its instance and what it has under way are not its own. -/
def cCmd : Codec Cmd :=
  (cNat.x (cNat.x ((cNats.x cDesc.list).x (cNats.x (cBool.list.x (cFault.opt.x (cByte.list.opt.x (cRect.list.list)))))))).map
    (fun (id, st, k, n, b, e, p, r) =>
      { id := id, owner := 0, inst := 0, tag := BitVec.ofNat 32 (n.getD 0 0), kind := kindOfParts k, st := stOf st, acq := b.getD 0 false, rel := b.getD 1 false
        scope := scopeOf (BitVec.ofNat 3 (n.getD 1 0)), evid := n.getD 2 0, cdst := BitVec.ofNat 24 (n.getD 3 0), toNode := b.getD 2 false, chunk := n.getD 4 0
        written := n.getD 5 0, fault := e, ranges := if b.getD 3 false then [(0, 0)] else [], away := [], lines := [], asked := []
        acks := n.getD 6 0, snap := p, sent := n[7]?, missed := b.getD 4 false, twice := b.getD 5 false, mismatch := b.getD 6 false
        retried := b.getD 7 false, srcs := r })
    (fun c => (c.id, c.st.num, kindParts c.kind, [c.tag.toNat, c.scope.code.toNat, c.evid, c.cdst.toNat, c.chunk, c.written, c.acks] ++ c.sent.toList,
      [c.acq, c.rel, c.toNode, !c.ranges.isEmpty || !c.away.isEmpty, c.missed, c.twice, c.mismatch, c.retried], c.fault, c.snap, c.srcs))

def cJob : Codec LevalJob :=
  (cNats.x (cBool.list.x ((cNat.x cNat.tab).opt))).map
    (fun (n, b, g) =>
      { owner := n.getD 0 0, q := BitVec.ofNat 7 (n.getD 1 0), n := n.getD 2 0, next := n.getD 3 0, sig := n.getD 4 0, stamp := n.getD 5 0
        orphan := b.getD 0 false, bound := b.getD 1 false, settled := b.getD 2 false, failed := b.getD 3 false, retried := b.getD 4 false
        begun := g.map (fun p => (BitVec.ofNat 3 p.1, p.2)) })
    (fun j => ([j.owner, j.q.toNat, j.n, j.next, j.sig, j.stamp], [j.orphan, j.bound, j.settled, j.failed, j.retried],
      j.begun.map (fun p => (p.1.toNat, p.2))))
def cForm : Codec LcbForm :=
  (cNats.x cJob.opt).map
    (fun (n, j) => match n, j with
      | _, some j => .eval j
      | [0, c], _ => .ctx (BitVec.ofNat 3 c)
      | [1, b, o], _ => .bind b o
      | _, none => .unbind)
    (fun q => match q with
      | .ctx c => ([0, c.toNat], none)
      | .bind b o => ([1, b, o], none)
      | .unbind => ([2], none)
      | .eval j => ([3], some j))

/-! ## Requests and tokens that wait -/

def homeKinds : List HomeKind :=
  [.load, .ldx, .store, .stx, .aadd, .aand, .aor, .axor, .amin, .amax, .axchg, .acas, .publish, .pinv, .pflush, .pclean, .wqry, .bind, .probe]
def cHome : Codec HomeReq := (cNats.x cBool).map
  (fun (n, g) => { kind := homeKinds.getD (n.getD 0 0) .load, addr := n.getD 1 0, size := n.getD 2 0, val := BitVec.ofNat 1024 (n.getD 3 0)
                   cmp := BitVec.ofNat 64 (n.getD 4 0), mask := BitVec.ofNat 128 (n.getD 5 0), sg := g })
  (fun q => ([homeKinds.idxOf q.kind, q.addr, q.size, q.val.toNat, q.cmp.toNat, q.mask.toNat], q.sg))
/-- A publication, a sync access or a command's write that a tile sent and whose home could not be reached (R347). -/
def cOwed : Codec RemOut := (cNats.x (cNats.x cHome)).map
  (fun (n, w, q) =>
    let t : TileId := { stk := w.getD 1 0, x := w.getD 2 0, y := w.getD 3 0 }
    let who := match w.getD 0 0 with
      | 0 => RemFor.publish t (w.getD 4 0) (w.getD 5 0)
      | 1 => .sync t (w.getD 4 0)
      | _ => .cmd t (w.getD 4 0)
    { rid := n.getD 0 0, stk := n.getD 1 0, ctx := n.getD 2 0, dev := n.getD 3 0, dstk := n.getD 4 0, rctx := n.getD 5 0, va := n.getD 6 0
      off := n.getD 7 0, key := n.getD 8 0, who := who, req := q, isOpen := false, openW := false, rowb := 0, pitch := 0, rows := 0, due := 0 })
  (fun r =>
    let w := match r.who with
      | .publish t f c => [0, t.stk, t.x, t.y, f, c]
      | .sync t f => [1, t.stk, t.x, t.y, f]
      | .cmd t c => [2, t.stk, t.x, t.y, c]
      | _ => [0, 0, 0, 0, 0, 0]
    ([r.rid, r.stk, r.ctx, r.dev, r.dstk, r.rctx, r.va, r.off, r.key], w, r.req))
def cClose : Codec CloseRec := (cNat.x (cTile.x (cNats.x (cNats.opt)))).map
  (fun (c, t, n, q) => { cid := c, t := t, fid := n.getD 0 0, win := n.getD 1 0, stk := 0, wid := 0, acks := n.getD 2 0
                         notice := q.map (fun l => ({ stk := l.getD 0 0, ctx := l.getD 1 0, key := l.getD 2 0, rid := l.getD 3 0 }, l.getD 4 0)) })
  (fun c => (c.cid, c.t, [c.fid, c.win, c.acks], c.notice.map (fun q => [q.1.stk, q.1.ctx, q.1.key, q.1.rid, q.2])))
def cNet : Codec NetTok := (cToken.x (cTile.x (cTile.x (cNat.x (cBool.x cBool))))).map
  (fun (k, a, b, n, r, d) => { id := 0, tok := k, at_ := a, tries := n, refused := r, src := b, direct := d })
  (fun n => (n.tok, n.at_, n.src, n.tries, n.refused, n.direct))

/-! ## What an image holds -/

/-- A WIN entry (R362). -/
structure WinEntry where
  rect  : Rect
  w     : Bool
  kind  : Nat
  num   : Nat
  dx    : Nat
  dy    : Nat
  entry : Nat
  deriving DecidableEq, Repr

/-- A tile of a saved instance, by its place in the rectangle, with what is under way for it. -/
structure SavedTile where
  dx     : Nat
  dy     : Nat
  x      : Tile
  net    : List NetTok
  owed   : List RemOut
  closes : List CloseRec
  deriving DecidableEq, Repr

/-- A saved instance: its entry, its tiles, its open windows and registered ranges, its scratch bytes by offset; its sources were
armed. -/
structure SavedInst where
  inst    : Inst
  ghash   : List Byte
  qleft   : Nat
  armed   : Bool
  tiles   : List SavedTile
  wins    : List WinEntry
  scratch : Tab Byte
  deriving DecidableEq, Repr

/-- An image (R361): what its header says, its instances and their launches, and in one of a whole context the launches still queued and
the context's state. -/
structure ImageData where
  ctx      : Nat
  part     : Nat
  wide     : Bool
  dlog     : Bool
  mismatch : Bool
  src      : Nat
  stks     : Nat
  fwver    : Nat
  logpos   : Nat
  savecyc  : Nat
  insts    : List SavedInst
  launches : List Launch
  pend     : List Launch
  state    : Ctx
  deriving DecidableEq, Repr

/-! ## TILE parts (R364) -/

def padTo64 (b : List Byte) : List Byte := b ++ List.replicate ((64 - b.length % 64) % 64) 0

def fstNum : FSt → Nat
  | .waiting => 0 | .ready => 1 | .running => 2 | .stalled => 3 | .draining => 4 | .aborted => 6 | .suspended => 7 | .saved => 8
def fstOf : Nat → Option FSt
  | 0 => some .waiting | 1 => some .ready | 2 => some .running | 3 => some .stalled | 4 => some .draining | 6 => some .aborted | 7 => some .suspended
  | _ => none

/-- What a firing holds beside its record and what follows that, by kind. -/
def heldNums : Held → List Nat
  | .tok p _ => [0, p]
  | .direct _ => [1]
  | .reconf p d => [2, p, d]
  | .event _ => [3]
  | .launch l _ => [4, l]
  | .orel o => [5, o]
/-- The held output in its order, from its kinds, the tokens and the records. -/
def heldOf : List (List Nat) → List Token → List (List Byte) → List Held
  | [0, p] :: l, k :: ks, rs => .tok p k :: heldOf l ks rs
  | [1] :: l, k :: ks, rs => .direct k :: heldOf l ks rs
  | [2, p, d] :: l, ks, rs => .reconf p d :: heldOf l ks rs
  | [3] :: l, ks, r :: rs => .event (BitVec.ofNat 512 (wordOfBytes r)) :: heldOf l ks rs
  | [4, i] :: l, ks, r :: rs => .launch i r :: heldOf l ks rs
  | [5, o] :: l, ks, rs => .orel o :: heldOf l ks rs
  | _, _, _ => []
def heldTok : Held → Option Token
  | .tok _ k => some k
  | .direct k => some k
  | _ => none
def heldRec : Held → Option (List Byte)
  | .event b => some (bytesOf 64 b.toNat)
  | .launch _ b => some b
  | _ => none
def heldSizes (l : List (List Nat)) : List Nat := l.filterMap (fun q => match q with | 3 :: _ => some 64 | 4 :: _ => some 256 | _ => none)

/-- Assigned tokens stand in the Matching piece for these. -/
def Firing.matches? (f : Firing) : Bool := decide (f.st = .waiting) || decide (f.st = .aborted)

/-- What the record of a firing has no place for: the model's own order. -/
structure FiringMore where
  nums   : List Nat
  flags  : List Bool
  wait   : List Nat
  wave   : List Nat
  pend   : List (Nat × Nat)
  kinds  : List (List Nat)
  status : Option Nat
  inputs : List (Nat × Token)
  recvd  : List (Nat × Token)
  places : Tab Nat
  closing : List (Nat × Nat)
  eval   : Option LevalJob
  lines  : List (Nat × Nat)
  deriving DecidableEq, Repr
def cMore : Codec FiringMore :=
  (cNats.x (cBool.list.x (cNats.x (cNats.x ((cNat.x cNat).list.x (cNats.list.x (cNat.opt.x ((cNat.x cToken).list.x ((cNat.x cToken).list.x
    (cNat.tab.x ((cNat.x cNat).list.x (cJob.opt.x ((cNat.x cNat).list))))))))))))).map
    (fun (a, b, c, d, e, f, g, h, i, j, k, l, m) =>
      { nums := a, flags := b, wait := c, wave := d, pend := e, kinds := f, status := g, inputs := h, recvd := i, places := j, closing := k, eval := l, lines := m })
    (fun q => (q.nums, q.flags, q.wait, q.wave, q.pend, q.kinds, q.status, q.inputs, q.recvd, q.places, q.closing, q.eval, q.lines))
def moreOf (x : Tile) (f : Firing) : FiringMore :=
  { nums := [f.id, f.entry, f.cleared.toNat, f.retries, f.banks.toNat, f.ppr.toNat] ++ f.resend.toList
    flags := [f.retried, f.fromDrain], wait := waitNums f.wait
    wave := match f.waveLast with | some w => [w.seq.toNat, w.pred.toNat, w.succ.toNat] | none => []
    pend := f.pend.filterMap (fun p => if p.src = .leval then some (p.d, p.n) else none), kinds := f.out.map heldNums
    status := f.exitStatus.map BitVec.toNat, inputs := if f.matches? then [] else f.inputs, recvd := f.recvd, places := f.reserved
    closing := f.closing, eval := f.reeval
    lines := x.store.zipIdx.filterMap (fun e => if e.1.owner = f.id then some (e.1.line, e.2) else none) }

def Firing.lines (x : Tile) (f : Firing) : List SbEntry := x.store.filter (fun e => e.owner == f.id)
def Firing.attached (x : Tile) (f : Firing) : List Cmd := x.cmds.filter (fun c => c.owner == f.id)

/-- The firing record: 128 bytes. -/
def firingRecord (x : Tile) (f : Firing) (rank gran0 : Nat) : List Byte :=
  let loop := fun n => match tabFind f.loops n with
    | some l => bytesOf 4 l.index ++ bytesOf 4 l.bound ++ bytesOf 2 l.first ++ bytesOf 2 l.last ++ bytesOf 4 1
    | none => List.replicate 16 0
  let steer := f.steer.foldl (fun (v : Nat) q => v + (q.2.1.toNat * 8 + q.2.2.toNat) * 2 ^ (4 * q.1)) 0
  bytesOf 1 (fstNum f.st) ++ bytesOf 1 (match f.cause with | some c => c.num | none => 0) ++ bytesOf 1 f.rstep ++
  bytesOf 1 (f.committed.toNat + 2 * (f.debug).toNat) ++ bytesOf 2 f.node ++ bytesOf 2 f.pc ++ bytesOf 4 f.tag.toNat ++ bytesOf 4 f.count.toNat ++
  bytesOf 4 rank ++ bytesOf 2 (f.frame / 16) ++ bytesOf 2 gran0 ++ bytesOf 4 (f.preds.toNat / 2 * 2 + f.fpf.toNat * 256) ++ bytesOf 4 0 ++
  (List.range 4).flatMap loop ++ (List.range 4).flatMap (fun i => bytesOf 2 (f.rstack.getD i 0)) ++ bytesOf 8 0 ++ bytesOf 1 0 ++
  bytesOf 1 (f.wins.foldl (fun (m : Nat) w => m + 2 ^ w.1) 0) ++ bytesOf 1 f.rstack.length ++ bytesOf 1 0 ++ bytesOf 4 steer ++
  bytesOf 2 (f.lines x).length ++ bytesOf 2 (f.out.filterMap heldTok).length ++ bytesOf 2 (f.out.filterMap heldRec).length ++
  bytesOf 2 (f.attached x).length

/-- What follows a record: its store-buffer lines, held tokens, held records and launches, attached commands. -/
def firingTail (x : Tile) (f : Firing) : List Byte :=
  (f.lines x).flatMap (fun e => bytesOf 128 e.data.toNat ++ bytesOf 16 e.mask.toNat) ++ (f.out.filterMap heldTok).flatMap cToken.put ++
  (f.out.filterMap heldRec).flatten ++ (f.attached x).flatMap cCmd.put

/-- The reserved bits of a record are zero, and its state is one of R364. -/
def firingClean (b : List Byte) : Bool :=
  let p := leField b 0x18 4
  (fstOf (byteAt b 0)).isSome && decide (byteAt b 1 ≤ 0x15) && decide (byteAt b 2 ≤ 6) && decide (byteAt b 3 < 4) && decide (p < 2 ^ 12) && !p.testBit 0 &&
  bytesZero b 0x1C 4 && (List.range 4).all (fun i => decide (byteAt b (0x2C + 16 * i) ≤ 1) && bytesZero b (0x2D + 16 * i) 3) &&
  decide (byteAt b 0x72 ≤ 4) && bytesZero b 0x73 1

/-- A firing from its record, what the record has no place for, and its held output. -/
def firingOf (b : List Byte) (m : FiringMore) (slots : Tab Word) (inputs : List (Nat × Token)) (out : List Held) : Firing :=
  let n := fun i => m.nums.getD i 0
  let flg := byteAt b 3
  let pred := leField b 0x18 4
  let cause := byteAt b 1
  let loops : Tab LoopCtr := (List.range 4).filterMap (fun i =>
    let o := 0x20 + 16 * i
    if byteAt b (o + 12) = 1 then some (i, { index := leField b o 4, bound := leField b (o + 4) 4, first := leField b (o + 8) 2, last := leField b (o + 10) 2 })
    else none)
  let steers := leField b 0x74 4
  let steer : Tab (Bool × BitVec 3) := (List.range 8).filterMap (fun i =>
    let v := steers / 2 ^ (4 * i) % 16
    if v = 0 then none else some (i, (decide (8 ≤ v), BitVec.ofNat 3 v)))
  { id := n 0, entry := n 1, node := leField b 4 2, tag := BitVec.ofNat 32 (leField b 8 4), inst := 0, st := (fstOf (byteAt b 0)).getD .waiting
    wait := waitOf m.wait, held := false, failed := none, pc := leField b 6 2, age := leField b 0x10 4, count := BitVec.ofNat 32 (leField b 0x0C 4)
    frame := 16 * leField b 0x14 2, slots := slots, preds := BitVec.ofNat 8 pred, loops := loops
    rstack := (List.range (byteAt b 0x72)).map (fun i => leField b (0x60 + 2 * i) 2), fpf := BitVec.ofNat 4 (pred / 256), ppr := BitVec.ofNat 11 (n 5)
    wins := [], closing := m.closing, resv := none, steer := steer
    waveLast := (match m.wave with | [a, c, d] => some { seq := BitVec.ofNat 6 a, pred := BitVec.ofNat 6 c, succ := BitVec.ofNat 6 d } | _ => none)
    pend := m.pend.map (fun p => { src := .leval, d := p.1, n := p.2, how := .octet }), out := out, exitStatus := m.status.map (BitVec.ofNat 64)
    inputs := if m.inputs.isEmpty then inputs else m.inputs, recvd := m.recvd, reserved := m.places, cleared := BitVec.ofNat 16 (n 2)
    committed := flg.testBit 0, retries := n 3, retried := m.flags.getD 0 false, rstep := byteAt b 2, fromDrain := m.flags.getD 1 false
    resend := m.nums[6]?, granted := none, reeval := m.eval, banks := BitVec.ofNat 4 (n 4), fetched := []
    cause := if cause = 0 then none else some (codeOf cause), debug := flg.testBit 1 }

/-- The Frames piece: the granules of the live frames in the order of the firings, then 16 presence bits for each. -/
def framesPiece (l : List Firing) : List Byte :=
  l.flatMap (fun f => (List.range f.frame).flatMap (fun d => bytesOf 8 (f.slot d).toNat)) ++
  l.flatMap (fun f => (List.range (f.frame / 16)).flatMap (fun g =>
    bytesOf 2 (((List.range 16).filter (fun i => !f.isPending (16 * g + i))).foldl (fun (m : Nat) i => m + 2 ^ i) 0)))
/-- The slots of a frame, from its first granule in the piece. -/
def frameSlots (b : List Byte) (gran n : Nat) : Tab Word :=
  match ((cU 8).many (16 * n)).get (b.drop (128 * gran)) with
  | some (l, _) => l.zipIdx.foldl (fun t q => tabPut 0 t q.2 (BitVec.ofNat 64 q.1)) []
  | none => []

/-- Granules that stand before each firing's first. -/
def granStarts : Nat → List Firing → List Nat
  | _, [] => []
  | n, f :: l => n :: granStarts (n + f.frame / 16) l
/-- A firing's rank by age: a firing without a frame has none, and the order of the list is its age. -/
def ageRank (l : List Firing) (f : Firing) : Nat := (l.filter (fun g => g.st.holds && decide (g.age < f.age))).length

/-- The Firings piece. -/
def firingsPiece (x : Tile) : List Byte :=
  ((x.firings.zip (granStarts 0 x.firings)).flatMap (fun q => firingRecord x q.1 (ageRank x.firings q.1) q.2 ++ firingTail x q.1))

/-- What the Firings piece gives: the firings, their store-buffer lines with their order, their commands. -/
structure FiringsRead where
  firings : List Firing
  lines   : List (Nat × SbEntry)
  cmds    : List Cmd
  deriving DecidableEq, Repr
def readFirings (frames : List Byte) (sets : Tab (List (Nat × Token))) : List FiringMore → List Byte → Nat → Option FiringsRead
  | [], b, _ => if b.all (fun x => x == 0) then some { firings := [], lines := [], cmds := [] } else none
  | m :: l, b, i =>
    let r := b.take 128
    let n := fun o => leField r o 2
    if r.length < 128 || !firingClean r then none
    else do
      let (ls, b) ← getMany ((cU 128).x (cU 16)) (n 0x78) (b.drop 128)
      let (ks, b) ← getMany cToken (n 0x7A) b
      let (rs, b) ← (heldSizes m.kinds).foldl (fun (acc : Option (List (List Byte) × List Byte)) z =>
        match acc with | none => none | some (o, b) => ((cRaw z).get b).map (fun q => (o ++ [q.1], q.2))) (some ([], b))
      let (cs, b) ← getMany cCmd (n 0x7E) b
      let f := firingOf r m (frameSlots frames (n 0x16) (n 0x14)) (tabGet [] sets i) (heldOf m.kinds ks rs)
      let es := (ls.zip m.lines).map (fun q =>
        (q.2.2, ({ line := q.2.1, key := 0, data := BitVec.ofNat 1024 q.1.1, mask := BitVec.ofNat 128 q.1.2, owner := f.id } : SbEntry)))
      let more ← readFirings frames sets l b (i + 1)
      some { firings := f :: more.firings, lines := es ++ more.lines, cmds := cs.map (fun c => { c with owner := f.id }) ++ more.cmds }

/-- The Matching piece: the entries in use, then the assigned tokens of WAITING and ABORTED firings. -/
def cMatching : Codec (List (Nat × BitVec 32) × Tab (List (Nat × Token))) := (((cU 2).x ((cU 4).map (BitVec.ofNat 32) BitVec.toNat)).list).x ((cU 1).x cToken).list.tab
def assignedSets (x : Tile) : Tab (List (Nat × Token)) := x.firings.zipIdx.filterMap (fun q => if q.1.matches? then some (q.2, q.1.inputs) else none)

/-- A slot of operand memory: its fields, then its planes. -/
def cOm : Codec (Nat × OmSlot) where
  put q :=
    let m := q.2
    (((cU 1).x (cBool.x (cBool.x ((cU 1).x ((cU 8).x (cNat.opt.x (cNat.opt.x cNats))))))).put
      (q.1, m.claimed, m.filling, m.nplanes, m.firid.toNat, m.owner, m.armed, [m.ws, m.wu, m.got])) ++
    (List.range m.nplanes).flatMap (fun p => bytesOf 1024 (tabGet 0 m.planes p).toNat)
  get b := do
    let ((o, c, fl, n, fi, ow, ar, w), b) ← ((cU 1).x (cBool.x (cBool.x ((cU 1).x ((cU 8).x (cNat.opt.x (cNat.opt.x cNats))))))).get b
    let (ps, b) ← getMany (cU 1024) n b
    some ((o, { claimed := c, firid := BitVec.ofNat 64 fi, owner := ow, nplanes := n, filling := fl, ws := w.getD 0 0, wu := w.getD 1 0
                planes := ps.zipIdx.map (fun q => (q.2, BitVec.ofNat 8192 q.1)), got := w.getD 2 0, armed := ar }), b)

/-- The ME piece: four banks of 4096 values of 6 bytes, ACC_OV, ABRT, the tokens held there with their routes, and what is owed. -/
def cMe : Codec Me :=
  (((cU 6).many 16384).x ((cU 1).x ((cU 1).x ((cU 1).x ((((cU 1).x cToken).list).x (cNat.tab.x cNat)))))).map
    (fun (a, o, b, p, k, w, n) =>
      { acc := (a.zipIdx.filter (fun q => q.1 ≠ 0)).map (fun q => (q.2, sextInt q.1 48)), ov := BitVec.ofNat 4 o, abrt := BitVec.ofNat 4 b, poison := BitVec.ofNat 4 p
        owing := w, skip := n, held := k })
    (fun m => ((List.range 16384).map (fun i => toBits 48 (tabGet 0 m.acc i)), m.ov.toNat, m.abrt.toNat, m.poison.toNat, m.held, m.owing, m.skip))

/-- The LCB piece: AC, bindings, signal plane; for each context its valid flag, tables and wiring; what is accepted and not done. -/
def cLcb : Codec Lcb :=
  ((cU 1).x (cNat.tab.x ((cU 8).tab.x ((cU 1).x ((cU 8).tab.x ((cU 16).tab.x (cForm.list.x cJob.opt))))))).map
    (fun (a, b, p, i, t, w, q, j) =>
      { ac := BitVec.ofNat 3 a, binds := b, plane := p.map (fun v => (v.1, BitVec.ofNat 64 v.2)), invalid := BitVec.ofNat 8 i
        tables := t.map (fun v => (v.1, BitVec.ofNat 64 v.2)), wiring := w.map (fun v => (v.1, BitVec.ofNat 128 v.2)), queue := q, job := j })
    (fun l => (l.ac.toNat, l.binds, l.plane.map (fun v => (v.1, v.2.toNat)), l.invalid.toNat, l.tables.map (fun v => (v.1, v.2.toNat))
      , l.wiring.map (fun v => (v.1, v.2.toNat)), l.queue, l.job))

/-- An edge that ends at the tile: its port, the producer's next position, and its sink end. -/
def cEdge : Codec (Nat × Nat × Edge) :=
  ((cU 2).x ((cU 2).x ((cU 2).x ((cU 2).x (cToken.list.x (((cToken.x (cBool.x cNat)).list).x (cNats.x (cNat.opt.x (cBool.x cNats))))))))).map
    (fun (k, nx, d, e, el, fi, n, r, p, l) =>
      (k, nx, { depth := d, expect := BitVec.ofNat 16 e, early := el, fifo := fi.map (fun q => { tok := q.1, indexed := q.2.1, stamp := q.2.2 }), pull := p
                asked := n.getD 0 0, arrived := n.getD 1 0, reconf := r, src := { stk := 0, x := 0, y := 0 }, srcNode := 0, srcPort := 0
                lastTaken := l.map (BitVec.ofNat 32) }))
    (fun (k, nx, e) => (k, nx, e.depth, e.expect.toNat, e.early, e.fifo.map (fun q => (q.tok, q.indexed, q.stamp)), [e.asked, e.arrived], e.reconf, e.pull,
      e.lastTaken.map BitVec.toNat))
/-- An edge that starts at the tile: its port, its next position, its credit, and the rest of its producer end. -/
def cOut : Codec (Nat × OutEdge) :=
  ((cU 2).x ((cU 2).x ((cU 4).x (cNats.x (((cNat.x cToken).list).x ((cNat.x cNat).list.x (cBool.x cNats))))))).map
    (fun (k, nx, _, n, w, q, p, l) =>
      (k, { dst := { stk := 0, x := 0, y := 0 }, dnode := 0, dport := 0, depth := n.getD 0 0, pull := p, next := BitVec.ofNat 16 nx, skip := n.getD 1 0
            made := n.getD 2 0, covered := n.getD 3 0, reqs := q, waiting := w, fmt := BitVec.ofNat 4 (n.getD 4 0), pri := BitVec.ofNat 2 (n.getD 5 0)
            lastSent := l.map (BitVec.ofNat 32) }))
    (fun (k, o) => (k, o.next.toNat, o.covered - o.made, [o.depth, o.skip, o.made, o.covered, o.fmt.toNat, o.pri.toNat], o.waiting, o.reqs, o.pull,
      o.lastSent.map BitVec.toNat))

/-- E and P of the actor nodes. -/
def cActors : Codec (Tab (BitVec 16) × Tab (BitVec 16)) :=
  let t := ((cU 2).tab).map (fun (l : Tab Nat) => l.map (fun p => (p.1, BitVec.ofNat 16 p.2))) (fun l => l.map (fun p => (p.1, p.2.toNat)))
  t.x t

/-- The internal state of a stream-operator node. Latches, registrations and accesses under way are not kept. -/
def cSo : Codec SoState :=
  let left := cNats.x (cBool.list.x ((cU 64).list.x ((cU 64).tab.x (cNat.tab.x cNat.tab))))
  let right := cInt.list.x ((cNat.x cToken).list.x (cByte.list.x (cNats.list.x (cNats.x (cNat.x cNat).list))))
  (left.x right).map
    (fun ((n, b, ve, st, sz, rm), (sta, oq, by_, bl, en, dn)) =>
      let i := fun k => n.getD k 0
      let g := fun k => (sta.getD k 0).toNat
      { cur := if b.getD 0 false then some (BitVec.ofNat 32 (i 0)) else none, pos := i 1, vecs := ve.map (BitVec.ofNat 512)
        store := st.map (fun p => (p.1, BitVec.ofNat 512 p.2)), sizes := sz, rowmax := rm.map (fun p => (p.1, BitVec.ofNat 32 p.2))
        stat := { nsrc := g 0, elems := g 1, ovf := g 2, unf := g 3, zero := g 4, ivc := g 5, skipt := g 6, maxexp := sta.getD 7 0 }
        flg := { iv := i 2, ov := i 3, uf := i 4, ix := i 5 }, sel := if b.getD 1 false then some (BitVec.ofNat 3 (i 6)) else none, outq := oq
        bytes := by_, blocks := bl, discard := b.getD 2 false, ended := en, merged := i 7, mtag := i 8, mpos := i 9, written := i 10
        dones := dn.map (fun p => (BitVec.ofNat 32 p.1, p.2)), bound := b.getD 3 false, finished := b.getD 4 false })
    (fun v =>
      (([(v.cur.getD 0).toNat, v.pos, v.flg.iv, v.flg.ov, v.flg.uf, v.flg.ix, (v.sel.getD 0).toNat, v.merged, v.mtag, v.mpos, v.written],
       [v.cur.isSome, v.sel.isSome, v.discard, v.bound, v.finished], v.vecs.map BitVec.toNat, v.store.map (fun p => (p.1, p.2.toNat)), v.sizes,
       v.rowmax.map (fun p => (p.1, p.2.toNat))),
       ([v.stat.nsrc, v.stat.elems, v.stat.ovf, v.stat.unf, v.stat.zero, v.stat.ivc, v.stat.skipt, v.stat.maxexp], v.outq, v.bytes, v.blocks, v.ended,
       v.dones.map (fun p => (p.1.toNat, p.2)))))
/-- A node: its parameter block and its state. -/
def cNode : Codec (Nat × List Byte × SoState) := (cU 2).x ((cRaw 64).x cSo)

/-- What the pieces of R364 have no place for, in the model's order: of the tile, and of each firing. -/
structure TileMore where
  nums    : List Nat
  counts  : Tab Nat
  sources : List (Nat × Nat × Nat)
  firings : List FiringMore
  net     : List NetTok
  owed    : List RemOut
  closes  : List CloseRec
  deriving DecidableEq, Repr
def cTileMore : Codec TileMore :=
  (cNats.x (cNat.tab.x (((cNat.x (cNat.x cNat)).list).x (cMore.list.x (cNet.list.x (cOwed.list.x cClose.list)))))).map
    (fun (a, b, c, d, e, f, g) => { nums := a, counts := b, sources := c, firings := d, net := e, owed := f, closes := g })
    (fun m => (m.nums, m.counts, m.sources, m.firings, m.net, m.owed, m.closes))

/-- The producer's next position of an edge, where the producer is a tile of the instance; else the position expected. -/
def edgeNext (m : SavedInst) (e : Edge) : Nat :=
  match m.tiles.find? (fun t => decide (tileAt m.inst t.dx t.dy = e.src)) with
  | some t => (match tabFind t.x.outs (portKey e.srcNode e.srcPort) with | some o => o.next.toNat | none => e.expect.toNat)
  | none => e.expect.toNat

/-- The pieces of a part, in the order of R364, and the model's own. -/
def tilePieces (m : SavedInst) (t : SavedTile) : List (List Byte) :=
  let x := t.x
  [framesPiece x.firings, firingsPiece x, cMatching.put (x.matching, assignedSets x), (cOm.list).put x.om, cMe.put x.me, cLcb.put x.lcb,
   (cEdge.list.x cOut.list).put (x.edges.map (fun e => (e.1, edgeNext m e.2, e.2)), x.outs), cActors.put (x.tagE, x.tagP),
   (cNode.list).put ((x.so.map (fun v => v.1) ++ x.params.map (fun p => p.1)).eraseDups.map (fun n => (n, tabGet [] x.params n, tabGet {} x.so n))),
   cTileMore.put { nums := [x.nextFid, x.stamp, x.nextCmd], counts := x.counts.map (fun c => (c.1, c.2.toNat))
                   sources := x.sources.map (fun q => (q.1, q.2.1.toNat, q.2.2.toNat)), firings := x.firings.map (moreOf x), net := t.net
                   owed := t.owed, closes := t.closes }]

/-- The places of pieces laid one after another, each at a multiple of 64. -/
def pieceStarts : Nat → List (List Byte) → List Nat
  | _, [] => []
  | n, p :: l => n :: pieceStarts (n + (p.length + 63) / 64 * 64) l

/-- A TILE part: the header of 64 bytes and the pieces. -/
def tilePart (m : SavedInst) (ix : Nat) (t : SavedTile) : List Byte :=
  let ps := tilePieces m t
  let body := ps.flatMap padTo64
  bytesOf 1 t.dx ++ bytesOf 1 t.dy ++ bytesOf 2 ix ++ bytesOf 4 (64 + body.length) ++ (pieceStarts 64 ps).flatMap (bytesOf 4) ++ List.replicate 16 0 ++ body

/-- A content that a piece holds, with nothing after it but padding. -/
def pieceOf {α : Type} (c : Codec α) (b : List Byte) : Option α :=
  match c.get b with | some (v, r) => if r.all (fun x => x == 0) then some v else none | none => none

/-- A part and its instance index; none where it cannot be read. -/
def readTilePart (b : List Byte) : Option (Nat × SavedTile) :=
  let off := fun i => leField b (8 + 4 * i) 4
  let piece := fun i => (b.drop (off i)).take ((if i < 9 then off (i + 1) else b.length) - off i)
  if !bytesZero b 0x30 16 then none
  else do
    let more ← pieceOf cTileMore (piece 9)
    let (matching, sets) ← pieceOf cMatching (piece 2)
    let fs ← readFirings (piece 0) sets more.firings (piece 1) 0
    let om ← pieceOf cOm.list (piece 3)
    let me ← pieceOf cMe (piece 4)
    let lcb ← pieceOf cLcb (piece 5)
    let (edges, outs) ← pieceOf (cEdge.list.x cOut.list) (piece 6)
    let (tagE, tagP) ← pieceOf cActors (piece 7)
    let nodes ← pieceOf cNode.list (piece 8)
    let n := fun i => more.nums.getD i 0
    let x : Tile :=
      { firings := fs.firings, nextFid := n 0, counts := more.counts.map (fun c => (c.1, BitVec.ofNat 32 c.2)), stamp := n 1, matching := matching
        sources := more.sources.map (fun q => (q.1, BitVec.ofNat 32 q.2.1, BitVec.ofNat 8 q.2.2)), edges := edges.map (fun e => (e.1, e.2.2)), outs := outs
        so := nodes.map (fun q => (q.1, q.2.2)), params := nodes.map (fun q => (q.1, q.2.1)), om := om, me := me, lcb := lcb, tagE := tagE, tagP := tagP
        store := (fs.lines.mergeSort (fun a c => decide (a.1 ≤ c.1))).map (fun q => q.2)
        cmds := fs.cmds.mergeSort (fun a c => decide (a.id ≤ c.id)), nextCmd := n 2 }
    some (leField b 2 2, { dx := byteAt b 0, dy := byteAt b 1, x := x, net := more.net, owed := more.owed, closes := more.closes })

/-- The parts of a TILE section. -/
def readTileParts : Nat → List Byte → Option (List (Nat × SavedTile))
  | 0, b => if b.all (fun x => x == 0) then some [] else none
  | n + 1, b =>
    let z := leField b 4 4
    if z < 64 || b.length < z then none
    else do
      let p ← readTilePart (b.take z)
      let l ← readTileParts n (b.drop z)
      some (p :: l)

/-! ## The other sections (R313, R362, R363) -/

/-- The launch record of a launch (R313). -/
def recordBytes (l : Launch) : List Byte :=
  let flags := l.record.toNat + 2 * l.replay.toNat + 4 * l.shpw.toNat + 8 * l.reshape.toNat
  let lev := (List.range 8).flatMap (fun n => bytesOf 8 (match l.levels[n]? with
    | some v => v.count + v.domain * 2 ^ 16 + v.scope * 2 ^ 24 | none => 0))
  let ndev := match l.devp with | some d => d.1 | none => l.devs.length
  bytesOf 8 (0x4C + 0x100 + l.cls * 2 ^ 16 + l.queue * 2 ^ 24 + flags * 2 ^ 32 + l.levels.length * 2 ^ 48 + l.deps.length * 2 ^ 56) ++ l.ghash ++
  bytesOf 8 l.imgp ++ bytesOf 4 l.imglen ++ bytesOf 4 l.quant ++ bytesOf 8 l.argp.toNat ++ lev ++
  (List.range 4).flatMap (fun i => bytesOf 4 (l.deps.getD i 0)) ++ bytesOf 4 l.cevid ++ bytesOf 4 ndev ++ bytesOf 8 l.devAddr ++
  l.shapes.flatMap (fun a => bytesOf 8 a) ++ List.replicate 64 0
/-- A launch record in an image. -/
def cLaunch : Codec (List Byte) := (cRaw 256).check recordOk

/-- An INST entry (R363); the class, the bypass count and the saves are the launch's. -/
def instBytes (l : Option Launch) (m : SavedInst) : List Byte :=
  let i := m.inst
  let n := fun (f : Launch → Nat) => match l with | some l => Nat.min 255 (f l) | none => 0
  (cRaw 32).put m.ghash ++ bytesOf 4 i.lid ++ bytesOf 1 i.stk ++ bytesOf 1 i.ox ++ bytesOf 1 i.oy ++ bytesOf 1 i.w ++ bytesOf 1 i.h ++ bytesOf 1 (n (·.cls)) ++
  bytesOf 1 (n (·.bypass)) ++ bytesOf 1 (n (·.saves)) ++ bytesOf 4 m.qleft ++ (List.range 8).flatMap (fun k => bytesOf 2 (i.coords.getD k 0))

/-- WIN entries with their instance index. -/
def cWin : Codec (Nat × WinEntry) :=
  ((cU 8).x ((cU 4).x ((cU 4).x ((cU 8).x (cBool.x (((cU 1).check (fun k => decide (k ≤ 2))).x ((cU 1).x ((cU 1).x ((cU 1).x ((cU 1).x (cU 2)))))))))))
    |>.map (fun (b, rb, rs, p, w, k, n, x, y, e, i) => (i, { rect := { base := b, rowb := rb, pitch := p, rows := rs }, w := w, kind := k, num := n, dx := x, dy := y, entry := e }))
      (fun (i, q) => (q.rect.base, q.rect.rowb, q.rect.rows, q.rect.pitch, q.w, q.kind, q.num, q.dx, q.dy, q.entry, i))

/-- A COPY entry (R356): the command block, both descriptors, the progress; then what names the command. -/
structure CopyEntry where
  block : Nat
  src   : Nat
  dst   : Nat
  id    : Nat
  chunk : Nat
  written : Nat
  flags : Nat
  scope : Nat
  fn    : Nat
  dx    : Nat
  dy    : Nat
  entry : Nat
  inst  : Nat
  tag   : Nat
  deriving DecidableEq, Repr
def cCopy : Codec CopyEntry :=
  ((cU 64).x ((cU 64).x ((cU 64).x ((cU 4).x ((cU 4).x ((cU 8).x (((cU 1).check (fun f => decide (f < 8))).x (((cU 1).check (fun f => decide (f < 8))).x
    (((cU 1).check (fun f => decide (f < 6))).x ((cU 1).x ((cU 1).x ((cU 1).x ((cU 2).x ((cU 4).x (cZero 36)))))))))))))))
    |>.map (fun (b, s, d, i, c, w, f, k, n, x, y, e, j, t, _) =>
        { block := b, src := s, dst := d, id := i, chunk := c, written := w, flags := f, scope := k, fn := n, dx := x, dy := y, entry := e, inst := j, tag := t })
      (fun q => (q.block, q.src, q.dst, q.id, q.chunk, q.written, q.flags, q.scope, q.fn, q.dx, q.dy, q.entry, q.inst, q.tag, ()))
/-- The copies of a saved instance. -/
def copyEntries (m : SavedInst) (ix : Nat) : List CopyEntry :=
  m.tiles.flatMap (fun t => (t.x.cmds.filter Cmd.isCopy).map (fun c =>
    { block := c.block.toNat, src := c.descs.1.toNat, dst := c.descs.2.toNat, id := c.id, chunk := c.chunk, written := c.written
      flags := c.mismatch.toNat + 2 * c.acq.toNat + 4 * c.rel.toNat, scope := c.scope.code.toNat, fn := c.fn, dx := t.dx, dy := t.dy
      entry := (match t.x.firing? c.owner with | some f => f.entry | none => 0), inst := ix, tag := c.tag.toNat }))
/-- A copy as its entry has it. -/
def copyOf (c : Cmd) (q : CopyEntry) : Cmd :=
  let b := readBlock q.block
  let form := [CopyForm.cpy, .cpyp, .cpyt, .gath, .scat, .cpyr].getD q.fn .cpy
  { c with kind := (copyWork form b (readDesc q.src) (readDesc q.dst)).1, chunk := q.chunk, written := q.written, mismatch := q.flags.testBit 0
           acq := q.flags.testBit 1, rel := q.flags.testBit 2, scope := scopeOf (BitVec.ofNat 3 q.scope), evid := b.evid, cdst := BitVec.ofNat 24 b.cdst
           toNode := decide (b.flg = 1), block := BitVec.ofNat 512 q.block, descs := (BitVec.ofNat 512 q.src, BitVec.ofNat 512 q.dst), tag := BitVec.ofNat 32 q.tag }

/-- Lines of a scratch area that are not all zero. -/
def scratchLines (t : Tab Byte) : List Nat := (t.foldl (fun (l : List Nat) p => if l.head? = some (p.1 / 128) then l else p.1 / 128 :: l) []).reverse
/-- SCR of an instance: its index, the size of its scratch, a mark for each line that is stored, the lines. -/
def scrBytes (ix size : Nat) (t : Tab Byte) : List Byte :=
  let l := scratchLines t
  padTo64 (bytesOf 2 ix ++ List.replicate 6 0 ++ bytesOf 8 size ++ bytesOf (size / 1024) (l.foldl (fun (m : Nat) n => m + 2 ^ n) 0)) ++
  l.flatMap (fun n => (List.range 128).map (fun k => tabGet 0 t (128 * n + k)))
/-- The scratch bytes of a size. -/
def scrSize (i : Inst) : Nat := i.w * i.h * i.sways * 131072
def readScr : Nat → List Byte → Option (List (Nat × Tab Byte))
  | 0, b => if b.all (fun x => x == 0) then some [] else none
  | n + 1, b => do
    let ((ix, _, size), r) ← ((cU 2).x ((cZero 6).x (cU 8))).get b
    let (marks, _) ← (cU (size / 1024)).get r
    let b := b.drop ((16 + size / 1024 + 63) / 64 * 64)
    let lines := (List.range (size / 128)).filter marks.testBit
    let (ls, b) ← getMany (cRaw 128) lines.length b
    let t := (lines.zip ls).foldl (fun t q => q.2.zipIdx.foldl (fun t v => tabPut 0 t (128 * q.1 + v.2) v.1) t) []
    let l ← readScr n b
    some ((ix, t) :: l)

/-- MAP: OMAP, then the peer list. -/
def words64 (t : Tab (BitVec 32)) : List Nat := (List.range 64).map (fun n => (tabGet 0 t n).toNat)
def tabOf64 (l : List Nat) : Tab (BitVec 32) := l.zipIdx.foldl (fun t q => tabPut 0 t q.2 (BitVec.ofNat 32 q.1)) []
def cMap : Codec (Tab (BitVec 32) × Tab (BitVec 32)) := (((cU 4).many 64).map tabOf64 words64).x (((cU 4).many 64).map tabOf64 words64)

/-- An accumulator of an index (R172): 72 bytes. -/
def cColl : Codec CollAcc :=
  ((cU 2).x ((cU 1).x ((cU 1).x ((cU 1).x ((cU 1).x ((cU 1).x ((cZero 1).x (cU 64))))))) ).map
    (fun (i, n, c, k, f, b, _, a) =>
      { plane := 0, idx := i, n := n, ty := ltyOf (BitVec.ofNat 3 k), op := k / 8, cnt := c, acc := BitVec.ofNat 512 a, flags := BitVec.ofNat 4 f
        failed := b.testBit 0, complete := b.testBit 1, released := b.testBit 2 })
    (fun a => (a.idx, a.n, a.cnt, a.ty.code.toNat + 8 * a.op, a.flags.toNat, a.failed.toNat + 2 * a.complete.toNat + 4 * a.released.toNat, (), a.acc.toNat))
/-- An entry of PLANE: the binding, the plane, CIDX, how many accumulators stand here, KC0 to KC15, at most two accumulators. -/
def planeEntry (c : Ctx) (n : Nat) (a : List CollAcc) : List Byte :=
  bytesOf 8 (tabGet 0 c.binds n).toNat ++ bytesOf 2 n ++ bytesOf 2 (tabGet 0 c.cidx n).toNat ++ bytesOf 4 a.length ++
  (List.range 16).flatMap (fun k => bytesOf 4 (tabGet 0 c.kc (kcKey n k)).toNat) ++ (cRaw 176).put (a.flatMap cColl.put)
/-- The entries of a plane: one, and one more for every two accumulators. -/
def planeEntries (c : Ctx) (n : Nat) : Nat → List CollAcc → List (List Byte)
  | 0, _ => []
  | k + 1, l => planeEntry c n (l.take 2) :: (if l.length ≤ 2 then [] else planeEntries c n k (l.drop 2))
def boundAt (c : Ctx) : List Nat := (List.range 8).filter (fun n => decide (tabGet 0 c.binds n ≠ 0) || c.kc.any (fun p => decide (p.1 / 16 = n)) || decide (tabGet 0 c.cidx n ≠ 0))
def planeSection (c : Ctx) : List (List Byte) :=
  (boundAt c).flatMap (fun n => let l := c.colls.filter (fun a => decide (a.plane = n)); planeEntries c n (l.length + 1) l)
def readPlaneEntry (c : Ctx) (b : List Byte) : Option Ctx := do
  let ((v, n, i, k, kc, r), _) ← ((cU 8).x ((cU 2).x ((cU 2).x ((cU 4).x (((cU 4).many 16).x (cRaw 176)))))).get b
  let (l, r) ← getMany cColl k r
  if 8 ≤ n || r.any (fun x => x != 0) || decide (v / 2 ^ 56 % 128 ≠ 0) || decide (bitsNat v 47 39 ≠ 0) then none
  else some { c with
    binds := tabPut 0 c.binds n (BitVec.ofNat 64 v), cidx := tabPut 0 c.cidx n (BitVec.ofNat 16 i)
    kc := kc.zipIdx.foldl (fun t q => tabPut 0 t (kcKey n q.2) (BitVec.ofNat 32 q.1)) c.kc
    colls := c.colls ++ l.map (fun a => { a with plane := n }) }
def readPlanes : Nat → List Byte → Ctx → Option Ctx
  | 0, b, c => if b.all (fun x => x == 0) then some c else none
  | k + 1, b, c => if b.length < 256 then none else (readPlaneEntry c (b.take 256)).bind (readPlanes k (b.drop 256))

/-- QUEUE: base, size, head and tail of the event queue and of the four launch queues. -/
def cQueue : Codec (Nat × Nat × Nat × Nat × Unit) := (cU 8).x ((cU 4).x ((cU 4).x ((cU 4).x (cZero 44))))
def queueSection (c : Ctx) : List (Nat × Nat × Nat × Nat × Unit) :=
  (c.evq.base.toNat, c.evq.size.toNat, c.evq.head.toNat, c.evq.tail.toNat, ()) ::
  (List.range 4).map (fun k => (0, 64, 0, (tabGet [] c.queues k).length, ()))

/-! ## What the sections have no place for -/

/-- Of a launch: its identity and how it stands. -/
def launchMore (l : Launch) : List Nat × List Nat × List (Nat × Nat) :=
  ([l.lid, (l.age.map (· + 1)).getD 0, (l.admitted.map (· + 1)).getD 0,
    (match l.held with | none => 0 | some .deadlock => 1 | some .residue => 2 | some .noRoom => 3), l.bypass, l.saves], l.devs, l.replayed)
def launchOfBytes (b : List Byte) (m : List Nat × List Nat × List (Nat × Nat)) (st : LSt) : Launch :=
  let n := fun i => m.1.getD i 0
  let l := readLaunch 0 (n 0) b
  { l with st := st, age := if n 1 = 0 then none else some (n 1 - 1), admitted := if n 2 = 0 then none else some (n 2 - 1)
           held := [none, some HoldWhy.deadlock, some .residue, some .noRoom].getD (n 3) none, bypass := n 4, saves := n 5
           devs := if st = .saved then m.2.1 else [], devp := if st = .saved then none else l.devp, replayed := m.2.2 }

/-- The model's own block, after the last section: of the instances, the launches and the context. -/
structure ImageMore where
  insts    : List (Bool × Nat × List Byte)
  launches : List (List Nat × List Nat × List (Nat × Nat))
  pend     : List (List Nat × List Nat × List (Nat × Nat))
  enabled  : Bool
  records  : List (List Byte)
  done     : List (Nat × Nat)
  nextLid  : Nat
  deriving DecidableEq, Repr
def cLaunchMore : Codec (List Nat × List Nat × List (Nat × Nat)) := cNats.x (cNats.x (cNat.x cNat).list)
def cImageMore : Codec ImageMore :=
  (((cBool.x (cNat.x (cRaw 32))).list).x (cLaunchMore.list.x (cLaunchMore.list.x (cBool.x (((cRaw 64).list).x (((cNat.x cNat).list).x cNat)))))).map
    (fun (a, b, c, d, e, f, g) => { insts := a, launches := b, pend := c, enabled := d, records := e, done := f, nextLid := g })
    (fun m => (m.insts, m.launches, m.pend, m.enabled, m.records, m.done, m.nextLid))

/-! ## The whole image (R360, R361) -/

/-- Sections laid one after another from a place in 64-byte units: their entries and their bytes. -/
def laySections : Nat → List (Nat × Nat × List Byte) → List Byte × List Byte
  | _, [] => ([], [])
  | at_, (ty, n, b) :: r =>
    let p := padTo64 b
    let x := laySections (at_ + p.length / 64) r
    (bytesOf 4 ty ++ bytesOf 4 n ++ bytesOf 4 at_ ++ bytesOf 4 (p.length / 64) ++ x.1, p ++ x.2)

/-- The sections of an image: INST, and those that hold something. -/
def imageSections (d : ImageData) : List (Nat × Nat × List Byte) :=
  let is_ := d.insts.zipIdx
  let insts := d.insts.flatMap (fun m => instBytes (d.launches.find? (fun l => decide (l.lid = m.inst.lid))) m)
  let parts := is_.flatMap (fun p => p.1.tiles.map (tilePart p.1 p.2))
  let wins := is_.flatMap (fun p => p.1.wins.map (fun w => (p.2, w)))
  let copies := is_.flatMap (fun p => copyEntries p.1 p.2)
  let scr := is_.filter (fun p => decide (scrSize p.1.inst ≠ 0))
  let planes := planeSection d.state
  let some_ : List (Nat × Nat × List Byte) :=
    [(2, d.launches.length, d.launches.flatMap recordBytes), (3, parts.length, parts.flatten), (4, wins.length, wins.flatMap cWin.put),
     (5, copies.length, copies.flatMap cCopy.put), (6, scr.length, scr.flatMap (fun p => scrBytes p.2 (scrSize p.1.inst) p.1.scratch))]
  let wide : List (Nat × Nat × List Byte) :=
    [(7, 1, cMap.put (d.state.omap, d.state.peers)), (8, planes.length, planes.flatten), (9, 5, (queueSection d.state).flatMap cQueue.put),
     (10, d.pend.length, d.pend.flatMap recordBytes)]
  (1, d.insts.length, insts) :: (some_ ++ (if d.wide then wide else [])).filter (fun q => decide (q.2.1 ≠ 0))

-- DESIGN CHOICE, log 103 (unsafe).
def imageBytes (d : ImageData) : List Byte :=
  let sects := imageSections d
  let body := laySections 4 sects
  let more := cImageMore.put { insts := d.insts.map (fun m => (m.armed, m.inst.sways, m.inst.cfg)), launches := d.launches.map launchMore
                               pend := d.pend.map launchMore, enabled := d.state.evq.en, records := d.state.evq.waiting, done := d.state.done
                               nextLid := d.state.nextLid }
  bytesOf 4 0x57434152 ++ bytesOf 2 1 ++ bytesOf 2 0 ++ bytesOf 2 9 ++ bytesOf 2 d.ctx ++ bytesOf 1 d.part ++ bytesOf 1 sects.length ++
  bytesOf 2 (d.wide.toNat + 2 * d.dlog.toNat + 4 * d.mismatch.toNat) ++ bytesOf 2 d.src ++ bytesOf 1 d.stks ++ bytesOf 1 0 ++ bytesOf 4 d.insts.length ++
  bytesOf 8 d.fwver ++ bytesOf 8 d.logpos ++ bytesOf 8 d.savecyc ++ bytesOf 8 (256 + body.2.length + more.length) ++ List.replicate 8 0 ++
  (body.1 ++ List.replicate (192 - body.1.length) 0) ++ body.2 ++ more

-- DEDUCED, log 104 (unsafe).
/-- The checks of R365 on the header and the section table. -/
def imageAccepted (b : List Byte) : Bool :=
  let f := leField b
  let n := byteAt b 0x0D
  let len := f 0x30 8
  decide (f 0 4 = 0x57434152) && decide (f 4 2 = 1) && decide (f 6 2 = 0) && decide (f 8 2 = 9) && decide (f 0x0A 2 < 1024) && decide (byteAt b 0x0C ≤ 15) &&
  decide (1 ≤ n) && decide (n ≤ 12) && decide (f 0x0E 2 < 8) && decide (byteAt b 0x12 < 16) && bytesZero b 0x13 1 && bytesZero b 0x1C 4 && bytesZero b 0x38 8 &&
  decide (f 0x40 2 = 1) &&
  (List.range 12).all (fun i =>
    let o := 0x40 + 16 * i
    if i < n then decide (1 ≤ f o 2) && decide (f o 2 ≤ 10) && bytesZero b (o + 2) 2 && decide (64 * (f (o + 8) 4 + f (o + 12) 4) ≤ len)
    else bytesZero b o 16)

/-- The count and the bytes of a section; an image that has none of the type has none of its entries. -/
def sectionOf (b : List Byte) (ty : Nat) : Nat × List Byte :=
  match (List.range (byteAt b 0x0D)).find? (fun i => decide (leField b (0x40 + 16 * i) 2 = ty)) with
  | none => (0, [])
  | some i => let o := 0x40 + 16 * i
              (leField b (o + 4) 4, (b.drop (64 * leField b (o + 8) 4)).take (64 * leField b (o + 12) 4))
/-- The entries of a section, with nothing after them but padding. -/
def readSection {α : Type} (b : List Byte) (ty : Nat) (c : Codec α) : Option (List α) :=
  let q := sectionOf b ty
  pieceOf (c.many q.1) q.2

/-- A saved instance from its INST entry and what other sections hold of index `ix`; its windows and ranges are made again from WIN. -/
def instOfBytes (b : List Byte) (ix : Nat) (more : Bool × Nat × List Byte) (launches : List Launch) (parts : List (Nat × SavedTile))
    (wins : List (Nat × WinEntry)) (copies : List CopyEntry) (scr : List (Nat × Tab Byte)) : SavedInst :=
  let lid := leField b 0x20 4
  let l := launches.find? (fun l => decide (l.lid = lid))
  let levels := match l with | some l => l.levels | none => []
  let i : Inst :=
    { id := 0, lid := lid, ctx := 0, part := 0, stk := byteAt b 0x24, ox := byteAt b 0x25, oy := byteAt b 0x26, w := byteAt b 0x27, h := byteAt b 0x28
      cfg := more.2.2, coords := if levels.isEmpty then [] else (List.range levels.length).map (fun n => leField b (0x30 + 2 * n) 2), levels := levels
      argp := (match l with | some l => l.argp | none => 0), sways := more.2.1, armed := false, halting := false, saved := true, wd := 0, holds := []
      qstart := 0, ntags := tagCount levels, binding := 0, resident := false, resid := 0 }
  let tiles := (parts.filter (fun p => decide (p.1 = ix))).map (fun p =>
    let own := copies.filter (fun q => decide (q.inst = ix) && decide (q.dx = p.2.dx) && decide (q.dy = p.2.dy))
    { p.2 with x := { p.2.x with cmds := p.2.x.cmds.map (fun c =>
        match own.find? (fun q => decide (q.id = c.id)) with | some q => if c.isCopy then copyOf c q else c | none => c) } })
  { inst := i, ghash := b.take 32, qleft := leField b 0x2C 4, armed := more.1, tiles := tiles
    wins := (wins.filter (fun w => decide (w.1 = ix))).map (fun w => w.2), scratch := ((scr.find? (fun q => decide (q.1 = ix))).map (fun q => q.2)).getD [] }

/-- An image from its bytes; none where a rule of R365 is broken or a content cannot be read. -/
def readImage (b : List Byte) : Option ImageData :=
  if !imageAccepted b || decide (b.length < leField b 0x30 8) then none
  else do
    let ends := (List.range (byteAt b 0x0D)).map (fun i => 64 * (leField b (0x40 + 16 * i + 8) 4 + leField b (0x40 + 16 * i + 12) 4))
    let more ← pieceOf cImageMore ((b.take (leField b 0x30 8)).drop (ends.foldl Nat.max 256))
    let insts ← readSection b 1 ((cRaw 64))
    let lrec ← readSection b 2 cLaunch
    let parts ← readTileParts (sectionOf b 3).1 (sectionOf b 3).2
    let wins ← readSection b 4 cWin
    let copies ← readSection b 5 cCopy
    let scr ← readScr (sectionOf b 6).1 (sectionOf b 6).2
    let maps ← readSection b 7 cMap
    let c ← readPlanes (sectionOf b 8).1 (sectionOf b 8).2 {}
    let queues ← readSection b 9 cQueue
    let pend ← readSection b 10 cLaunch
    let launches := (lrec.zip more.launches).map (fun q =>
      let l := launchOfBytes q.1 q.2 .saved
      match insts.find? (fun e => decide (leField e 0x20 4 = l.lid)) with
      | some e => { l with cls := byteAt e 0x29, bypass := byteAt e 0x2A, saves := byteAt e 0x2B }
      | none => l)
    let waiting := (pend.zip more.pend).map (fun q => launchOfBytes q.1 q.2 .queued)
    let (map, peers) := maps.headD ([], [])
    let ev := queues.headD (0, 0, 0, 0, ())
    let evq : RQueue := { base := BitVec.ofNat 64 ev.1, size := BitVec.ofNat 24 ev.2.1, en := more.enabled, head := BitVec.ofNat 32 ev.2.2.1
                          tail := BitVec.ofNat 32 ev.2.2.2.1, waiting := more.records }
    let state := { c with omap := map, peers := peers, evq := evq, done := more.done, nextLid := more.nextLid
                          queues := waiting.foldl (fun t (l : Launch) => tabSet t l.queue (tabGet [] t l.queue ++ [l.lid])) [] }
    let flags := leField b 0x0E 2
    let d : ImageData :=
      { ctx := leField b 0x0A 2, part := byteAt b 0x0C, wide := flags.testBit 0, dlog := flags.testBit 1, mismatch := flags.testBit 2
        src := leField b 0x10 2, stks := byteAt b 0x12, fwver := leField b 0x18 4, logpos := leField b 0x20 8, savecyc := leField b 0x28 8
        insts := (insts.zip more.insts).zipIdx.map (fun q => instOfBytes q.1.1 q.2 q.1.2 launches parts wins copies scr)
        launches := launches, pend := waiting, state := state }
    if leField b 0x14 4 ≠ insts.length ∨ lrec.length ≠ more.launches.length ∨ pend.length ≠ more.pend.length ∨ insts.length ≠ more.insts.length then none
    else some d
end Sys2Proof.Machine
end

