-- ==== Sys2Proof/Machine/Save.lean ====
section
/-! DEFINITION. Saving instances into an image and restoring them from its bytes (R352 to R367), and resuming a firing (R241, R366). -/

namespace Sys2Proof.Machine

/-! ## Records of a partition (R403) -/

-- DEDUCED, log 144 (unsafe).
def partRecord (s : State) (part stk ctx sub v : Nat) : State :=
  s.post (.hv part stk) (recHeader s 9 0 { tile := { stk := stk, x := 0, y := 0 }, entry := none, ctx := ctx } + fld 8 8 (s.cyc stk) +
    fld 0x10 2 sub + fld 0x18 8 v)

/-! ## What is saved (R354 to R357, R364) -/

/-- What is left of an instance's quantum, in units of 1024 cycles (R363). -/
def quantumLeft (s : State) (i : Inst) : Nat :=
  match (s.launch? i.ctx i.lid).bind (quantumOf s) with
  | none => 2 ^ 32 - 1
  | some q => (q - ((s.stack i.stk).cyc - i.qstart)) / 1024

/-- A node's working state as an image holds it: registrations, latches and accesses are made again, a refused MPORT tries again, and a
node that stopped for a residue fault takes tokens again. -/
def SoState.kept (v : SoState) : SoState :=
  { v with latches := [], range := none, away := [], stall := none, scan := none, probes := [], todo := false, wrote := false, lines := [], asked := []
           inflight := [], relatches := [], dead := false }

/-- A command as an image holds it: what it read is read again, but for the planes that an OSTORE took at its issue. -/
def Cmd.kept (c : Cmd) : Cmd := { c with lines := [], asked := [], snap := match c.kind with | .ostore _ _ _ _ => c.snap | _ => none }

/-- A tile as an image holds it (R364): nothing is in flight; a reservation is not kept (R161). -/
def Tile.kept (x : Tile) : Tile :=
  { x with halting := false, atHalt := false, so := x.so.map (fun v => (v.1, v.2.kept)), dbg := {}
           firings := x.firings.map (fun f => { f with held := false, resv := none, fetched := [], failed := none, granted := none, spilled := [], unreached := none })
           cmds := x.cmds.map Cmd.kept }

/-- Scratch bytes of an instance, by scratch offset. -/
def scratchBytes (s : State) (i : Inst) : Tab Byte :=
  let c := i.sways * 131072
  let banks := i.banks.zipIdx
  (s.mem.filterMap (fun p =>
    if isScratch p.1 && decide (stackOfKey p.1 = i.stk) then
      (banks.find? (fun b => decide (b.1 = bankOfKey p.1))).map (fun b => (b.2 * c + (p.1 - scratchBase) % 2 ^ 21, p.2))
    else none)).foldl (fun t p => tabSet t p.1 p.2) []

/-- The WIN entries of a tile: open windows, the areas of commands that hold ranges, MPORT ranges that are registered (R362). -/
def tileWins (i : Inst) (dx dy : Nat) (x : Tile) : List WinEntry :=
  x.firings.flatMap (fun f => f.wins.map (fun w => { rect := w.2.rect, w := w.2.w, kind := 0, num := w.1, dx := dx, dy := dy, entry := f.entry })) ++
  x.cmds.zipIdx.flatMap (fun c =>
    if c.1.ranges.isEmpty && c.1.away.isEmpty then []
    else
      let e := match x.firing? c.1.owner with | some f => f.entry | none => 0
      c.1.ranges?.flatMap (fun r => r.area.map (fun a => { rect := a, w := r.w, kind := 1, num := c.2, dx := dx, dy := dy, entry := e }))) ++
  x.so.flatMap (fun v =>
    if v.2.range.isNone && v.2.away.isEmpty then []
    else (mpHull (x.block v.1) i.ntags).map (fun a => { rect := a, w := decide (recSub (x.rec_ v.1) = 1), kind := 2, num := v.1, dx := dx, dy := dy, entry := 0 }))

/-- The tile of an instance with which a token in the network is saved: the one that holds it at its sender, else its destination. -/
def netHome (i : Inst) (n : NetTok) : TileId := if n.at_ = n.src ∧ i.rect.contains n.at_ = true then n.at_ else n.tok.tile

def savedTile (s : State) (i : Inst) (t : TileId) : SavedTile :=
  { dx := t.x - i.ox, dy := t.y - i.oy, x := (s.tile t).kept, net := (netOf s i).filter (fun n => decide (netHome i n = t))
    owed := s.remote.filter (fun r => r.sent && decide (r.due = 0) && waitsOn [t] r.who && (match r.who with
      | .publish _ _ _ => true | .sync _ _ => true | .cmd _ _ => true | _ => false))
    closes := s.closes.filter (fun c => decide (c.t = t)) }

def snapshot (s : State) (i : Inst) : SavedInst :=
  { inst := i, ghash := (match s.launch? i.ctx i.lid, instCfg s i with | some l, _ => l.ghash | none, some c => c.hash | none, none => [])
    qleft := quantumLeft s i, armed := i.armed, tiles := i.rect.map (savedTile s i)
    wins := i.rect.flatMap (fun t => tileWins i (t.x - i.ox) (t.y - i.oy) (s.tile t)), scratch := scratchBytes s i }

/-! ## The save area (R359) -/

def carvBase (s : State) (part stk : Nat) : Nat := (tabGet 0 (s.part part).carvbase stk).toNat
def carvBytes (s : State) (part stk : Nat) : Nat := (tabGet 0 (s.part part).carvsize stk).toNat % 2 ^ 32 * 65536

/-- Images that stand in the save area of a partition on a stack. -/
def imagesIn (s : State) (part stk : Nat) : List Image :=
  let b := entryAddr (carvBase s part stk)
  s.images.filter (fun m => decide (m.stk = stk) && decide (b ≤ m.addr) && decide (m.addr < b + carvBytes s part stk) && !m.given)

/-- The lowest place for an image: multiples of 64 KiB, clear of the images that stand there. -/
def carvPlace (s : State) (part stk len : Nat) : Option Nat :=
  if !(carvBase s part stk).testBit 0 then none
  else
    let b := entryAddr (carvBase s part stk)
    let l := imagesIn s part stk
    let ends := b :: (l.map (fun m => m.addr + (m.len + 65535) / 65536 * 65536)).mergeSort (· ≤ ·)
    ends.find? (fun a => decide (a + len ≤ b + carvBytes s part stk) &&
      l.all (fun m => decide (a + len ≤ m.addr) || decide (m.addr + m.len ≤ a)))

/-- An instance is saved: its place is free, and its registrations stay (R157). -/
def leaveSaved (s : State) (i : Inst) : State :=
  let parked := awayOf s i
  let s := vacate (parkInstRegs { s with net := s.net.filter (fun n => !(netOf s i).contains n) } i) i
  s.setInst { i with parked := parked, halting := false, saved := true, armed := false, binding := 0 }

def launchInsts (s : State) (l : Launch) : List Inst := s.insts.filter (fun i => decide (i.ctx = l.ctx) && decide (i.lid = l.lid))

/-- Dirty logging of a context on a stack (R368). -/
def dlogOn (s : State) (part stk ctx : Nat) : Bool :=
  (tabGet {} (s.part part).dlog stk).en && (tabGet 0 (s.part part).dlogctx (stk * 16 + ctx / 64)).getLsbD (ctx % 64)

/-- What an image of some instances holds; `wide` is the state of a whole context. -/
def imageData (s : State) (ctx part stk : Nat) (ls : List Launch) (ms : List SavedInst) (wide : Option Ctx) : ImageData :=
  let lids := (ms.map (fun m => m.inst.lid)).eraseDups
  { ctx := ctx, part := part, wide := wide.isSome, dlog := dlogOn s part stk ctx
    mismatch := ms.any (fun m => m.tiles.any (fun t => t.x.cmds.any (fun c => c.mismatch))), src := s.dev
    stks := (ms.map (fun m => m.inst.stk)).foldl (fun m k => Nat.lor m (2 ^ k)) 0, fwver := s.fwver.toNat
    logpos := (tabGet {} (s.part part).dlog stk).head.toNat, savecyc := s.cyc stk, insts := ms
    launches := lids.filterMap (fun n => ls.find? (fun l => decide (l.lid = n)))
    pend := if wide.isSome then ls.filter (fun l => !lids.contains l.lid) else [], state := wide.getD {} }

/-- What stands at an image's place. -/
def imageRead (s : State) (m : Image) : Option ImageData := readImage (memBytes s.mem (dramKey m.stk m.addr) m.len)

/-- The image is written at a place, and its instances leave theirs. -/
def writeImage (s : State) (stk addr ctx lid : Nat) (d : ImageData) (live : List Inst) (ids : List Nat) : State :=
  let b := imageBytes d
  let m : Image := { stk := stk, addr := addr, len := b.length, ctx := ctx, lid := lid, wide := d.wide, given := false, insts := ids }
  let s := homeWriteAll (b.length / 128 + 2) s (dramKey stk addr) b
  let clear := s.images.filter (fun q => !(q.given && decide (q.stk = stk) && decide (q.addr < addr + m.len) && decide (addr < q.addr + q.len)))
  live.foldl leaveSaved { s with images := clear ++ [m] }

/-- A launch is SAVED (R325): the save is counted. -/
def Launch.nowSaved (l : Launch) : Launch := { l with st := .saved, saves := Nat.min 255 (l.saves + 1), reserved := [] }

/-! ## Context-wide saves (R119, R359) -/

/-- The answer of a control form that waits enters its slot. -/
def landSystem (s : State) (req v : Nat) : State :=
  { s with tiles := s.tiles.map (fun p => (p.1, { p.2 with firings := p.2.firings.map (fun f =>
      match f.pend.find? (fun q => q.src == .system req) with
      | none => f
      | some q => { landValue f q.how q.d v with pend := f.pend.filter (fun r => r.src != .system req) }) })) }
/-- The stack of the control firing that waits for a request. -/
def systemStack (s : State) (req : Nat) : Nat :=
  match s.tiles.find? (fun p => p.2.firings.any (fun f => f.pend.any (fun q => q.src == .system req))) with
  | some p => (tileOfKey p.1).stk
  | none => 0
/-- Requests of HALT, RESTORE and RESIZE by what they act on. -/
def haltReq (ctx : Nat) : Nat := ctx
def restoreReq (ctx : Nat) : Nat := 1024 + ctx
def resizeReq (part : Nat) : Nat := 2048 + part

/-- Launches of a context in the order of their queues, then the others by age. -/
def ctxLaunches (s : State) (ctx : Nat) : List Launch :=
  let q := (List.range 4).flatMap (fun k => (tabGet [] (s.ctx ctx).queues k).filterMap (fun lid => s.launch? ctx lid))
  let rest := (s.launches.filter (fun l => decide (l.ctx = ctx) && !q.any (fun x => decide (x.lid = l.lid)))).mergeSort (fun a b =>
    decide (a.age.getD 0 ≤ b.age.getD 0))
  q ++ rest

/-- A context-wide image, once every configuration of the context is halted; the answer to HALT when it is written. Instances saved before
are taken over from their own images. -/
def saveCtx (ctx : Nat) (s : State) : State :=
  let c := s.ctx ctx
  let ls := ctxLaunches s ctx
  let live := s.insts.filter (fun i => decide (i.ctx = ctx) && !i.saved)
  if !c.halting then s
  else if ls.any (fun l => (decide (l.st = .halting) && !launchHalted s l) || decide (l.st = .running) || decide (l.st = .admitted)) ||
      live.any (fun i => !i.resident && i.rect.any (fun t => !(s.tile t).atHalt)) then s
  else
    let live := live.filter (fun i => !i.resident)
    let part := s.partOfCtx ctx
    let stk := systemStack s (haltReq ctx)
    let own := s.images.filterMap (fun m => if m.ctx = ctx ∧ m.wide = false then (imageRead s m).map (fun d => (m, d)) else none)
    let old := own.flatMap (fun q => q.2.insts.zip q.1.insts)
    let saved := ls.map (fun l => if l.st = .halting then l.nowSaved else l)
    let d := imageData s ctx part stk saved (live.map (snapshot s) ++ old.map (fun q => q.1)) (some c)
    match carvPlace s part stk (imageBytes d).length with
    | none => partRecord s part stk ctx 1 ctx
    | some a =>
      let s : State := { s with images := s.images.filter (fun m => !own.any (fun q => q.1 == m)) }
      let s := writeImage s stk a ctx 0 d live (live.map (fun i => i.id) ++ old.map (fun q => q.2))
      let s := saved.foldl (fun s l => s.setLaunch l) s
      let s := s.setCtx ctx { s.ctx ctx with halting := false, halted := true }
      (landSystem s (haltReq ctx) 0).later .arbitrationPass

/-- IMAGE_SAVE (R359): the instances of a launch that is halted, on the lowest stack that holds one. -/
def imageSave (ctx lid : Nat) (s : State) : State :=
  if (s.ctx ctx).halting then saveCtx ctx s
  else
    match s.launch? ctx lid with
    | none => s
    | some l =>
      let is_ := (launchInsts s l).filter (fun i => !i.saved)
      if l.st ≠ .halting || !launchHalted s l || is_.isEmpty then s
      else
        let part := s.partOfCtx ctx
        let stk := is_.foldl (fun m i => Nat.min m i.stk) 3
        let d := imageData s ctx part stk [l.nowSaved] (is_.map (snapshot s)) none
        match carvPlace s part stk (imageBytes d).length with
        | none => partRecord s part stk ctx 1 lid
        | some a => ((writeImage s stk a ctx lid d is_ (is_.map (fun i => i.id))).setLaunch l.nowSaved).later .arbitrationPass
def execImageSave (ctx lid : Nat) (s : State) : Outcome := .next (imageSave ctx lid s)

/-- Halted launches and contexts that found no room are looked at again when a save area changes. -/
def retrySaves (s : State) : State :=
  (s.laterAll ((s.launches.filter (fun l => decide (l.st = .halting) && launchHalted s l)).map (fun l => Act.imageSave l.ctx l.lid))).laterAll
    ((s.ctxs.filter (fun c => c.2.halting)).map (fun c => Act.imageSave c.1 0))

/-! ## Where what is saved goes (R366, R367) -/

/-- An instance moves: the device that wrote the image and this one, the instance as it was saved and as it is placed, and how far the
identities of its requests are shifted. -/
structure Move where
  src   : Nat
  dev   : Nat
  a     : Inst
  b     : Inst
  shift : Nat
  deriving DecidableEq, Repr

/-- A tile's new place, where an instance moves from its old rectangle. -/
def Move.tile (m : Move) (t : TileId) : TileId :=
  if m.a.rect.contains t then { stk := m.b.stk, x := t.x - m.a.ox + m.b.ox, y := t.y - m.a.oy + m.b.oy } else t
/-- A token's destination follows the instance it is for, and its context (R367). -/
def Move.tok (m : Move) (k : Token) : Token :=
  if m.a.rect.contains k.tile && decide (k.dev.toNat = m.src) then
    let t := m.tile k.tile
    { k with dev := BitVec.ofNat 12 m.dev, stk := BitVec.ofNat 2 t.stk, tx := BitVec.ofNat 5 t.x, ty := BitVec.ofNat 4 t.y, ctx := BitVec.ofNat 10 m.b.ctx }.sealed
  else { k with ctx := if k.ctx.toNat = m.a.ctx then BitVec.ofNat 10 m.b.ctx else k.ctx }.sealed
def Move.held (m : Move) : Held → Held
  | .tok p k => .tok p (m.tok k)
  | .direct k => .direct (m.tok k)
  | h => h

/-- A firing at its new place: its age is fresh, in the order of the saved ages; a command's failure that it has not met stands. -/
def Move.firing (m : Move) (age : Nat) (cmds : List Cmd) (f : Firing) : Firing :=
  { f with
    inst := m.b.id, age := age + f.age, out := f.out.map m.held, inputs := f.inputs.map (fun q => (q.1, m.tok q.2))
    recvd := f.recvd.map (fun q => (q.1, m.tok q.2)), wins := [], closing := f.closing.map (fun q => (q.1, q.2 + m.shift))
    resend := f.resend.map (· + m.shift)
    failed := if f.st = .stalled then (cmds.find? (fun c => decide (c.owner = f.id) && decide (c.st = .failed))).bind (fun c => c.fault) else none }

/-- A placed tile with the state that a part holds (R366 step 2). It stays halted until step 7. -/
def Move.onto (m : Move) (age : Nat) (p x : Tile) : Tile :=
  let edges := p.edges.map (fun e =>
    match tabFind x.edges e.1 with
    | some q => (e.1, { q with src := e.2.src, srcNode := e.2.srcNode, srcPort := e.2.srcPort, early := q.early.map m.tok
                               fifo := q.fifo.map (fun k => { k with tok := m.tok k.tok }) })
    | none => e)
  let outs := p.outs.map (fun o =>
    match tabFind x.outs o.1 with
    | some q => (o.1, { q with dst := o.2.dst, dnode := o.2.dnode, dport := o.2.dport, waiting := q.waiting.map (fun w => (w.1, m.tok w.2)) })
    | none => o)
  { p with
    firings := x.firings.map (m.firing age x.cmds), nextFid := x.nextFid, counts := x.counts, stamp := x.stamp, matching := x.matching, sources := x.sources
    params := x.params, edges := edges, outs := outs, so := x.so.map (fun v => (v.1, { v.2 with outq := v.2.outq.map (fun q => (q.1, m.tok q.2)) }))
    om := x.om, me := { x.me with held := x.me.held.map (fun q => (q.1, m.tok q.2)) }, lcb := x.lcb, store := x.store
    cmds := x.cmds.map (fun c => { c with inst := m.b.id, ranges := [], away := [] }), nextCmd := x.nextCmd, tagE := x.tagE, tagP := x.tagP
    halting := true, atHalt := true }

def Move.who (m : Move) : RemFor → RemFor
  | .publish t fid cid => .publish (m.tile t) fid (if cid = 0 then 0 else cid + m.shift)
  | .sync t fid => .sync (m.tile t) fid
  | .cmd t c => .cmd (m.tile t) c
  | w => w

/-! ## Registrations made again (R366 step 3) -/

/-- What a registration is for: a window of a firing, or a command that a firing attaches. -/
inductive RegFor
  | window (n : Nat)
  | command (id : Nat)
  deriving DecidableEq, Repr

def regAccess (s : State) (t : TileId) (fid : Nat) (w : Bool) (va : Nat) : Access :=
  let inst := (s.firing? t fid).map (fun f => f.inst)
  { stk := t.stk, ctx := ((inst.bind s.inst?).map (fun i => i.ctx)).getD 0, inst := inst, kind := .range, write := w, va := va }

/-- A firing's buffered lines lie where their addresses now lead (R157); a line that does not translate has no home yet. -/
def rekeyStore (s : State) (t : TileId) (fid : Nat) : State :=
  let x := s.tile t
  s.setTile t { x with store := x.store.map (fun e =>
    if e.owner = fid then
      match locate s { regAccess s t fid true e.line with kind := .store } with
      | .ok p => { e with key := p.key }
      | .error _ => { e with key := 2 ^ 160 + e.line }
    else e) }

/-- The window or the command takes the registration: the stack and identity here, or the request that opens it elsewhere. -/
def takeReg (s : State) (t : TileId) (fid : Nat) (q : RegFor) (r : Rect) (w : Bool) (reg : (Nat × Nat) ⊕ AwayReg) : State :=
  let x := s.tile t
  match q with
  | .window n =>
    let v : Window := match reg with
      | .inl p => { w := w, base := BitVec.ofNat 64 r.base, rowb := r.rowb, pitch := r.pitch, rows := r.rows, wid := p.2, stk := p.1, remote := false, key := 0 }
      | .inr a => { w := w, base := BitVec.ofNat 64 r.base, rowb := r.rowb, pitch := r.pitch, rows := r.rows, wid := a.rid, stk := t.stk, remote := true, key := a.key }
    s.setTile t { x with firings := x.firings.map (fun f => if f.id = fid then { f with wins := tabSet f.wins n v } else f) }
  | .command id =>
    s.setTile t { x with cmds := x.cmds.map (fun c =>
      if c.id = id then
        match reg with
        | .inl p => { c with ranges := c.ranges.filter (fun z => z.2 != p.2) ++ [p] }
        | .inr a => { c with away := c.away ++ [a] }
      else c) }

/-- A registration fails: its fault is posted, and it stands without pages. A window's firing is restored SUSPENDED, at its word and with its
wait; a command is held, with COURSE NONE (R366). -/
def regFails (s : State) (t : TileId) (fid wid : Nat) (q : RegFor) (r : Rect) (w : Bool) (e : FInfo) : State :=
  let a := regAccess s t fid w r.base
  let reg : Reg := { wid := wid, holder := .firing t fid, range := (match q with | .window _ => false | .command _ => true), ctx := a.ctx, w := w, area := [r]
                     pages := [], closing := false }
  let s := takeReg (s.setStack t.stk { s.stack t.stk with regs := (s.stack t.stk).regs ++ [reg] }) t fid q r w (.inl (t.stk, wid))
  match s.firing? t fid with
  | none => s
  | some f =>
    let src : RecSrc := { tile := t, entry := some f.entry, ctx := a.ctx }
    let stays : Bool := match q with | .window _ => decide (f.st = .suspended) | .command _ => true
    let s := postFault s a.ctx e (faultRecord s src e (wordAt s t f.pc) f.pc f.node f.tag.toNat (if stays then .none else .suspended) 0)
    let s := awaitPage s t fid e.pull
    if stays then s
    else s.setFiring t { f with st := .suspended, held := false, cause := some e.code, fromDrain := f.fromDrain || decide (f.st = .draining) }

/-- One area is registered again for a window or a command. -/
def enterAgain (s : State) (t : TileId) (fid : Nat) (q : RegFor) (r : Rect) (w : Bool) : State :=
  let (wid, s) := s.fresh
  let a := regAccess s t fid w r.base
  match claim s a (.firing t fid) (match q with | .window _ => false | .command _ => true) wid [r] (engineInfo 4 r.base) with
  | .error e => regFails s t fid wid q r w e
  | .ok (.here k g u) => takeReg (enterRegs s [(k, g)] u) t fid q r w (.inl (k, wid))
  | .ok (.away d k c o _ _) =>
    if !routed s t.stk d then regFails s t fid wid q r w (fabricInfo s r.base AccKind.range.num a.ctx d none)
    else
      let key := awayKey d k c o
      let ask : Ask := { req := blankReq, isOpen := true, openW := w, rowb := r.rowb, pitch := r.pitch, rows := r.rows
                         range := (match q with | .window _ => false | .command _ => true) }
      match q with
      | .window n =>
        let (rid, s) := sendRemote s t.stk a.ctx r.base key (.window t fid n) ask none
        takeReg s t fid q r w (.inr { stk := t.stk, ctx := a.ctx, key := key, rid := rid })
      | .command id => (sendRemote s t.stk a.ctx r.base key (.cmd t id) ask none).2

/-- The firing that a WIN entry names, at its new place, and what the entry is for. -/
def winFor (m : SavedInst) (b : Inst) (w : WinEntry) : Option (TileId × Nat × RegFor) :=
  match m.tiles.find? (fun t => decide (t.dx = w.dx) && decide (t.dy = w.dy)) with
  | none => none
  | some t =>
    match t.x.firings.find? (fun f => f.st.holds && decide (f.entry = w.entry)) with
    | none => none
    | some f =>
      if w.kind = 0 then some (tileAt b w.dx w.dy, f.id, .window w.num)
      else if w.kind = 1 then (t.x.cmds[w.num]?).map (fun c => (tileAt b w.dx w.dy, c.owner, .command c.id))
      else none
def winClaims (s : State) (m : SavedInst) (b : Inst) : List (Except FInfo Claim) :=
  m.wins.filterMap (fun w => (winFor m b w).map (fun q =>
    claim s { stk := b.stk, ctx := b.ctx, inst := some b.id, kind := .range, write := w.w, va := w.rect.base } (.firing q.1 q.2.1) (decide (w.kind = 1)) 0 [w.rect]
      (engineInfo 4 w.rect.base)))
/-- Some registration to be made again meets one that stands, or the tables have no room for all of them (R366 step 3). -/
def restoreBlocked (s : State) (l : List (Except FInfo Claim)) : Bool :=
  let regs := claimRegs (l.filterMap (fun c => match c with | .ok c => some c | .error _ => none))
  regs.any (fun p => (firstConflict s p.1 p.2).isSome) || !regsFit s regs
/-- Pages that are elsewhere and that registrations to be made again touch: each is pulled first (R371). -/
def restorePulls (l : List (Except FInfo Claim)) : List (Nat × Nat × Nat × Nat × Nat) :=
  l.filterMap (fun c => match c with | .error e => e.pull | .ok _ => none)

/-! ## Restore (R366) -/

/-- Identities that an instance's requests and closes use. -/
def movedIds (m : SavedInst) : List Nat :=
  m.tiles.flatMap (fun t => t.owed.map (fun r => r.rid) ++ t.closes.map (fun c => c.cid) ++ t.x.firings.flatMap (fun f => f.resend.toList))

/-- A token in the network at its new place: where it is held at its sender, else at the tile it is for. -/
def Move.net (m : Move) (id : Nat) (n : NetTok) : NetTok :=
  let k := m.tok n.tok
  { n with id := id, tok := k, at_ := if n.at_ = n.src ∧ m.a.rect.contains n.at_ = true then m.tile n.at_ else k.tile, src := m.tile n.src }

/-- One saved instance is rebuilt at its new place `b` (steps 1 to 4 and 6); it goes on at step 7. -/
def rebuild (s : State) (src : Nat) (m : SavedInst) (b : Inst) : State :=
  let most := (movedIds m).foldl Nat.max 0
  let v : Move := { src := src, dev := s.dev, a := m.inst, b := b, shift := if src = s.dev then 0 else s.nextId }
  let s : State := { s with nextId := s.nextId + (if src = s.dev then 0 else most + 1) }
  let c := b.sways * 131072
  let banks := b.banks.toArray
  let s : State := { s with mem := m.scratch.foldl (fun t p =>
    if c = 0 then t else tabPut 0 t (scratchKey b.stk (banks.getD (p.1 / c) 0) (p.1 % c)) p.2) s.mem }
  let s := match instCfg s b with | some k => cacheTouch (placeTiles s b k) b.stk k.key | none => s
  let age := s.nextAge
  let s : State := { s with nextAge := age + (m.tiles.map (fun t => t.x.firings.length)).foldl Nat.max 0 }
  let s := m.tiles.foldl (fun s q => let t := tileAt b q.dx q.dy; s.setTile t (v.onto age (s.tile t) q.x)) s
  let s := s.setInst b
  let s := m.tiles.foldl (fun s q => q.x.firings.foldl (fun s f => rekeyStore s (tileAt b q.dx q.dy) f.id) s) s
  let s := m.wins.foldl (fun s w => match winFor m b w with | some (t, fid, q) => enterAgain s t fid q w.rect w.w | none => s) s
  let s := m.tiles.foldl (fun s q =>
    let s : State := { s with remote := s.remote ++ q.owed.map (fun r => { r with rid := r.rid + v.shift, stk := b.stk, ctx := b.ctx, who := v.who r.who })
                              closes := s.closes ++ q.closes.map (fun c => { c with cid := c.cid + v.shift, t := v.tile c.t, notice := c.notice.map (fun p =>
                                ({ p.1 with stk := b.stk, ctx := b.ctx }, p.2)) }) }
    q.net.foldl (fun (s : State) n => let (id, s) := s.fresh; { s with net := s.net ++ [v.net id n] }) s) s
  let s := (instNodes s b (fun x n => x.isMport n 0 || x.isMport n 1)).foldl (fun s q => mpInit q.1 q.2 s) s
  rdcFilter s b.stk (fun r => decide (r.ctx ≠ b.ctx))

/-- The instance as it stands between its rebuilding and step 7: what has passed of its quantum. -/
def Inst.back (i : Inst) (s : State) (m : SavedInst) : Inst :=
  let cyc := (s.stack i.stk).cyc
  let gone := match (s.launch? i.ctx i.lid).bind (quantumOf s) with | none => 0 | some q => q - Nat.min q (1024 * m.qleft)
  { i with parked := [], saved := false, halting := true, armed := m.armed, wd := s.cyc i.stk, qstart := cyc - gone }

/-- Rebuilt and not yet going on. -/
def Inst.comesBack (s : State) (i : Inst) : Bool :=
  i.halting && !i.saved && (match s.launch? i.ctx i.lid with
    | some l => decide (l.st = .admitted) || decide (l.st = .running)
    | none => !(s.ctx i.ctx).halting)
/-- A registration of a rebuilt instance is still to be answered by another device. -/
def opensOut (s : State) (i : Inst) : Bool := s.remote.any (fun r => r.isOpen && waitsOn i.rect r.who && (match r.who with | .mport _ _ _ => false | _ => true))

/-- Step 7: sources and firings go on; what is left of the quantum counts. One whose sources were not armed yet begins. -/
def goOn (s : State) (i : Inst) : State :=
  let s := i.rect.foldl (fun s t => let x := s.tile t; s.setTile t { x with halting := false, atHalt := false }) s
  let s := s.setInst { i with halting := false, wd := s.cyc i.stk }
  if !i.armed then beginInst s i.id
  else
    match (s.launch? i.ctx i.lid).bind (fun l => (quantumOf s l).map (fun q => (l, q))) with
    | none => s
    | some (l, q) => s.at_ i.stk (i.qstart + q) (.quantumExpiry l.lid l.ctx i.stk)

/-- The image in which a saved instance stands, and its place there. -/
def imageOf (s : State) (i : Inst) : Option Image := s.images.find? (fun m => decide (m.ctx = i.ctx) && m.insts.contains i.id)
def savedOf (s : State) (i : Inst) : Option (Nat × SavedInst) :=
  (imageOf s i).bind (fun m => (imageRead s m).bind (fun d => ((d.insts.zip m.insts).find? (fun q => decide (q.2 = i.id))).map (fun q => (d.src, q.1))))

/-- Images from which nothing is to be restored any more; one of a whole context stands while the context is halted. -/
def dropImages (s : State) : State :=
  { s with images := s.images.filter (fun m => m.given || s.insts.any (fun i => i.saved && decide (i.ctx = m.ctx) && m.insts.contains i.id) ||
      (m.wide && (s.ctx m.ctx).halted)) }

-- DEDUCED, log 105 (unsafe).
/-- The rebuilt instances of a launch go on together, once nothing they registered is still to be answered; a RESTORE of the context ends
with its last launch. -/
def restoreGo (ctx lid : Nat) (s : State) : State :=
  let back := s.insts.filter (fun i => decide (i.ctx = ctx) && decide (i.lid = lid) && i.comesBack s)
  if back.isEmpty || back.any (opensOut s) then s
  else
    let s := back.foldl goOn s
    let s := match s.launch? ctx lid with
      | some l => if (launchInsts s l).all (fun i => i.armed) then s.setLaunch { l with st := .running } else s
      | none => s
    let s := if s.insts.any (fun i => decide (i.ctx = ctx) && (i.saved || i.comesBack s)) then s else landSystem s (restoreReq ctx) 0
    s.laterAll (back.map (fun b => Act.endOfStream b.id))

/-- Saved instances that have their places are rebuilt there. Where one waits for a page, that is pulled; where a registration waits for
another's window, nothing is done. -/
def restoreAll (s : State) (l : List (Inst × Nat × SavedInst)) : Option State :=
  let free := l.foldl (fun s p => unparkRegs s p.1) s
  let claims := l.flatMap (fun p => winClaims free p.2.2 p.1)
  if !(restorePulls claims).isEmpty || restoreBlocked free claims then none
  else
    let s := l.foldl (fun s p => rebuild s p.2.1 p.2.2 (p.1.back s p.2.2)) free
    some (retrySaves (retryOpens (dropImages s)))
def pullFor (s : State) (l : List (Inst × Nat × SavedInst)) : State :=
  (restorePulls (l.flatMap (fun p => winClaims (unparkRegs s p.1) p.2.2 p.1))).foldl (fun s p => startPull s (some p)) s

/-- RESTORE (R366) of a launch that the region arbiter has admitted again. An image that R365 refuses restores nothing: the launch is saved
as it was, and held. -/
def restoreLaunch (ctx lid : Nat) (s : State) : State :=
  match s.launch? ctx lid with
  | none => s
  | some l =>
    let is_ := (launchInsts s l).filter (fun i => i.saved)
    if l.st ≠ .admitted then s
    else if is_.isEmpty then restoreGo ctx lid s
    else
      let found := is_.filterMap (fun i => (savedOf s i).map (fun q => (i, q)))
      if found.length ≠ is_.length then
        partRecord (unadmit s l is_ (some .noRoom)) (s.partOfCtx ctx) ((is_.map (fun i => i.stk)).headD 0) ctx 2 lid
      else
        match restoreAll s found with
        | none => pullFor s found
        | some s => restoreGo ctx lid s

/-! ## RESUME (R241, R366) -/

/-- Registrations of a firing that have no pages are made again, and its buffered lines are looked up again; none is left where all
succeed. -/
def lacksPages (s : State) (t : TileId) (fid : Nat) (r : Reg) : Bool := r.holder == .firing t fid && r.pages.isEmpty && !r.area.isEmpty
-- DEDUCED, log 175 (unsafe).
def reRegister (s : State) (t : TileId) (fid : Nat) : State :=
  let l := s.stks.flatMap (fun p => p.2.regs.filter (lacksPages s t fid))
  if l.isEmpty then s
  else
    let s : State := { s with stks := s.stks.map (fun p => (p.1, { p.2 with regs := p.2.regs.filter (fun r => !l.contains r) })) }
    let s := l.foldl (fun s r =>
      let x := s.tile t
      let rect := r.area.headD { base := 0, rowb := 0, pitch := 0, rows := 0 }
      let win := (x.firing? fid).bind (fun f => (f.wins.find? (fun w => decide (w.2.wid = r.wid) && !w.2.remote)).map (fun w => RegFor.window w.1))
      let cmd := (x.cmds.find? (fun c => c.ranges.any (fun q => decide (q.2 = r.wid)))).map (fun c => RegFor.command c.id)
      let s := s.setTile t { x with cmds := x.cmds.map (fun c => { c with ranges := c.ranges.filter (fun q => decide (q.2 ≠ r.wid)) }) }
      match win, cmd with
      | some q, _ => enterAgain s t fid q rect r.w
      | none, some q => enterAgain s t fid q rect r.w
      | none, none => s) s
    rekeyStore s t fid

/-- RESUME: a suspended firing is READY or DRAINING again, or waits as it did; registrations that failed at a restore are
made first. -/
def resume (t : TileId) (fid : Nat) (s : State) : State :=
  let s := reRegister s t fid
  match s.firing? t fid with
  | none => s
  | some f =>
    if f.st ≠ .suspended || s.stks.any (fun p => p.2.regs.any (fun r => lacksPages s t fid r && !r.range)) then s
    else if f.wait ≠ .none then s.setFiring t { f with st := .stalled, cause := none, debug := false }
    else resumeFiring t fid s
def execResume (t : TileId) (fid : Nat) (s : State) : Outcome := .next (resume t fid s)

end Sys2Proof.Machine
end

