-- ==== Sys2Proof/Machine/Arbiter.lean ====
section
/-! DEFINITION. The region arbiter (R318 to R323, R328): ranks, fits, reservations, pre-emption, admission, quanta. The
passes of the four stacks run as one round for each partition. -/

namespace Sys2Proof.Machine

/-! ## The tile maps (R319) -/

/-- A rectangle on a stack: stack, origin, size. -/
abbrev Box := Nat × Nat × Nat × Nat × Nat

def boxTiles (b : Box) : List TileId := rectOf b.1 b.2.1 b.2.2.1 b.2.2.2.1 b.2.2.2.2
def boxMeets (a b : Box) : Bool :=
  decide (a.1 = b.1) && decide (a.2.1 < b.2.1 + b.2.2.2.1) && decide (b.2.1 < a.2.1 + a.2.2.2.1) &&
  decide (a.2.2.1 < b.2.2.1 + b.2.2.2.2) && decide (b.2.2.1 < a.2.2.1 + a.2.2.2.2)
def Inst.box (i : Inst) : Box := (i.stk, i.ox, i.oy, i.w, i.h)

/-- Live instances: a saved one holds tiles from the admission that restores it. -/
def liveInsts (s : State) : List Inst :=
  s.insts.filter (fun i => !i.saved || s.launches.any (fun l => decide (l.ctx = i.ctx) && decide (l.lid = i.lid) && decide (l.st = .admitted)))
-- DESIGN CHOICE, log 108 (safe).
def defective (s : State) (t : TileId) : Bool := (s.defectMap t.stk).testBit (17 * t.y + t.x)
/-- Columns that a partition's candidates may take on a stack; during a resize, the new ones (R330). -/
def fitCols (s : State) (part : Nat) : BitVec 64 := match (s.part part).resizing with | some (_, _, _, c) => c | none => (s.part part).cols
def colOf (c : BitVec 64) (stk x : Nat) : Bool := decide (1 ≤ x) && decide (x ≤ 16) && c.getLsbD (16 * stk + (x - 1))
/-- Occupied tiles of a column. -/
def colCount (s : State) (stk x : Nat) : Nat :=
  (liveInsts s).foldl (fun (n : Nat) i => if i.stk = stk ∧ i.ox ≤ x ∧ x < i.ox + i.w then n + i.h else n) 0

/-! ## Rank (R318) -/

def rankBefore (a b : Launch) : Bool :=
  if a.cls ≠ b.cls then decide (b.cls < a.cls)
  else if a.age.getD 0 ≠ b.age.getD 0 then decide (a.age.getD 0 < b.age.getD 0)
  else if a.ctx ≠ b.ctx then decide (a.ctx < b.ctx)
  else if a.queue ≠ b.queue then decide (a.queue < b.queue)
  else decide (a.lid ≤ b.lid)

/-- A launch that competes for tiles: an eligible head, or a saved launch that is not held. -/
def isCandidate (s : State) (l : Launch) : Bool :=
  let c := s.ctx l.ctx
  (c.enabled || decide (l.st = .saved)) && !c.halted && !c.halting && l.held.isNone && l.placed.isSome &&
  (decide (l.st = .eligible) || decide (l.st = .reserved) || decide (l.st = .saved))

/-- The candidates of a partition in rank order. -/
def candidates (s : State) (part : Nat) : List Launch :=
  (s.launches.filter (fun l => decide (s.partOfCtx l.ctx = part) && isCandidate s l)).mergeSort rankBefore

/-! ## What a launch asks for -/

/-- One instance to be placed: its coordinates, its stack where a level names it, and its shape. -/
structure Want where
  coords : List Nat
  stk    : Option Nat
  w      : Nat
  h      : Nat
  /-- The saved instance. -/
  inst   : Option Nat
  deriving DecidableEq, Repr

def hasStackLevel (l : Launch) : Bool := l.levels.any (fun x => decide (x.domain = 4))

/-- The instances of a launch in ascending order of their coordinates; a saved one keeps its shape, and its stack where a
STACK level names it. -/
def asksOf (s : State) (l : Launch) (w h : Nat) : List Want :=
  if l.st = .saved then
    ((launchInsts s l).filter (fun i => i.saved)).map (fun i =>
      { coords := i.coords, stk := if hasStackLevel l then some i.stk else none, w := i.w, h := i.h, inst := some i.id })
  else (launchSpots s l).map (fun q => { coords := q.coords, stk := q.stk, w := w, h := h, inst := none })

-- DEDUCED, log 107 (unsafe).
/-- The side to which an origin is aligned (R225). -/
def alignSide (l : List Level) : Nat := if shapeBoundOf l = 16 then 1 else shapeBoundOf l

/-- Blocks of a small domain in which two origins lie. -/
def sameBlock (d : Nat) (a b : Box) : Bool :=
  let side := if d = 1 then 1 else if d = 2 then 2 else 4
  decide (a.1 = b.1) && decide ((a.2.1 - 1) / side = (b.2.1 - 1) / side) && decide (a.2.2.1 / side = b.2.2.1 / side)
def smallDomain (d : Nat) : Bool := decide (1 ≤ d ∧ d ≤ 3)

/-- Siblings lie apart, and share their parents' blocks (R225). -/
def siblingsOk : List Level → List Nat → List Nat → Box → Box → Bool
  | l :: r, c :: cs, d :: ds, a, b =>
    if c = d then (if smallDomain l.domain then sameBlock l.domain a b else true) && siblingsOk r cs ds a b
    else if smallDomain l.domain then !sameBlock l.domain a b else true
  | _, _, _, _, _ => true

/-- A rectangle that the columns, the alignment and the launch's other instances allow, free of defects. -/
def boxLawful (s : State) (part : Nat) (l : Launch) (prior : List (List Nat × Box)) (coords : List Nat) (b : Box) : Bool :=
  let side := alignSide l.levels
  decide ((b.2.1 - 1) % side = 0) && decide (b.2.2.1 % side = 0) && decide (b.2.2.1 + b.2.2.2.2 ≤ 16) &&
  (List.range b.2.2.2.1).all (fun k => colOf (fitCols s part) b.1 (b.2.1 + k)) &&
  !(boxTiles b).any (defective s) &&
  prior.all (fun p => !boxMeets p.2 b && siblingsOk l.levels p.1 coords p.2 b)

/-- No tile of the rectangle is reserved for another launch. -/
def unreserved (s : State) (l : Launch) (b : Box) : Bool :=
  s.launches.all (fun m => (decide (m.ctx = l.ctx) && decide (m.lid = l.lid)) || m.reserved.all (fun r => !boxMeets r b))

/-- A rectangle fits (R319). -/
def boxFits (s : State) (part : Nat) (l : Launch) (prior : List (List Nat × Box)) (coords : List Nat) (b : Box) : Bool :=
  boxLawful s part l prior coords b && (liveInsts s).all (fun i => !boxMeets i.box b) && unreserved s l b &&
  (decide (2 ≤ l.cls) || (List.range b.2.2.2.1).all (fun k => decide (colCount s b.1 (b.2.1 + k) < (s.part part).colthr)))

/-- Origins of a shape on a stack, by column and then by row. -/
def origins (stk w h : Nat) : List Box :=
  (List.range 16).flatMap (fun x => (List.range 16).map (fun y => (stk, x + 1, y, w, h)))

/-- First fit for the instances of one stack, all or none. -/
def placeOn (s : State) (part : Nat) (l : Launch) (stk : Nat) : List Want → List (List Nat × Box) → Option (List (List Nat × Box))
  | [], acc => some acc
  | a :: r, acc =>
    match (origins stk a.w a.h).find? (boxFits s part l acc a.coords) with
    | some b => placeOn s part l stk r (acc ++ [(a.coords, b)])
    | none => none

/-- Stacks on which a partition's candidates may take columns. -/
def partStacks (s : State) (part : Nat) : List Nat :=
  (List.range 4).filter (fun k => (List.range 16).any (fun x => colOf (fitCols s part) k (x + 1)))
/-- The stacks a launch competes on. -/
def stacksOf (s : State) (part : Nat) (asks : List Want) : List Nat :=
  if asks.any (fun a => a.stk.isSome) then (List.range 4).filter (fun k => asks.any (fun a => decide (a.stk = some k))) else partStacks s part

-- DEDUCED, log 69 (unsafe).
/-- The origins at which a recording of the graph was admitted (R314). -/
def replayBoxes (s : State) (l : Launch) (asks : List Want) : Option (List Box) :=
  match s.origins.find? (fun o => decide (o.1 = l.ghash)) with
  | none => none
  | some o => if o.2.length = asks.length then some ((asks.zip o.2).map (fun p => (p.2.1, p.2.2.1, p.2.2.2, p.1.w, p.1.h))) else none
def replayFit (s : State) (part : Nat) (l : Launch) : List (Want × Box) → List (List Nat × Box) → Option (List (List Nat × Box))
  | [], acc => some acc
  | (a, b) :: r, acc => if boxFits s part l acc a.coords b then replayFit s part l r (acc ++ [(a.coords, b)]) else none

/-! ## Shapes (R320) -/

/-- Shapes that a candidate tries: the first, and under RESHAPE the others that a cache holds. A saved one keeps its shapes. -/
def shapesOf (s : State) (l : Launch) : List PlacedCfg :=
  match l.placed with
  | none => []
  | some c =>
    if !l.reshape || decide (l.st = .saved) then [c]
    else
      let b := shapeBoundOf l.levels
      let cached := (List.range 4).flatMap (fun k => (tabGet [] s.cache k).filter (fun d => decide (d.hash = c.hash)))
      c :: (shapeOrder.filterMap (fun q =>
        if q.1 ≤ b ∧ q.2 ≤ b ∧ ¬ (q.1 = c.w ∧ q.2 = c.h) then cached.find? (fun d => decide (d.w = q.1) && decide (d.h = q.2)) else none))

/-- Where an instance goes, and the shape it takes. -/
abbrev Fit := PlacedCfg × (List Nat × Box)

/-- The instances of a launch that a stack is to place, in the first shape in which all of them have a fit there. -/
def placeFirst (s : State) (part : Nat) (l : Launch) (k : Nat) (mine : Want → Bool) (shapes : List PlacedCfg) : Option (List Fit) :=
  shapes.findSome? (fun d => (placeOn s part l k ((asksOf s l d.w d.h).filter mine) []).map (fun p => p.map (fun q => (d, q))))

/-- Fits for every instance of a launch (R319, R321): one stack for all, the lowest, where no level is a STACK level; the recorded
origins for a REPLAY. `allowed` leaves out the stacks that a bypass bound closes. -/
def fitLaunch (s : State) (part : Nat) (l : Launch) (allowed : List Nat) : Option (List Fit) :=
  let shapes := shapesOf s l
  let asks := fun (d : PlacedCfg) => asksOf s l d.w d.h
  let first := match shapes with | d :: _ => asks d | [] => []
  if first.isEmpty then none
  else if l.replay then
    shapes.findSome? (fun d =>
      match replayBoxes s l (asks d) with
      | some bs => if bs.all (fun b => allowed.contains b.1) then (replayFit s part l ((asks d).zip bs) []).map (fun p => p.map (fun q => (d, q))) else none
      | none => none)
  else if first.any (fun a => a.stk.isSome) then
    (List.range 4).foldl (fun (acc : Option (List Fit)) k =>
      match acc with
      | none => none
      | some p =>
        if !first.any (fun a => decide (a.stk = some k)) then some p
        else if allowed.contains k then (placeFirst s part l k (fun a => decide (a.stk = some k)) shapes).map (fun q => p ++ q)
        else none) (some [])
  else (partStacks s part).findSome? (fun k => if allowed.contains k then placeFirst s part l k (fun _ => true) shapes else none)

/-- Utund places the next shape of a RESHAPE launch that no cache holds, and the candidates are looked at again. -/
def nextShape (s : State) (part : Nat) (l : Launch) : State :=
  match l.placed with
  | none => s
  | some c =>
    if !l.reshape || decide (l.st = .saved) then s
    else
      match checkImage l.image.toArray with
      | .error _ => s
      | .ok g =>
        let have_ := shapesOf s l
        let b := shapeBoundOf l.levels
        let todo := shapeOrder.filter (fun q => decide (q.1 ≤ b) && decide (q.2 ≤ b) && !have_.any (fun d => decide (d.w = q.1) && decide (d.h = q.2)))
        match firstShape (expand g) todo with
        | none => s
        | some (w, h, tiles) =>
          ((partStacks s part).foldl (fun s k =>
            cacheInsert s k { key := cfgKey s k l.image w h, hash := c.hash, w := w, h := h, tiles := tiles, loaded := 0 }) s).later .arbitrationPass

/-! ## Admission (R321, R325) -/

/-- A configuration as it stands in the cache of a stack, under the key it has there. -/
def cfgOn (s : State) (stk : Nat) (img : List Byte) (c : PlacedCfg) : PlacedCfg := { c with key := cfgKey s stk img c.w c.h }

/-- A new instance at its place; its banks are converted, and its instantiation follows. -/
def admitNew (s : State) (part : Nat) (l : Launch) (q : Fit) : State :=
  let (id, s) := s.fresh
  let p := q.2
  let b := p.2
  let c := cfgOn s b.1 l.image q.1
  let sways := (s.ctx l.ctx).psplit.toNat
  let i : Inst := { id := id, lid := l.lid, ctx := l.ctx, part := part, stk := b.1, ox := b.2.1, oy := b.2.2.1, w := c.w, h := c.h, cfg := c.key
                    coords := p.1, levels := l.levels, argp := l.argp, sways := sways, armed := false, halting := false, saved := false
                    wd := s.cyc b.1, holds := [], qstart := 0, ntags := tagCount l.levels, binding := 0, resident := false, resid := 0 }
  let s := cacheInsert s b.1 c
  let s : State := { s with insts := s.insts ++ [i] }
  (convertBanks s b.1 i.banks (some (l.ctx, sways))).later (.instantiate id)

/-- A saved instance takes its new place, and its configuration enters that stack's cache. -/
def admitSaved (s : State) (l : Launch) (i : Inst) (b : Box) : State :=
  let c := (instCfg s i).map (cfgOn s b.1 l.image)
  let s := match c with | some c => cacheInsert s b.1 c | none => s
  let j := { i with stk := b.1, ox := b.2.1, oy := b.2.2.1, cfg := match c with | some c => c.key | none => i.cfg }
  convertBanks (s.setInst j) b.1 j.banks (some (l.ctx, i.sways))

/-- A launch is admitted at its places. -/
def admitLaunch (s : State) (part : Nat) (l : Launch) (places : List Fit) : State :=
  let l' := { l with st := .admitted, admitted := some (l.admitted.getD (s.cyc 0)), reserved := [], chosen := [], bypass := 0 }
  if l.st = .saved then
    let s := s.setLaunch { l' with bypass := l.bypass }
    let s := places.foldl (fun s p =>
      match (launchInsts s l).find? (fun i => decide (i.coords = p.2.1) && i.saved) with
      | some i => admitSaved s l i p.2.2
      | none => s) s
    s.later (.restore l.ctx l.lid)
  else
    let first := s.nextId
    let s := places.foldl (fun s p => admitNew s part l p) s
    let s := s.setLaunch { l' with insts := (List.range places.length).map (fun k => first + k) }
    let s := leaveQueue s l
    let s : State := if l.record then
        { s with origins := (l.ghash, places.map (fun p => (p.2.2.1, p.2.2.2.1, p.2.2.2.2.1))) :: s.origins.filter (fun o => decide (o.1 ≠ l.ghash)) }
      else s
    s.later (.launchEligible l.ctx l.queue)

/-! ## Reservations and removal (R321, R323) -/

/-- The launch of a live instance. -/
def instLaunch (s : State) (i : Inst) : Option Launch := s.launch? i.ctx i.lid

/-- The rectangle with the fewest occupied tiles that holds no tile of a HIGH or URGENT instance. -/
def highBox (s : State) (part : Nat) (l : Launch) (stk : Nat) (prior : List (List Nat × Box)) (a : Want) : Option Box :=
  let ok := fun (b : Box) => boxLawful s part l prior a.coords b && unreserved s l b &&
    (liveInsts s).all (fun i => !boxMeets i.box b || (match instLaunch s i with | some m => decide (m.cls < 2) | none => false))
  let used := fun (b : Box) => ((boxTiles b).filter (fun t => (liveInsts s).any (fun i => i.rect.contains t))).length
  ((origins stk a.w a.h).filter ok).foldl (fun (m : Option Box) b =>
    match m with | none => some b | some c => if used b < used c then some b else some c) none

/-- One rectangle for each instance on a stack, in the order of their coordinates. -/
def boxesBy (f : List (List Nat × Box) → Want → Option Box) : List Want → List (List Nat × Box) → Option (List (List Nat × Box))
  | [], acc => some acc
  | a :: r, acc => match f acc a with | some b => boxesBy f r (acc ++ [(a.coords, b)]) | none => none

/-- The launches with an instance in a rectangle. -/
def removalSet (s : State) (b : Box) : List Launch :=
  s.launches.filter (fun m => (liveInsts s).any (fun i => decide (i.ctx = m.ctx) && decide (i.lid = m.lid) && boxMeets i.box b))
/-- Tiles that a removal set holds on a stack. -/
def setTiles (s : State) (stk : Nat) (l : List Launch) : Nat :=
  (liveInsts s).foldl (fun (n : Nat) i =>
    if i.stk = stk ∧ l.any (fun m => decide (m.ctx = i.ctx) && decide (m.lid = i.lid)) then n + i.w * i.h else n) 0
/-- The highest-ranked member. -/
def topOf (l : List Launch) : Option Launch :=
  l.foldl (fun (m : Option Launch) x => match m with | none => some x | some y => if rankBefore x y then some x else some y) none

/-- A removal set is chosen before another: its highest-ranked member ranks lower, then fewer tiles. -/
def setBefore (s : State) (stk : Nat) (a b : List Launch) : Bool :=
  match topOf a, topOf b with
  | none, none => false
  | none, some _ => true
  | some _, none => false
  | some x, some y =>
    if x = y then decide (setTiles s stk a < setTiles s stk b) else rankBefore y x

def urgentBox (s : State) (part : Nat) (l : Launch) (stk : Nat) (prior : List (List Nat × Box)) (a : Want) : Option Box :=
  let ok := fun (b : Box) => boxLawful s part l prior a.coords b && unreserved s l b &&
    (liveInsts s).all (fun i => !boxMeets i.box b || (match instLaunch s i with | some m => rankBefore l m | none => false))
  ((origins stk a.w a.h).filter ok).foldl (fun (m : Option Box) b =>
    match m with | none => some b | some c => if setBefore s b.1 (removalSet s b) (removalSet s c) then some b else some c) none

/-- A launch takes rectangles; an eligible one is RESERVED (R325). -/
def reserve (s : State) (l : Launch) (p : List (List Nat × Box)) : State :=
  s.setLaunch { l with reserved := l.reserved ++ p.map (fun q => q.2), st := if l.st = .eligible then .reserved else l.st }

/-- The rectangles of R323 for the instances that have no fit on a stack. -/
def boxesOn (s : State) (part : Nat) (l : Launch) (stk : Nat) (mine : List Want) : Option (List (List Nat × Box)) :=
  if l.cls = 3 then boxesBy (urgentBox s part l stk) mine [] else if l.cls = 2 then boxesBy (highBox s part l stk) mine [] else none

/-- They are reserved; an URGENT launch displaces what lies in them. -/
def takeBoxes (s : State) (l : Launch) (stk : Nat) (p : List (List Nat × Box)) : State :=
  if l.cls = 3 then
    let out := (p.flatMap (fun q => removalSet s q.2)).eraseDups
    out.foldl (fun s m => preempt s m.ctx m.lid none) (reserve s { l with chosen := l.chosen ++ [stk] } p)
  else reserve s l p

/-- A launch over several stacks, on one of them: what it can place there is reserved (R321), else R323 applies. -/
def reserveOn (part : Nat) (q : Nat × Nat) (shapes : List PlacedCfg) (s : State) (stk : Nat) : State :=
  match s.launch? q.1 q.2, shapes with
  | some l, d :: _ =>
    if l.chosen.contains stk then s
    else
      match placeFirst s part l stk (fun a => decide (a.stk = some stk)) shapes with
      | some p => reserve s l (p.map (fun q => q.2))
      | none =>
        match boxesOn s part l stk ((asksOf s l d.w d.h).filter (fun a => decide (a.stk = some stk))) with
        | some p => takeBoxes s l stk p
        | none => s
  | _, _ => s

/-- A candidate that does not fit: one over several stacks reserves on each, a HIGH or URGENT one on the lowest stack where R323 finds
rectangles for all of its instances; others wait. -/
def wait_ (s : State) (part : Nat) (l : Launch) (asks : List Want) : State :=
  let stks := stacksOf s part asks
  if asks.any (fun a => a.stk.isSome) then
    if 2 ≤ stks.length ∨ 2 ≤ l.cls then stks.foldl (reserveOn part (l.ctx, l.lid) (shapesOf s l)) s else s
  else if !l.chosen.isEmpty then s
  else
    match stks.findSome? (fun k => (boxesOn s part l k asks).map (fun p => (k, p))) with
    | some (k, p) => takeBoxes s l k p
    | none => s

/-! ## The pass of a partition (R328) -/

/-- Some rectangle of the partition could hold a shape: columns, alignment, no defect (R324, R330). -/
def couldFit (s : State) (part : Nat) (l : Launch) (a : Want) : Bool :=
  (match a.stk with | some k => if l.st = LSt.saved then [k] else partStacks s part | none => partStacks s part).any (fun k =>
    (origins k a.w a.h).any (boxLawful s part l [] a.coords))

/-- A saved launch that can no longer fit is held; a new one completes. -/
def noRoom (s : State) (part : Nat) (l : Launch) (a : Want) : State :=
  if l.st = .saved then
    partRecord (s.setLaunch { l with held := some .noRoom, reserved := [], chosen := [] }) part (match a.stk with | some k => k | none => 0) l.ctx 3 l.lid
  else completeLaunch s l .nofit

/-- A launch is moved past: it counts. -/
def bypassOne (s : State) (q : Nat × Nat) : State :=
  match s.launch? q.1 q.2 with
  | some w => s.setLaunch { w with bypass := w.bypass + 1 }
  | none => s

/-- One candidate of the pass; `waiting` names the waiting ones ranked above it, with the stacks they compete on. -/
def considerOne (part : Nat) (r : State × List (Nat × Nat × List Nat)) (q : Nat × Nat) : State × List (Nat × Nat × List Nat) :=
  let (s, waiting) := r
  match s.launch? q.1 q.2 with
  | none => (s, waiting)
  | some l =>
    if !isCandidate s l then (s, waiting)
    else
      match l.placed with
      | none => (s, waiting)
      | some c =>
        let asks := asksOf s l c.w c.h
        let first := decide (l.cfg = [])
        let l := { l with cfg := c.key }
        let s := s.setLaunch l
        match asks, asks.find? (fun a => (first || decide (l.st = .saved)) && !couldFit s part l a) with
        | [], _ => (s, waiting)
        | _, some a => (noRoom s part l a, waiting)
        | _, none =>
            let bound := (s.part part).bypb
            let closed := if 2 ≤ l.cls then [] else waiting.flatMap (fun w =>
              match s.launch? w.1 w.2.1 with | some m => if bound ≤ m.bypass then w.2.2 else [] | none => [])
            let stks := stacksOf s part asks
            let here := waiting ++ [(l.ctx, l.lid, stks)]
            let allowed := stks.filter (fun k => !closed.contains k)
            if allowed.isEmpty || (asks.any (fun a => a.stk.isSome) && allowed.length ≠ stks.length) then (s, here)
            else
              match fitLaunch s part l allowed with
              | some p =>
                let on := p.map (fun q => q.2.2.1)
                let s := (waiting.filter (fun w => w.2.2.any on.contains)).foldl (fun s w => bypassOne s (w.1, w.2.1)) s
                (admitLaunch s part l p, waiting)
              | none => (nextShape (wait_ s part l asks) part l, here)

-- DEDUCED, log 176 (unsafe).
/-- Reservations are made anew in every pass; where an URGENT launch has displaced others it keeps its own until admission, on columns that
are still the partition's. -/
def clearReserved (s : State) (part : Nat) : State :=
  { s with launches := s.launches.map (fun l =>
      if s.partOfCtx l.ctx = part then
        let gone := fun (k : Nat) => l.reserved.any (fun b => decide (b.1 = k) && !(List.range b.2.2.2.1).all (fun n => colOf (fitCols s part) k (b.2.1 + n)))
        let keep := if l.cls = 3 then l.chosen.filter (fun k => !gone k) else []
        let r := l.reserved.filter (fun b => keep.contains b.1)
        { l with reserved := r, chosen := keep, st := if l.st = .reserved ∧ r.isEmpty = true then .eligible else l.st }
      else l) }

/-! ## Graphs of saved launches (R330, R366) -/

/-- A saved launch whose graph cannot be placed again is held, and its partition told. -/
def holdSaved (s : State) (part : Nat) (l : Launch) : State :=
  partRecord (s.setLaunch { l with held := some .noRoom, lines := [], asked := [] }) part 0 l.ctx 2 l.lid

/-- The shapes of the saved instances of a graph, each placed. -/
def placeSaved (g : Graph) (hash : List Byte) (is_ : List Inst) : Option (List PlacedCfg) :=
  ((is_.map (fun i => (i.w, i.h))).eraseDups).foldr (fun q acc =>
    match tryShape g q, acc with
    | some (w, h, tiles), some l => some ({ key := [], hash := hash, w := w, h := h, tiles := tiles, loaded := 0 } :: l)
    | _, _ => none) (some [])

/-- A saved launch that came with an image has its graph read, and Utund places its saved shapes. -/
def fetchSaved (part : Nat) (s : State) (q : Nat × Nat) : State :=
  match s.launch? q.1 q.2 with
  | none => s
  | some l =>
    let is_ := (launchInsts s l).filter (fun i => i.saved)
    if l.st ≠ .saved ∨ l.placed.isSome ∨ l.held.isSome ∨ is_.isEmpty then s
    else
      match engRead .host 0 l.ctx 0 l.lines (l.imglen / 128 + 2) s l.imgp l.imglen [] with
      | .fail e => if e.pull.isSome then startPull s e.pull else holdSaved (readFault s l.ctx e) part l
      | _ =>
        match launchRead s l l.imgp l.imglen with
        | .wait s => s
        | .fail s => holdSaved s part l
        | .got b s =>
          let hash := (sha512 b).take 32
          match (if hash = l.ghash then checkImage b.toArray else .error .hash) with
          | .error _ => holdSaved s part l
          | .ok g =>
            match placeSaved (expand g) hash is_ with
            | none => holdSaved s part l
            | some [] => s
            | some (c :: r) =>
              let s := is_.foldl (fun s i =>
                match (c :: r).find? (fun d => decide (d.w = i.w) && decide (d.h = i.h)) with
                | some d => let d := cfgOn s i.stk b d
                            (cacheInsert s i.stk d).setInst { i with cfg := d.key }
                | none => s) s
              s.setLaunch { l with placed := some c, image := b, lines := [], asked := [] }

-- DEDUCED, log 109 (unsafe).
def passOf (s : State) (part : Nat) : State :=
  let s := clearReserved s part
  let mine := (s.launches.filter (fun l => decide (s.partOfCtx l.ctx = part) && !(s.ctx l.ctx).halted && !(s.ctx l.ctx).halting)).map (fun l => (l.ctx, l.lid))
  let s := mine.foldl (fetchSaved part) s
  ((candidates s part).foldl (fun r l => considerOne part r (l.ctx, l.lid)) (s, [])).1

/-- ARBITRATION_PASS (R328): the partitions in ascending order. -/
def arbitrate (s : State) : State :=
  let s : State := { s with acts := s.acts.filter (fun a => a != .arbitrationPass) }
  (List.range 16).foldl (fun s p => if (s.part p).exist then passOf s p else s) s
def execArbitrationPass (s : State) : Outcome := .next (arbitrate s)

/-! ## Quanta (R322, R328) -/

-- DEDUCED, log 111 (unsafe).
/-- A candidate of the partition waits on a stack, of a class at least as high, and does not fit. -/
def quantumWanted (s : State) (part stk cls : Nat) : Bool :=
  (candidates s part).any (fun l => decide (cls ≤ l.cls) &&
    match l.placed with
    | none => false
    | some c =>
      let asks := asksOf s l c.w c.h
      (stacksOf s part asks).contains stk &&
      (fitLaunch s part l (List.range 4)).isNone)

/-- Sets the quantum of a launch on a stack going from a cycle, once. -/
def quantumTimer (s : State) (ctx lid stk due : Nat) : State :=
  if s.timers.any (fun t => decide (t.act = .quantumExpiry lid ctx stk)) then s else s.at_ stk due (.quantumExpiry lid ctx stk)

/-- One expiry. -/
def quantumTest (s : State) (ctx lid stk : Nat) : State :=
  match s.launch? ctx lid with
  | none => s
  | some l =>
    let mine := (launchInsts s l).filter (fun i => decide (i.stk = stk) && i.armed && !i.saved && !i.halting)
    match quantumOf s l, mine with
    | some q, i :: _ =>
      let cyc := (s.stack stk).cyc
      if l.st = .admitted then quantumTimer s ctx lid stk (cyc + 1)
      else if l.st ≠ .running then s
      else if i.dhold || decide (cyc < i.qstart + q) then quantumTimer s ctx lid stk (Nat.max (cyc + 1) (i.qstart + q))
      else
        let s := if instEnded s i then endStream i.id s else s
        if (s.inst? i.id).isNone then s
        else if quantumWanted s i.part stk l.cls then preempt s ctx lid none
        else quantumTimer (mine.foldl (fun s j => s.setInst { j with qstart := cyc }) s) ctx lid stk (cyc + q)
    | _, _ => s

/-- QUANTUM_EXPIRY: with the other expiries due on the stack, lowest-ranked launch first. -/
def quantumExpiry (lid ctx stk : Nat) (s : State) : State :=
  let cyc := (s.stack stk).cyc
  let due := fun (t : Timer) => decide (t.stk = stk) && decide (t.due ≤ cyc) && (match t.act with | .quantumExpiry _ _ _ => true | _ => false)
  let others := (s.timers.filter due).filterMap (fun t => match t.act with | .quantumExpiry l c _ => some (c, l) | _ => none)
  let s : State := { s with timers := s.timers.filter (fun t => !due t) }
  let ls := (((ctx, lid) :: others).eraseDups.filterMap (fun q => s.launch? q.1 q.2)).mergeSort (fun a b => rankBefore b a)
  ls.foldl (fun s l => quantumTest s l.ctx l.lid stk) s
def execQuantumExpiry (lid ctx stk : Nat) (s : State) : Outcome := .next (quantumExpiry lid ctx stk s)

/-! ## Configurations without a launch -/

/-- A saved configuration that no launch placed: as the cache of a stack holds it, or another's with the same graph and shape. -/
def looseCfg (s : State) (i : Inst) (hash : List Byte) : Option PlacedCfg :=
  match (tabGet [] s.cache i.stk).find? (fun c => decide (c.key = i.cfg)) with
  | some c => some c
  | none => ((List.range 4).flatMap (fun k => tabGet [] s.cache k)).find? (fun c => decide (c.hash = hash) && decide (c.w = i.w) && decide (c.h = i.h))

/-- Its tiles are free and sound, in columns of its partition. -/
def looseFree (s : State) (i : Inst) (b : Box) : Bool :=
  decide (b.2.2.1 + b.2.2.2.2 ≤ 16) && (List.range b.2.2.2.1).all (fun k => colOf (fitCols s i.part) b.1 (b.2.1 + k)) && !(boxTiles b).any (defective s) &&
  (liveInsts s).all (fun j => !boxMeets j.box b) && s.launches.all (fun m => m.reserved.all (fun r => !boxMeets r b))
/-- Where it goes: its own rectangle, else the first of its stack by column. -/
def looseBox (s : State) (i : Inst) : Option Box :=
  if looseFree s i i.box then some i.box else (origins i.stk i.w i.h).find? (looseFree s i)

/-- It is rebuilt where it has room. -/
def restoreLoose (s : State) (i : Inst) : State :=
  match savedOf s i, looseBox s i with
  | some q, some b =>
    (match looseCfg s i q.2.ghash with
     | none => s
     | some c =>
       let j := { i with ox := b.2.1, oy := b.2.2.1, cfg := c.key }
       let t := convertBanks ((cacheInsert s j.stk c).setInst j) j.stk j.banks (some (j.ctx, j.sways))
       match restoreAll t [(j, q)] with
       | some t => t
       | none => pullFor s [(i, q)])
  | _, _ => s

/-- RESTORE of a launch, or of the configurations of a context that no launch placed. -/
def restoreStep (ctx lid : Nat) (s : State) : State :=
  if lid = 0 then
    let c := s.ctx ctx
    if c.halted || c.halting then s
    else restoreGo ctx 0 ((s.insts.filter (fun i => decide (i.ctx = ctx) && decide (i.lid = 0) && i.saved)).foldl restoreLoose s)
  else restoreLaunch ctx lid s
def execRestore (ctx lid : Nat) (s : State) : Outcome := .next (restoreStep ctx lid s)

end Sys2Proof.Machine
end

