-- ==== Sys2Proof/Machine/Manage.lean ====
section
/-! DEFINITION. Management registers (R419 to R421), record queues (R401, R420), logs (R368, R407), bindings (R350, R380),
invalidation (R340), debug control (R405). -/

namespace Sys2Proof.Machine

/-! ## The register map (R419) -/

inductive MReg
  | powercap | pwrstat | tempwin (stk : Nat) | templim | devid
  | qbase (q : QSel) | qctl (q : QSel) | qtail (q : QSel)
  | ecc (unit : Nat) | sbt (stk bus : Nat) | mtlbinv (stk : Nat)
  | s2root (part stk : Nat) | carvbase (part stk : Nat) | carvsize (part stk : Nat)
  | dlogbase (part stk : Nat) | dlogctl (part stk : Nat) | dlogtail (part stk : Nat)
  | rlogbase (part stk : Nat) | rlogctl (part stk : Nat) | rlogtail (part stk : Nat)
  | dlogctx (part stk n : Nat) | partprm (part : Nat)
  | dbgctl (t : TileId) | soflg (t : TileId) (node : Nat)
  | psplit (ctx : Nat) | omap (ctx n : Nat) | peer (ctx n : Nat) | binding (ctx plane : Nat) | s1root (ctx stk : Nat)
  deriving DecidableEq, Repr

/-- A register of the block of a partition on a stack, by its place in the block. -/
def partReg (p k o : Nat) : Option MReg :=
  if o = 0 then some (.s2root p k) else if o = 0x08 then some (.carvbase p k) else if o = 0x10 then some (.carvsize p k)
  else if o = 0x18 then some (.dlogbase p k) else if o = 0x20 then some (.dlogctl p k) else if o = 0x28 then some (.dlogtail p k)
  else if o = 0x30 then some (.rlogbase p k) else if o = 0x38 then some (.rlogctl p k)
  else if 0x40 ≤ o ∧ o ≤ 0xB8 ∧ o % 8 = 0 then some (.dlogctx p k ((o - 0x40) / 8))
  else if o = 0xC0 then some (.rlogtail p k) else if o = 0xC8 then some (.qbase (.hv p k))
  else if o = 0xD0 then some (.qctl (.hv p k)) else if o = 0xD8 then some (.qtail (.hv p k))
  else none

/-- A register of a context's block. -/
def ctxReg (c o : Nat) : Option MReg :=
  if o = 0 then some (.psplit c)
  else if 0x100 ≤ o ∧ o < 0x200 ∧ o % 4 = 0 then some (.omap c ((o - 0x100) / 4))
  else if 0x200 ≤ o ∧ o < 0x300 ∧ o % 4 = 0 then some (.peer c ((o - 0x200) / 4))
  else if 0x300 ≤ o ∧ o < 0x340 ∧ o % 8 = 0 then some (.binding c ((o - 0x300) / 8))
  else if 0x340 ≤ o ∧ o < 0x360 ∧ o % 8 = 0 then some (.s1root c ((o - 0x340) / 8))
  else if o = 0x400 then some (.qbase (.ev c)) else if o = 0x408 then some (.qctl (.ev c)) else if o = 0x410 then some (.qtail (.ev c))
  else none

/-- The register that an address names (R419). -/
def mregOf (a : Nat) : Option MReg :=
  if a = 0 then some .powercap else if a = 8 then some .pwrstat
  else if 0x10 ≤ a ∧ a < 0x30 ∧ a % 8 = 0 then some (.tempwin ((a - 0x10) / 8))
  else if a = 0x30 then some .templim else if a = 0x38 then some .devid
  else if a = 0x40 then some (.qbase .mg) else if a = 0x48 then some (.qctl .mg) else if a = 0x50 then some (.qtail .mg)
  else if 0x108 ≤ a ∧ a ≤ 0x158 ∧ a % 8 = 0 then some (.ecc ((a - 0x100) / 8))
  else if 0x1000000 ≤ a ∧ a < 0x1040000 then
    let k := (a - 0x1000000) / 65536
    let o := a % 65536
    if o < 0x400 ∧ o % 8 = 0 then some (.sbt k (o / 8)) else if o = 0x800 then some (.mtlbinv k) else none
  else if 0x2000000 ≤ a ∧ a < 0x2010000 then
    let p := (a - 0x2000000) / 4096
    let o := a % 4096
    if o < 0x400 then partReg p (o / 256) (o % 256) else if o = 0x800 then some (.partprm p) else none
  else if 0x4000000 ≤ a ∧ a < 0x4040000 then
    let o := a % 65536
    let x := o / 256
    if 1 ≤ x ∧ x ≤ 16 ∧ o % 256 < 128 ∧ o % 8 = 0 then some (.dbgctl { stk := (a - 0x4000000) / 65536, x := x, y := o % 256 / 8 }) else none
  else if 0x6000000 ≤ a ∧ a < 0x6040000 then
    let o := a % 65536
    let x := o / 2048
    if x ≤ 16 ∧ o % 8 = 0 then some (.soflg { stk := (a - 0x6000000) / 65536, x := x, y := o % 2048 / 128 } (o % 128 / 8)) else none
  else if 0x10000000 ≤ a ∧ a < 0x10400000 then ctxReg ((a - 0x10000000) / 4096) (a % 4096)
  else none

/-! ## Reads -/

def logCtlBits (r : LogRegs) : Nat := r.en.toNat + 2 * r.ovf.toNat + r.size.toNat * 2 ^ 8 + r.head.toNat * 2 ^ 32
def powerStatus (s : State) : Nat :=
  s.throttled.toNat + 2 * ((List.range 4).any (fun k => (s.stack k).hot)).toNat + 4 * s.trip.toNat + s.issueK % 32 * 8 +
  (((List.range 4).map (fun k => (s.stack k).temp)).foldl Nat.max 0) % 256 * 2 ^ 8
def flgBits (f : SoFlg) : Nat := f.ix % 2 ^ 16 + f.uf % 2 ^ 16 * 2 ^ 16 + f.ov % 2 ^ 16 * 2 ^ 32 + f.iv % 2 ^ 16 * 2 ^ 48
def dbgBits (d : DbgState) : Nat := d.halt.toNat + 4 * d.brken.toNat + 8 * d.halted.toNat

def MReg.value (s : State) : MReg → Nat
  | .powercap => s.powercap.toNat
  | .pwrstat => powerStatus s
  | .tempwin k => (s.stack k).tempwin.toNat
  | .templim => s.templim.toNat
  | .devid => s.devid.toNat
  | .qbase q => (s.queue q).base.toNat
  | .qctl q => let x := s.queue q; x.en.toNat + x.size.toNat * 2 ^ 8 + x.head.toNat * 2 ^ 32
  | .qtail q => (s.queue q).tail.toNat
  | .ecc u => (tabGet 0 s.ecc u).toNat
  | .sbt k b => (tabGet {} s.buses (k * 128 + b)).sbt.toNat
  | .mtlbinv k => (s.stack k).mtlbinv.toNat
  | .s2root p k => (tabGet 0 (s.part p).s2root k).toNat
  | .carvbase p k => (tabGet 0 (s.part p).carvbase k).toNat
  | .carvsize p k => (tabGet 0 (s.part p).carvsize k).toNat
  | .dlogbase p k => (tabGet {} (s.part p).dlog k).base.toNat
  | .dlogctl p k => logCtlBits (tabGet {} (s.part p).dlog k)
  | .dlogtail p k => (tabGet {} (s.part p).dlog k).tail.toNat
  | .rlogbase p k => (tabGet {} (s.part p).rlog k).base.toNat
  | .rlogctl p k => logCtlBits (tabGet {} (s.part p).rlog k)
  | .rlogtail p k => (tabGet {} (s.part p).rlog k).tail.toNat
  | .dlogctx p k n => (tabGet 0 (s.part p).dlogctx (k * 16 + n)).toNat
  | .partprm p => (s.part p).wdlog.toNat + (s.part p).remto.toNat * 2 ^ 32
  | .dbgctl t => dbgBits (s.tile t).dbg
  | .soflg t n => flgBits ((s.tile t).soOf n).flg
  | .psplit c => (s.ctx c).psplit.toNat
  | .omap c n => s.omapEntry c n
  | .peer c n => (tabGet 0 (s.ctx c).peers n).toNat
  | .binding c n => s.binding c n
  | .s1root c k => (tabGet 0 (s.ctx c).s1root k).toNat

/-- MMRD (R117): an address that names no register reads 0. -/
def mregRead (s : State) (a : Nat) : Word := match mregOf a with | some r => BitVec.ofNat 64 (r.value s) | none => 0

/-! ## Record queues (R401, R420) -/

/-- The entry numbered i of a queue's ring: where it stands. -/
def queueBase (x : RQueue) : Nat := x.base.toNat / 64 * 64
def queueEntry (x : RQueue) (i : Nat) : Nat := queueBase x + 64 * (i % x.size.toNat)
def queueSizeOk (n : Nat) : Bool := decide (16 ≤ n) && decide (n ≤ 2 ^ 20) && decide (n = 2 ^ n.log2)
/-- Records posted and not consumed. -/
def RQueue.held (x : RQueue) : Nat := (x.head - x.tail).toNat
/-- The management queue while disabled keeps its records in 256 internal entries. -/
def internalRing (x : RQueue) (q : QSel) : Bool := !x.en && decide (q = .mg)

-- DEDUCED, log 113 (unsafe).
/-- Bytes written by the machine at a virtual address of a context, from stack 0; and the request that takes them to another device. -/
def ctxWrite (s : State) (ctx va : Nat) (b : List Byte) (who : RemFor) (again : Option Nat) : Except FInfo (Option Nat × State) :=
  match locate s { stk := 0, ctx := ctx, inst := none, kind := .store, write := true, va := va } with
  | .error e => .error e
  | .ok (.here p) => .ok (none, homeWriteAll 2 (noteUse s p) p.key b)
  | .ok (.away d k c o) =>
    if routed s 0 d then
      let i := o % 128
      let q : HomeReq := { blankReq with kind := .publish, size := 128, val := BitVec.ofNat 1024 (wordOfBytes b * 2 ^ (8 * i))
                                         mask := BitVec.ofNat 128 ((2 ^ b.length - 1) * 2 ^ i) }
      let r := sendRemote s 0 ctx (va / 128 * 128) (awayKey d k c (o / 128 * 128)) who { req := q } again
      .ok (some r.1, r.2)
    else .error (fabricInfo s va AccKind.store.num ctx d none)

/-- A record at its entry: an event queue's in its context's space, the others' in physical memory. -/
def writeEntry (s : State) (q : QSel) (x : RQueue) (i : Nat) (b : List Byte) : Except FInfo (Option Nat × State) :=
  let a := queueEntry x i
  match q with
  | .ev c => ctxWrite s c a b (.record q) x.sent
  | .hv _ k => .ok (none, homeWriteAll 2 s (dramKey k a) b)
  | .mg => .ok (none, homeWriteAll 2 s (dramKey 0 a) b)

-- DEDUCED, log 112 (unsafe).
/-- A copy of a management record for the host, once its endpoint is open (R401, R412). -/
def toHost (s : State) (b : List Byte) : State := if s.boot = .running then s.send (.mgmt b) else s

/-- A change of the power state, with a copy of PWRSTAT for the host when that changes it (R418). -/
def powerChange (s t : State) : State :=
  if powerStatus s = powerStatus t then t else toHost t (bytesOf 8 (powerStatus t))

/-- TEMPLIM and the temperature of a stack's die (R418): above it k = 1, until 5 °C below it. -/
def checkLimit (s : State) (k : Nat) : State :=
  let x := s.stack k
  let hot := if s.templim.toNat < x.temp then true else if x.temp + 5 ≤ s.templim.toNat then false else x.hot
  { s.setStack k { x with hot := hot } with throttled := s.throttled || hot }

/-- The fault of a stalled event queue: to the hypervisor queue for stage 2, else to the management queue. -/
def stalledFault (s : State) (c : Nat) (e : FInfo) : State :=
  let body := faultRecord s { tile := linkTile, entry := none, ctx := c } e 0 0 0 0 .none 0
  match e.hv with
  | some (p, k) => s.post (.hv p k) body
  | none => startPull (s.post .mg body) e.pull

/-- The oldest waiting record of a queue stands in its ring: HEAD rises. -/
def recordWritten (s : State) (q : QSel) (b : List Byte) : State :=
  let y := s.queue q
  let s := s.setQueue q { y with waiting := y.waiting.drop 1, head := y.head + 1, stalled := false, sent := none }
  let s := if q = .mg then toHost s b else s
  if (s.queue q).waiting.isEmpty then s else s.later (.recordPost q)

/-- Its write to a ring at another device is under way. -/
def RQueue.writing (s : State) (x : RQueue) : Bool := match x.sent with | some n => s.remote.any (fun r => r.rid == n) | none => false

/-- RECORD_POST (R401, R420): the oldest waiting record of a queue is written, if there is room and its place translates. -/
def recordPost (q : QSel) (s : State) : State :=
  let x := s.queue q
  match x.waiting with
  | [] => s
  | b :: _ =>
    if internalRing x q then
      if 256 ≤ x.ring.length then s
      else toHost (s.setQueue q { x with ring := x.ring ++ [b], waiting := x.waiting.drop 1, head := x.head + 1 }) b
    else if !x.en || x.writing s then s
    else if x.size.toNat ≤ x.held then s
    else
      match writeEntry s q x x.head.toNat b with
      | .error e =>
        if x.stalled then s
        else (match q with | .ev c => stalledFault (s.setQueue q { x with stalled := true }) c e | _ => s)
      | .ok (some rid, s) => s.setQueue q { s.queue q with sent := some rid }
      | .ok (none, s) => recordWritten s q b
def execRecordPost (q : QSel) (s : State) : Outcome := .next (recordPost q s)

/-- A queue with waiting records is looked at. -/
def pokeQueue (s : State) (q : QSel) : State := if (s.queue q).waiting.isEmpty then s else s.later (.recordPost q)

/-- xQBASE: ignored while enabled. -/
def writeQueueBase (s : State) (q : QSel) (v : Word) : State :=
  let x := s.queue q
  if x.en then s else s.setQueue q { x with base := BitVec.ofNat 64 (v.toNat / 64 * 64) }

/-- Records of the management queue's internal ring move to its ring in memory, as far as it holds them; the others wait. -/
def ringOut (s : State) : List (List Byte) → Nat → State
  | [], _ => s
  | b :: r, i => ringOut (homeWriteAll 2 s (dramKey 0 (queueEntry s.mgq i)) b) r (i + 1)
/-- And back. -/
def ringIn (s : State) (x : RQueue) : List (List Byte) :=
  (List.range x.held).map (fun i => memBytes s.mem (dramKey 0 (queueEntry x (x.tail.toNat + i))) 64)

/-- Host launches that wait at the endpoints of contexts are looked at again (R316, R420). -/
def lookInbox (s : State) (p : Nat → Bool) : State :=
  s.laterAll ((s.ctxs.filter (fun c => p c.1 && !c.2.inbox.isEmpty)).map (fun c => Act.launchEligible c.1 0))

/-- QUEUE_CTL_WRITE (R420). -/
def writeQueueCtl (s : State) (q : QSel) (v : Word) : State :=
  let x := s.queue q
  let n := bitsNat v.toNat 31 8
  let size := if x.en || !queueSizeOk n then x.size else BitVec.ofNat 24 n
  let en := v.getLsbD 0 && queueSizeOk size.toNat
  let y := { x with size := size, en := en }
  if decide (q = .mg) && en && !x.en then
    let k := Nat.min x.ring.length size.toNat
    let s := s.setQueue q { y with ring := [], head := x.head - BitVec.ofNat 32 (x.ring.length - k), waiting := x.ring.drop k ++ x.waiting }
    pokeQueue (ringOut s (x.ring.take k) x.tail.toNat) q
  else if decide (q = .mg) && !en && x.en then s.setQueue q { y with ring := ringIn s x }
  else lookInbox (pokeQueue (s.setQueue q y) q) (fun c => q == .ev c)
def execQueueCtlWrite (q : QSel) (v : Word) (s : State) : Outcome := .next (writeQueueCtl s q v)

/-- QUEUE_TAIL_WRITE (R420): records are consumed. -/
def writeQueueTail (s : State) (q : QSel) (v : Word) : State :=
  let x := s.queue q
  let t := BitVec.ofNat 32 v.toNat
  pokeQueue (s.setQueue q { x with tail := t, ring := x.ring.drop (t - x.tail).toNat }) q
def execQueueTailWrite (q : QSel) (v : Word) (s : State) : Outcome := .next (writeQueueTail s q v)

/-- A queue's oldest record, and the queue without it; or the line of another device in which it stands (R302). -/
inductive Popped
  | got (b : List Byte) (s : State)
  | ask (ctx va key : Nat)

/-- QPOP of a queue: zero bytes for an empty queue (R117); `lines` are lines of other devices that have been read. -/
def popQueue (s : State) (q : QSel) (lines : List (Nat × BitVec 1024)) : Popped :=
  let x := s.queue q
  let zero := List.replicate 64 (0 : Byte)
  let next := fun (s : State) => pokeQueue (s.setQueue q { s.queue q with tail := x.tail + 1, ring := x.ring.drop 1 }) q
  if x.head = x.tail then .got zero s
  else if internalRing x q then .got (x.ring.headD zero) (next s)
  else if x.size = 0 then .got zero s
  else
    match q with
    | .ev c =>
      (match engRead .load 0 c 0 lines 2 s (queueEntry x x.tail.toNat) 64 [] with
       | .got b s => .got b (next s)
       | .ask va key _ => .ask c va key
       | .fail _ => .got zero s)
    | .hv _ k => .got (memBytes s.mem (dramKey k (queueEntry x x.tail.toNat)) 64) (next s)
    | .mg => .got (memBytes s.mem (dramKey 0 (queueEntry x x.tail.toNat)) 64) (next s)

/-! ## Logs (R368, R407) -/

/-- The log of a partition on a stack, and its replacement. -/
def State.log (s : State) (part stk : Nat) (replay : Bool) : LogRegs :=
  if replay then tabGet {} (s.part part).rlog stk else tabGet {} (s.part part).dlog stk
def State.setLog (s : State) (part stk : Nat) (replay : Bool) (r : LogRegs) : State :=
  let p := s.part part
  s.setPart part (if replay then { p with rlog := tabSet p.rlog stk r } else { p with dlog := tabSet p.dlog stk r })
def logSizeOk (n : Nat) : Bool := decide (16 ≤ n) && decide (n ≤ 2 ^ 23) && decide (n = 2 ^ n.log2)

/-- LOG_CTL_WRITE: SIZE, EN and the W1C bit OVF. -/
def writeLogCtl (s : State) (part stk : Nat) (replay : Bool) (v : Word) : State :=
  let r := s.log part stk replay
  let n := bitsNat v.toNat 31 8
  let size := if logSizeOk n then BitVec.ofNat 24 n else r.size
  s.setLog part stk replay { r with size := size, en := v.getLsbD 0 && logSizeOk size.toNat, ovf := r.ovf && !v.getLsbD 1 }
def execLogCtlWrite (part stk : Nat) (replay : Bool) (v : Word) (s : State) : Outcome := .next (writeLogCtl s part stk replay v)

def writeLogBase (s : State) (part stk : Nat) (replay : Bool) (v : Word) : State :=
  s.setLog part stk replay { s.log part stk replay with base := BitVec.ofNat 64 (entryAddr v.toNat) }
/-- TAIL: entries are consumed, with their contents. -/
def writeLogTail (s : State) (part stk : Nat) (replay : Bool) (v : Word) : State :=
  let r := { s.log part stk replay with tail := BitVec.ofNat 32 v.toNat }
  lookInbox (s.setLog part stk replay { r with parts := r.parts.filter (fun p => decide ((BitVec.ofNat 32 p.1 - r.tail).toNat < (r.head - r.tail).toNat)) })
    (fun c => replay && decide ((s.ctx c).part = some part))

/-! ## Owner maps, bindings, scratch ways (R286, R332, R343, R350, R380) -/

/-- OMAP_WRITE (R332): entry 63 is ignored. -/
def writeOmap (s : State) (c n : Nat) (v : BitVec 32) : State :=
  if 63 ≤ n then s
  else
    let x := s.ctx c
    s.setCtx c { x with omap := tabPut 0 x.omap n (v &&& 0x8FFFC3FF#32) }
def execOmapWrite (ctx n : Nat) (v : BitVec 32) (s : State) : Outcome := .next (writeOmap s ctx n v)

def writePeer (s : State) (c n : Nat) (v : BitVec 32) : State :=
  let x := s.ctx c
  s.setCtx c { x with peers := tabPut 0 x.peers n (v &&& 0xEFFF03FF#32) }

/-- BINDING_WRITE (R350, R380): accepted on a plane of the partition; a change of V or GID is announced on the
plane by one GROUP message. -/
def writeBinding (s : State) (c n : Nat) (v : Word) : State :=
  let v := v &&& 0x80FF007FFFFFFFFF#64
  let old := s.binding c n
  let x := s.ctx c
  if v.getLsbD 63 && !((s.part (s.partOfCtx c)).planes.getLsbD n && x.part.isSome) then s
  else
    let x := if v.getLsbD 63 && !bindV old then resetBinding x n else x
    let s := s.setCtx c { x with binds := tabPut 0 x.binds n v }
    let p := s.plane n
    if !p.up then s
    else
      if v.getLsbD 63 = bindV old ∧ bindGid v.toNat = bindGid old then s
      else (handOver s n (s.flitOf n 8 (bindGid v.toNat) (BitVec.ofNat 512 (groupBits (v.getLsbD 63) old)))).2
-- DEDUCED, log 66 (unsafe).
def execBindingWrite (ctx plane : Nat) (v : Word) (s : State) : Outcome := .next (writeBinding s ctx plane v)

/-- PSPLIT_WRITE (R286): 0 to 16 ways; a write of another value is ignored. -/
def writePsplit (s : State) (c : Nat) (v : Word) : State :=
  if 16 < v.toNat % 32 then s else s.setCtx c { s.ctx c with psplit := BitVec.ofNat 5 v.toNat }
def execPsplitWrite (ctx : Nat) (v : Word) (s : State) : Outcome := .next (writePsplit s ctx v)

/-- SOFLG_CLEAR (R272). -/
def clearFlags (s : State) (t : TileId) (n : Nat) : State :=
  let x := s.tile t
  match tabFind x.so n with
  | some v => s.setTile t { x with so := tabSet x.so n { v with flg := {} } }
  | none => s
def execSoflgClear (t : TileId) (node : Nat) (s : State) : Outcome := .next (clearFlags s t node)

/-! ## Invalidation (R340) -/

/-- Whether an invalidation concerns a context. -/
def invCtx (s : State) (v : Nat) (c : Nat) : Bool :=
  if v.testBit 61 then decide ((s.ctx c).part = some (v % 16)) else decide (c = bitsNat v 59 50) && decide (s.partOfCtx c = v % 16)
def invPage (v : Nat) : Nat := bitsNat v 48 16 * 65536
def invStage (v : Nat) : Nat := v / 2 ^ 62 % 4
def meets (a la b lb : Nat) : Bool := decide (a < b + lb) && decide (b < a + la)

/-- Bytes that the step of a stage mapped. -/
def invSpan (v : Nat) (e : MtlbEntry) : Nat := if invStage v = 1 then e.l1 else e.l2
/-- Cached steps that an invalidation covers: those of the leaf in which the page lies. -/
def invHits (s : State) (v : Nat) (e : MtlbEntry) : Bool :=
  decide (e.part = v % 16) && (decide (invStage v = 2) || invCtx s v e.ctx) &&
  decide (invPage v / invSpan v e = (if invStage v = 1 then e.off else e.gpa) / invSpan v e)

-- DEDUCED, log 115 (unsafe).
/-- MTLBINV (R340): ignored while one is in progress; the covered steps are dropped. -/
def startInv (s : State) (stk : Nat) (v : Word) : State :=
  let x := s.stack stk
  let v := v &&& 0xEFFDFFFFFFFF000F#64
  if x.mtlbinv ≠ 0 ∨ invStage v.toNat = 0 ∨ invStage v.toNat = 3 then s
  else
    let hit := x.mtlb.filter (invHits s v.toNat)
    (s.setStack stk { x with mtlbinv := v, mtlb := x.mtlb.filter (fun e => !invHits s v.toNat e)
                             invLen := hit.foldl (fun (m : Nat) e => Nat.max m (invSpan v.toNat e)) 65536, invMports := [] }).later (.mtlbinvComplete stk)
def execMtlbinv (stk : Nat) (v : Word) (s : State) : Outcome := .next (startInv s stk v)

/-- The page under invalidation, at the length that the step mapped. -/
def invBase (x : Stack) : Nat := invPage x.mtlbinv.toNat / x.invLen * x.invLen

/-- A registration of a live firing or command holds a page that the step mapped; one of a saved firing does not keep it. -/
def invHeld (s : State) (stk : Nat) : Bool :=
  let x := s.stack stk
  let v := x.mtlbinv.toNat
  x.regs.any (fun r => (match r.holder with | .inst _ => false | .saved _ _ _ => false | _ => true) && (decide (invStage v = 2) || invCtx s v r.ctx) &&
    decide (s.partOfCtx r.ctx = v % 16) &&
    r.pages.any (fun p => meets (invBase x) x.invLen (if invStage v = 1 then p.va % 2 ^ 49 else p.gpa) p.len))

/-- The MPORTs of this device whose latch covers the page. -/
def invLatches (s : State) (stk : Nat) : List (TileId × Nat × Nat) :=
  let x := s.stack stk
  let v := x.mtlbinv.toNat
  s.tiles.flatMap (fun p =>
    match p.2.inst.bind s.inst? with
    | none => []
    | some i =>
      if !invCtx s (if invStage v = 2 then Nat.lor v (2 ^ 61) else v) i.ctx then []
      else p.2.so.flatMap (fun n => (n.2.latches.filter (fun l =>
        decide (l.dev = s.dev) && decide (l.stk = stk) &&
        meets (invBase x) x.invLen (if invStage v = 1 then l.off else l.gpa) l.size)).map (fun l => (tileOfKey p.1, n.1, l.va))))

def relatchAct (q : TileId × Nat × Nat) : Act := .relatch q.1 q.2.1 (BitVec.ofNat 64 q.2.2) 0
/-- An MPORT has not answered the RELATCH that went to it; one that is saved need not (R265). -/
def owesRelatch (s : State) (q : TileId × Nat × Nat) : Bool :=
  s.acts.contains (relatchAct q) || ((s.tile q.1).soOf q.2.1).relatches.any (fun r => decide (r.1.toNat = q.2.2))

/-- MTLBINV_COMPLETE (R340): no registration holds the page; RELATCH goes to the MPORTs, and when all of them have answered the register
reads 0. -/
def finishInv (stk : Nat) (s : State) : State :=
  let x := s.stack stk
  if x.mtlbinv = 0 then s
  else
    let l := if x.invMports.isEmpty then invLatches s stk else []
    if !x.invMports.isEmpty && x.invMports.any (owesRelatch s) then s
    else if x.invMports.isEmpty && invHeld s stk then s
    else if l.isEmpty then s.setStack stk { x with mtlbinv := 0, invLen := 65536, invMports := [] }
    else (s.setStack stk { x with invMports := l }).laterAll (l.map relatchAct)
def execMtlbinvComplete (stk : Nat) (s : State) : Outcome := .next (finishInv stk s)

/-! ## Debug control (R405) -/

def State.setDbg (s : State) (t : TileId) (d : DbgState) : State := s.setTile t { s.tile t with dbg := d }

/-- DBGCTL HALT. -/
def dbgHalt (t : TileId) (s : State) : State :=
  let d := (s.tile t).dbg
  if d.halt then s else (s.setDbg t { d with halt := true, halted := false }).later (.haltPoint t)
def execDbgctlHalt (t : TileId) (s : State) : Outcome := .next (dbgHalt t s)

/-- DBGCTL with HALT cleared: the tile goes on; not after a thermal stop (R418). -/
def dbgResume (t : TileId) (s : State) : State :=
  let d := (s.tile t).dbg
  if !d.halt || s.trip then s else (wakeTile (s.setDbg t { d with halt := false, halted := false, step := false }) t).later (.resourceGrant t)
def execDbgctlResume (t : TileId) (s : State) : Outcome := .next (dbgResume t s)

/-- STEP written 1 while halted: the oldest READY firing may issue one word. -/
def dbgStep (t : TileId) (s : State) : State :=
  let x := s.tile t
  if x.dbg.halt && x.dbg.halted && x.firings.any (fun f => decide (f.st = .ready) || decide (f.st = .running)) then
    s.setDbg t { x.dbg with step := true, halted := false }
  else s
-- DEDUCED, log 116 (unsafe).
def execDbgctlStep (t : TileId) (s : State) : Outcome := .next (dbgStep t s)

-- DESIGN CHOICE, log 155 (unsafe).
/-- A write of DBGCTL. -/
def writeDbg (s : State) (t : TileId) (v : Word) : State :=
  let d := (s.tile t).dbg
  let s := s.setDbg t { d with brken := v.getLsbD 2 }
  let s := if v.getLsbD 1 && v.getLsbD 0 then dbgStep t s else s
  if v.getLsbD 0 then dbgHalt t s else dbgResume t s

/-! ## Vertical buses: the slow bank table and retests that are due (R397, R398) -/

def retestBit : BitVec 32 := 0x20000000#32
def retestPending (v : BitVec 32) : Bool := v.getLsbD 29

/-- The VBEV record (R403). -/
def vbevRecord (s : State) (stk bus : Nat) (after before : BitVec 32) (cause : Nat) : Nat :=
  recHeader s 8 0 { tile := { stk := stk, x := 0, y := 0 }, entry := none, ctx := 0 } + fld 8 8 (s.cyc stk) +
  fld 0x10 1 bus + fld 0x14 4 after.toNat + fld 0x18 4 before.toNat + fld 0x1C 1 cause

/-- An SBT entry takes a value: a change posts a VBEV record (R397). -/
def setSbt (s : State) (stk bus : Nat) (v : BitVec 32) (cause : Nat) : State :=
  let x := tabGet {} s.buses (stk * 128 + bus)
  if x.sbt = v then s
  else ({ s with buses := tabSet s.buses (stk * 128 + bus) { x with sbt := v } }).post .mg (vbevRecord s stk bus v x.sbt cause)

def distance (a b : Nat) : Nat := (a - b) + (b - a)
/-- Cycles of 10 ms. -/
def forceCycles : Nat := 15000000

/-- A bus that has moved out of its window sets RETEST, and is retested at the latest after 10 ms. -/
def swingBus (stk : Nat) (s : State) (bus : Nat) : State :=
  let x := tabGet {} s.buses (stk * 128 + bus)
  if retestPending x.sbt || decide (distance (s.stack stk).temp x.temp ≤ (s.stack stk).tempwin.toNat) then s
  else
    (setSbt { s with buses := tabSet s.buses (stk * 128 + bus) { x with since := (s.stack stk).cyc } } stk bus (x.sbt ||| retestBit) 2).rearm
      stk ((s.stack stk).cyc + forceCycles) (.vbRetestForced stk bus)
def swingBuses (stk : Nat) (s : State) : State := (List.range 128).foldl (swingBus stk) s

/-! ## Writes -/

/-- CAP: 500 to 3000 W. -/
def writeCap (s : State) (v : Nat) : State := if 500 ≤ v % 4096 ∧ v % 4096 ≤ 3000 then { s with powercap := BitVec.ofNat 12 v } else s

/-- PARTPRM: each field within its range. -/
def writeParm (s : State) (p : Nat) (v : Nat) : State :=
  let x := s.part p
  let r := v / 2 ^ 32 % 2 ^ 32
  let w := v % 32
  s.setPart p { x with remto := if 1500 ≤ r then BitVec.ofNat 32 r else x.remto, wdlog := if 10 ≤ w then BitVec.ofNat 5 w else x.wdlog }

/-- DEVID (R421): written once. -/
def setDevid (s : State) (v : Word) : State :=
  if s.devid.getLsbD 12 then s else { s with devid := BitVec.ofNat 13 (2 ^ 12 + v.toNat % 2 ^ 12) }

def rootMask (v : Word) : Word := v &&& 0x0001FFFFFFFF0001#64

/-- A save area may have room now (R359). -/
def afterCarv (s : State) : State := retrySaves s

def MReg.write (s : State) (v : Word) : MReg → State
  | .powercap => writeCap s v.toNat
  | .pwrstat => powerChange s { s with throttled := s.throttled && !v.getLsbD 0 }
  | .tempwin k => if v.toNat % 256 = 0 then s else swingBuses k (s.setStack k { s.stack k with tempwin := BitVec.ofNat 8 v.toNat })
  | .templim => powerChange s ((List.range 4).foldl checkLimit { s with templim := BitVec.ofNat 8 v.toNat })
  | .devid => setDevid s v
  | .qbase q => writeQueueBase s q v
  | .qctl q => writeQueueCtl s q v
  | .qtail q => writeQueueTail s q v
  | .ecc _ => s
  | .sbt _ _ => s
  | .mtlbinv k => startInv s k v
  | .s2root p k => s.setPart p { s.part p with s2root := tabPut 0 (s.part p).s2root k (rootMask v) }
  | .carvbase p k => afterCarv (s.setPart p { s.part p with carvbase := tabPut 0 (s.part p).carvbase k (rootMask v) })
  | .carvsize p k => afterCarv (s.setPart p { s.part p with carvsize := tabPut 0 (s.part p).carvsize k (v &&& 0xFFFFFFFF#64) })
  | .dlogbase p k => writeLogBase s p k false v
  | .dlogctl p k => writeLogCtl s p k false v
  | .dlogtail p k => writeLogTail s p k false v
  | .rlogbase p k => writeLogBase s p k true v
  | .rlogctl p k => writeLogCtl s p k true v
  | .rlogtail p k => writeLogTail s p k true v
  | .dlogctx p k n => s.setPart p { s.part p with dlogctx := tabPut 0 (s.part p).dlogctx (k * 16 + n) v }
  | .partprm p => writeParm s p v.toNat
  | .dbgctl t => writeDbg s t v
  | .soflg t n => clearFlags s t n
  | .psplit c => writePsplit s c v
  | .omap c n => writeOmap s c n (v.setWidth 32)
  | .peer c n => writePeer s c n (v.setWidth 32)
  | .binding c n => writeBinding s c n v
  | .s1root c k => s.setCtx c { s.ctx c with s1root := tabPut 0 (s.ctx c).s1root k (rootMask v) }

/-- A write of a management register (R117, R419): an address that names none is ignored. -/
def mregWrite (s : State) (a : Nat) (v : Word) : State := match mregOf a with | some r => r.write s v | none => s
def execRegisterWrite (addr : Nat) (v : Word) (s : State) : Outcome := .next (mregWrite s addr v)

end Sys2Proof.Machine
end

