-- ==== Sys2Proof/Machine/CtlForms.lean ====
section
/-! DEFINITION. The peers of a context that moved here (R375 to R377), and the forms of OP 0x39 (R117 to R119, R329, R330, R365 to
R367, R378): configurations, queues, management registers, contexts and partitions. They run in the control column alone. -/

namespace Sys2Proof.Machine

/-! ## Peers are repointed (R375 to R377) -/

/-- Cells of a range of keys, by place in it. -/
def cellsIn (m : List Host.Cell) (k n : Nat) : List (Nat × Byte) :=
  m.filterMap (fun (c : Nat × Byte) => if k ≤ c.1 ∧ c.1 < k + n then some (c.1 - k, c.2) else none)

/-- Some page of a table is still absent. -/
def anyAbsent (m : List Host.Cell) (stk : Nat) : Nat → Nat → Bool
  | 0, _ => false
  | n + 1, t =>
    let k := dramKey stk t
    (((cellsIn m k 65536).map (fun c => c.1 / 8)).eraseDups).any (fun i =>
      match readEntry 2 (3 - n) (memNat m (k + 8 * i) 8) with
      | .err 3 _ => true
      | .table t' => anyAbsent m stk n t'
      | _ => false)

/-- The context of a partition that was restored from another device's image, and where it came from. -/
def movedCtx (s : State) (part : Nat) : Option (Nat × Nat × Nat) :=
  s.ctxs.findSome? (fun c => if c.2.part = some part then c.2.origin.map (fun o => (c.1, o.1, o.2)) else none)

/-- Planes on which the context is bound, ascending, each with the peers it reaches that no earlier one does; and the peers left. -/
def coverPeers (s : State) (c : Nat) : List Nat → List Nat → List (Nat × List Nat) × List Nat
  | [], peers => ([], peers)
  | n :: l, peers =>
    let p := s.plane n
    let hit := if p.up && bindV (s.binding c n) then peers.filter (fun d => p.ring.contains d) else []
    let r := coverPeers s c l (peers.filter (fun d => !hit.contains d))
    (if hit.isEmpty then r.1 else (n, hit) :: r.1, r.2)

-- DESIGN CHOICE, log 58 (unsafe).
/-- A REPOINT goes out: on a plane, or to one peer by message. -/
def sendRepoint (s : State) (n dev : Nat) (r : Repoint) : State :=
  if n < 8 then (handOver s n (s.flitOf n 5 0 (BitVec.ofNat 512 (repointBits r)))).2 else s.send (.repoint dev r)

/-- The peers that a posting reaches are awaited, each with its REMTO. -/
def awaitAcks (s : State) (c n : Nat) (r : Repoint) (peers : List Nat) : State :=
  peers.foldl (fun s d =>
    let due := s.cyc r.dstk + (s.part (s.partOfCtx c)).remto.toNat
    let q : RepointSt := { ctx := c, msg := r, plane := n, peers := [d], sends := 1 }
    let s : State := { s with repoints := s.repoints ++ [q] }
    s.at_ r.dstk due (.repointTimeout d c)) s

/-- The last page is present: one plane that joins every peer, else the least planes in order and messages. -/
def repointAll (s : State) (c sdev sctx : Nat) : State :=
  let peers := peerDevs s c
  let stks := ((s.ctx c).s1root.filter (fun q => q.2.getLsbD 0)).map (fun q => q.1)
  let one := (List.range 8).find? (fun n => (s.plane n).up && bindV (s.binding c n) && peers.all (fun d => (s.plane n).ring.contains d))
  let cover := match one with
    | some n => if peers.isEmpty then ([], []) else ([(n, peers)], [])
    | none => coverPeers s c (List.range 8) peers
  stks.foldl (fun s k =>
    let r : Repoint := { sdev := sdev, sstk := k, sctx := sctx, ddev := s.dev, dstk := k, dctx := c }
    let s := cover.1.foldl (fun s p => awaitAcks (sendRepoint s p.1 0 r) c p.1 r p.2) s
    cover.2.foldl (fun s d => awaitAcks (sendRepoint s 8 d r) c 8 r [d]) s) s

/-- REPOINT_TIMEOUT (R377): sent again, three times in all; then a record at the destination. -/
def repointTimeout (peer ctx : Nat) (s : State) : State :=
  match s.repoints.find? (fun q => decide (q.ctx = ctx) && decide (q.msg.ddev = s.dev) && q.peers.contains peer && decide (q.sends < 4)) with
  | none => s
  | some q =>
    let s : State := { s with repoints := s.repoints.map (fun x => if x = q then { q with sends := q.sends + 1 } else x) }
    if 3 ≤ q.sends then partRecord s (s.partOfCtx ctx) q.msg.dstk ctx 5 ctx
    else (sendRepoint s q.plane peer q.msg).at_ q.msg.dstk (s.cyc q.msg.dstk + (s.part (s.partOfCtx ctx)).remto.toNat) (.repointTimeout peer ctx)
def execRepointTimeout (peer ctx : Nat) (s : State) : Outcome := .next (repointTimeout peer ctx s)

/-- Once the last page of a context that moved here is present, its peers are repointed (R375). -/
def movedWhole (s : State) (part : Nat) : State :=
  match movedCtx s part with
  | none => s
  | some (c, d, o) =>
    let left := (List.range 4).any (fun j =>
      let r := (tabGet 0 (s.part part).s2root j).toNat
      r.testBit 0 && anyAbsent s.mem j 3 (entryAddr r))
    if left || s.repoints.any (fun q => decide (q.ctx = c) && decide (q.msg.ddev = s.dev)) then s else repointAll s c d o

/-! ## The control region's forms -/

/-- Outside the control region every word of OP 0x39 is ILLEGAL (R117). -/
def ctlOk (_ : State) (t : TileId) (_ : Firing) : Bool := isControl t

/-- A request of 64 bytes: a multiple of 64, else ALIGN. The address is a physical one on the issuing stack: the forms meet no
translation fault (R120). -/
def request (s : State) (t : TileId) (f : Firing) (src : BitVec 10) : Ex (List Byte) :=
  let a := (f.slot src.toNat).toNat
  do
    unless_ (a % 64 == 0) .align (vaDetail a)
    pure (memBytes s.mem (dramKey t.stk a) 64)

/-- A form that writes a status to D at once. -/
def runCtl (g : BitVec 4) (d : BitVec 10) (slots : List Nat) (body : State → TileId → Firing → Ex (Nat × State)) (s : State) : Outcome :=
  issue g .plain ctlOk (fun s t f => do
    need f (sl d ++ slots)
    let r ← body s t f
    pure { s := r.2, f := f.setSlot d.toNat (BitVec.ofNat 64 r.1) }) s

/-- A form whose answer may come later: none leaves D to the step that lands the request. -/
def runWait (g : BitVec 4) (d : BitVec 10) (slots : List Nat) (req : Firing → Nat) (body : State → TileId → Firing → Ex (Option Nat × State))
    (s : State) : Outcome :=
  issue g .plain ctlOk (fun s t f => do
    need f (sl d ++ slots)
    let r ← body s t f
    match r.1 with
    | some v => pure { s := r.2, f := f.setSlot d.toNat (BitVec.ofNat 64 v) }
    | none => pure { s := r.2, f := { f with pend := f.pend ++ [{ src := .system (req f), d := d.toNat, n := 1, how := .zext 8 }] } }) s

/-! ## CFGLD and CFGSV (R117, R118) -/

structure CfgReq where
  key : List Byte
  ctx : Nat
  stk : Nat
  ox  : Nat
  oy  : Nat
  w   : Nat
  h   : Nat
  buf : Nat
  deriving DecidableEq, Repr

-- DEDUCED, log 118 (unsafe).
def readCfgReq (b : List Byte) : CfgReq :=
  { key := b.take 32, ctx := leField b 0x20 2, stk := byteAt b 0x22, ox := byteAt b 0x23, oy := byteAt b 0x24, w := byteAt b 0x25
    h := byteAt b 0x26, buf := leField b 0x28 8 }
def cfgReqOk (b : List Byte) (q : CfgReq) : Bool :=
  bytesZero b 0x27 1 && bytesZero b 0x30 16 && decide (q.ctx < 1024) && decide (q.stk ≤ 3) && decide (1 ≤ q.ox) && decide (q.ox ≤ 16) &&
  decide (q.oy ≤ 15) && decide (1 ≤ q.w) && decide (q.w ≤ 16) && decide (1 ≤ q.h) && decide (q.h ≤ 16)

/-- A tile of a rectangle is occupied, defective or outside the user columns. -/
def rectBusy (s : State) (b : Box) : Bool :=
  decide (16 < b.2.1 + b.2.2.2.1 - 1) || decide (16 < b.2.2.1 + b.2.2.2.2) || (liveInsts s).any (fun i => boxMeets i.box b) ||
  (boxTiles b).any (defective s)

/-- A context's bytes on their way to memory, line by line, as writes of a control firing. -/
def ctxWriteAll (ctx : Nat) (t : TileId) (fid : Nat) : Nat → State → Nat → List Byte → Except FInfo State
  | 0, s, _, _ => .ok s
  | n + 1, s, va, b =>
    if b.isEmpty then .ok s
    else
      let m := 128 - va % 128
      match ctxWrite s ctx va (b.take m) (.publish t fid 0) none with
      | .error e => .error e
      | .ok (_, s) => ctxWriteAll ctx t fid n s (va + m) (b.drop m)

/-- A context's bytes, or the line of another device that is to be read first. -/
inductive CtxBytes
  | got (b : List Byte)
  | ask (va key : Nat)
  | fail
def ctxBytes (s : State) (ctx va n : Nat) (lines : List (Nat × BitVec 1024)) : CtxBytes :=
  match engRead .load 0 ctx 0 lines (n / 128 + 2) s va n [] with
  | .got b _ => .got b
  | .ask va key _ => .ask va key
  | .fail _ => .fail
/-- The image that stands at a buffer of a context. -/
def bufImage (s : State) (ctx va : Nat) (lines : List (Nat × BitVec 1024)) : CtxBytes :=
  match ctxBytes s ctx va 256 lines with
  | .got b => if imageAccepted b then ctxBytes s ctx va (leField b 0x30 8) lines else .got b
  | r => r

/-- A control form asks another device for a line, and issues again with it. -/
def askLine (s : State) (t : TileId) (f : Firing) (ctx va key : Nat) : Done :=
  let (rid, s) := sendRemote s 0 ctx va key (.fill t f.id) { req := { blankReq with kind := .load, size := 128 } } f.resend
  { s := s, f := { f with wait := .remote rid, resend := none }, moved := true }

/-- The configuration enters the rectangle; its sources wait for a launch (R224). -/
def cfgPlace (s : State) (q : CfgReq) (c : PlacedCfg) : State :=
  let (id, s) := s.fresh
  let i : Inst := { id := id, lid := 0, ctx := q.ctx, part := s.partOfCtx q.ctx, stk := q.stk, ox := q.ox, oy := q.oy, w := q.w, h := q.h
                    cfg := c.key, coords := [], levels := [], argp := 0, sways := (s.ctx q.ctx).psplit.toNat, armed := false
                    halting := false, saved := false, wd := s.cyc q.stk, holds := [], qstart := 0, ntags := 1, binding := 0
                    resident := false, resid := 0 }
  let s : State := { s with insts := s.insts ++ [i] }
  let s := convertBanks s q.stk i.banks (some (q.ctx, i.sways))
  let s := cacheTouch (placeTiles s i c) q.stk c.key
  i.rect.foldl (fun s t => s.setTile t { s.tile t with sources := [] }) s

/-- A saved state fits the request: one instance of the configuration, in its shape. -/
def cfgFits (q : CfgReq) (c : PlacedCfg) (m : SavedInst) : Bool :=
  decide (m.inst.w = q.w) && decide (m.inst.h = q.h) && decide (m.ghash = c.hash)
/-- The saved instance at its place in the rectangle. -/
def cfgInst (s : State) (q : CfgReq) (c : PlacedCfg) (m : SavedInst) : Inst × State :=
  let (id, s) := s.fresh
  let i : Inst := { m.inst with id := id, lid := 0, ctx := q.ctx, part := s.partOfCtx q.ctx, stk := q.stk, ox := q.ox, oy := q.oy, cfg := c.key
                                saved := true, levels := m.inst.levels }
  (i, convertBanks { s with insts := s.insts ++ [i] } q.stk i.banks (some (q.ctx, i.sways)))
/-- The saved state enters the rectangle; none where a registration waits for another's window or for a page. -/
def cfgBack (s : State) (q : CfgReq) (c : PlacedCfg) (src : Nat) (m : SavedInst) : Option State :=
  let (i, s) := cfgInst s q c m
  (restoreAll s [(i, src, m)]).map (restoreGo q.ctx 0)
/-- Pages that it waits for are pulled first (R371). -/
def cfgPulls (s : State) (q : CfgReq) (c : PlacedCfg) (m : SavedInst) : State :=
  let (i, s') := cfgInst s q c m
  (restorePulls (winClaims s' m i)).foldl (fun s p => startPull s (some p)) s

/-- What CFGLD does: a status, a line to read first, or a wait. -/
inductive CfgRes
  | done (v : Nat) (s : State)
  | ask (ctx va key : Nat)
  | pull (s : State)
  | wait

/-- CFGLD (R118, R365); with BUF, the state that stands there. -/
def cfgLoad (s : State) (b : List Byte) (lines : List (Nat × BitVec 1024)) : CfgRes :=
  let q := readCfgReq b
  if !cfgReqOk b q then .done 6 s
  else
    match (tabGet [] s.cache q.stk).find? (fun c => decide (c.key = q.key)) with
    | none => .done 4 s
    | some c =>
      if c.w ≠ q.w ∨ c.h ≠ q.h then .done 6 s
      else if rectBusy s (q.stk, q.ox, q.oy, q.w, q.h) then .done 5 s
      else if q.buf = 0 then .done 0 (cfgPlace s q c)
      else
        match bufImage s q.ctx q.buf lines with
        | .ask va key => .ask q.ctx va key
        | .fail => .done 6 (partRecord s (s.partOfCtx q.ctx) q.stk q.ctx 2 q.ctx)
        | .got b =>
          match readImage b with
          | none => .done 6 (partRecord s (s.partOfCtx q.ctx) q.stk q.ctx 2 q.ctx)
          | some d =>
            match d.insts with
            | [m] => if !cfgFits q c m then .done 6 s
                     else
                       match cfgBack s q c d.src m with
                       | some s => .done 0 s
                       | none => let s' := cfgPulls s q c m; if s'.pulls.length = s.pulls.length then .wait else .pull s'
            | _ => .done 6 s

/-- CFGSV: the configuration-span state of the rectangle, as an image at BUF. -/
def cfgSave (s : State) (t : TileId) (fid : Nat) (b : List Byte) : Nat × State :=
  let q := readCfgReq b
  if !cfgReqOk b q then (6, s)
  else if !(tabGet [] s.cache q.stk).any (fun c => decide (c.key = q.key)) then (4, s)
  else
    match (liveInsts s).find? (fun i => decide (i.box = (q.stk, q.ox, q.oy, q.w, q.h)) && decide (i.ctx = q.ctx) && decide (i.cfg = q.key)) with
    | none => (6, s)
    | some i =>
      let bytes := imageBytes (imageData s q.ctx i.part q.stk (s.launch? i.ctx i.lid).toList [snapshot s i] none)
      match ctxWriteAll q.ctx t fid (bytes.length / 128 + 2) s q.buf bytes with
      | .error _ => (6, s)
      | .ok s => (0, s)

/-- CFGLD. -/
def execCfgld (o : DS) (s : State) : Outcome :=
  issue o.g .plain ctlOk (fun s t f => do
    need f (sl o.d ++ sl o.s)
    let b ← request s t f o.s
    match cfgLoad s b f.fetched with
    | .done v s => pure { s := s, f := f.setSlot o.d.toNat (BitVec.ofNat 64 v) }
    | .ask c va key => pure (askLine s t f c va key)
    | .pull s => pure { s := s, f := f, moved := true }
    | .wait => hold) s
/-- CFGSV. -/
def execCfgsv (o : DS) (s : State) : Outcome :=
  runCtl o.g o.d (sl o.s) (fun s t f => do let b ← request s t f o.s; pure (cfgSave s t f.id b)) s

/-! ## QPOP, MMRD, MMWR (R117) -/

/-- The oldest entry of a launch queue leaves it: the first 64 bytes of its record. -/
def popLaunch (s : State) (ctx q : Nat) : List Byte × State :=
  match ((tabGet [] (s.ctx ctx).queues q).head?).bind (fun lid => s.launch? ctx lid) with
  | none => (List.replicate 64 (0 : Byte), s)
  | some l =>
    let s := leaveQueue s l
    let s : State := { s with launches := s.launches.filter (fun x => !(decide (x.ctx = ctx) && decide (x.lid = l.lid))) }
    ((recordBytes l).take 64, s.later (.launchEligible ctx q))

-- DEDUCED, log 114 (unsafe).
/-- The queue that a selector names, on the issuing stack. -/
def popSelected (s : State) (stk sel : Nat) (lines : List (Nat × BitVec 1024)) : Popped :=
  let n := sel % 4096
  match sel / 4096 % 16 with
  | 0 => let r := popLaunch s (n / 4) (n % 4); .got r.1 r.2
  | 1 => popQueue s (.ev (n % 1024)) lines
  | 2 => popQueue s (.hv (n % 16) stk) lines
  | 3 => popQueue s .mg lines
  | _ => .got (List.replicate 64 (0 : Byte)) s

/-- QPOP. -/
def execQpop (o : QPOPo) (s : State) : Outcome :=
  issue o.g .plain ctlOk (fun s t f => do
    need f (octSlots o.q ++ sl o.s)
    match popSelected s t.stk ((f.slot o.s.toNat).toNat % 65536) f.fetched with
    | .got b s => pure { s := s, f := f.setOctet o.q (wordOfBytes b) }
    | .ask c va key => pure (askLine s t f c va key)) s
/-- MMRD. -/
def execMmrd (o : DS) (s : State) : Outcome :=
  runCtl o.g o.d (sl o.s) (fun s _ f => pure ((mregRead s ((f.slot o.s.toNat).toNat % 2 ^ 32)).toNat, s)) s
/-- MMWR: the register takes its value, then the program counter moves. -/
def execMmwr (o : MMWRo) (s : State) : Outcome :=
  issue o.g .plain ctlOk (fun s t f => do
    need f (sl o.s ++ sl o.t)
    let s := mregWrite s ((f.slot o.s.toNat).toNat % 2 ^ 32) (f.slot o.t.toNat)
    pure { s := s, f := (s.firing? t f.id).getD f }) s

/-! ## CTXCTL (R119) -/

/-- S[9:0], T[3:0]. -/
def ctlCtx (o : DST) (f : Firing) : Nat := (f.slot o.s.toNat).toNat % 1024
def ctlOp (o : DST) (f : Firing) : Nat := (f.slot o.t.toNat).toNat % 16

def launchesOf (s : State) (c : Nat) : List Launch := s.launches.filter (fun l => decide (l.ctx = c))
/-- A launch that holds tiles. -/
def Launch.placedNow (l : Launch) : Bool := decide (l.st = .admitted) || decide (l.st = .running) || decide (l.st = .halting)

-- DEDUCED, log 119 (unsafe).
/-- QUERY: 0 free, 1 idle, 2 running, 3 halted. -/
def ctxQuery (s : State) (c : Nat) : Nat :=
  let x := s.ctx c
  if x.part.isNone then 0 else if x.halted then 3 else if (launchesOf s c).any Launch.placedNow then 2 else 1

/-- ENABLE (R119, R326): saved launches that are held are candidates again. -/
def ctxEnable (s : State) (c : Nat) : State :=
  let s := s.setCtx c { s.ctx c with enabled := true, halted := false }
  let s : State := { s with launches := s.launches.map (fun l => if l.ctx = c ∧ l.st = .saved then { l with held := none } else l) }
  ((retryQueues (dropImages s) c).later .arbitrationPass).later (.restore c 0)

/-- HALT (R119, R359): every configuration is pre-empted, also one that no launch placed; the answer waits for the image. -/
def ctxHalt (s : State) (c : Nat) : Option Nat × State :=
  let x := s.ctx c
  if x.part.isNone || x.halted then (some 0, s)
  else
    let s := s.setCtx c { x with halting := true }
    let s : State := { s with launches := s.launches.map (fun l =>
      if l.ctx = c then { l with reserved := [], chosen := [], st := if l.st = .reserved then .eligible else l.st } else l) }
    let s := (launchesOf s c).foldl (fun s l => preempt s c l.lid none) s
    let s := (s.insts.filter (fun i => decide (i.ctx = c) && decide (i.lid = 0) && !i.saved && !i.resident)).foldl askHalt s
    (none, s.later (.imageSave c 0))

/-- Records of an event queue that can be written are written; the others go to the management queue. -/
def flushEvents (c : Nat) : Nat → State → State
  | 0, s =>
    let x := s.ctx c
    let s := s.setCtx c { x with evq := { x.evq with waiting := [] } }
    let s : State := { s with mgq := { s.mgq with waiting := s.mgq.waiting ++ x.evq.waiting } }
    s.laterAll (x.evq.waiting.map (fun _ => Act.recordPost .mg))
  | n + 1, s => flushEvents c n (recordPost (.ev c) s)

/-- Dirty logging of a context ends on every stack, or begins on some (R3, R368). -/
def setDlog (s : State) (c : Nat) (stks : List Nat) (on : Bool) : State :=
  let part := s.partOfCtx c
  stks.foldl (fun s k =>
    let p := s.part part
    let n := k * 16 + c / 64
    let v := tabGet 0 p.dlogctx n
    let b : Word := BitVec.ofNat 64 (2 ^ (c % 64))
    s.setPart part { p with dlogctx := tabPut 0 p.dlogctx n (if on then v ||| b else v &&& ~~~b) }) s

/-- RESET (R119): completions in the order of the queues, then by age; then the context's state is gone. Host launches that wait in the
transport are refused. -/
def ctxReset (s : State) (c : Nat) : Nat × State :=
  if !(s.ctx c).halted then (1, s)
  else
    let ls := ctxLaunches s c
    let s := ls.foldl (fun s l =>
      postCompletion s c l.lid l.cevid l.saves l.admitted (if l.held = some .deadlock then .deadlock else .killed)) s
    let s := flushEvents c ((s.ctx c).evq.waiting.length) s
    let s := (s.ctx c).inbox.foldl (fun s _ => s.send (.host c 1 [])) s
    let s := setDlog s c (List.range 4) false
    let s := (s.insts.filter (fun i => decide (i.ctx = c) && i.saved)).foldl dropSaved s
    let s : State := { s with
      launches := s.launches.filter (fun l => l.ctx != c)
      images := (s.images.filter (fun m => decide (m.ctx ≠ c) || m.wide)).map (fun m => if m.ctx = c then { m with given := true } else m)
      remote := s.remote.filter (fun r => r.ctx != c)
      stks := s.stks.map (fun p => (p.1, { p.2 with rdc := p.2.rdc.filter (fun r => r.ctx != c), mtlb := p.2.mtlb.filter (fun e => e.ctx != c) })) }
    (0, s.setCtx c {})

/-- The OMAP rewrite of R378. -/
def rewriteOmap (dev src stks : Nat) (m : Tab (BitVec 32)) : Tab (BitVec 32) :=
  if src = dev then m
  else m.map (fun p =>
    if bitsNat p.2.toNat 27 16 = src ∧ stks.testBit (bitsNat p.2.toNat 15 14) then (p.1, (p.2 &&& 0xF000FFFF#32) ||| BitVec.ofNat 32 (dev % 4096 * 2 ^ 16)) else p)

/-- The saved instances of an image under new identities, in a context. -/
def adoptInsts (s : State) (c : Nat) (l : List SavedInst) : List Inst × State :=
  l.foldl (fun r m =>
    let (id, s) := r.2.fresh
    (r.1 ++ [{ m.inst with id := id, ctx := c, part := s.partOfCtx c }], s)) ([], s)

/-- An image of a whole context enters a context; `g` is its place (R366 step 5, R367). -/
def adoptImage (s : State) (stk c : Nat) (g : Image) (d : ImageData) : State :=
  let x := s.ctx c
  let st := d.state
  let y : Ctx := { x with omap := rewriteOmap s.dev d.src d.stks st.omap, peers := st.peers, binds := st.binds, kc := st.kc, cidx := st.cidx
                          colls := st.colls, evq := { st.evq with waiting := st.evq.waiting ++ x.evq.waiting }, queues := st.queues, done := st.done
                          nextLid := st.nextLid, halted := false, halting := false
                          origin := if d.src = s.dev then none else some (d.src, d.ctx) }
  let s := s.setCtx c y
  let s := if d.dlog then
      let s := setDlog s c (stk :: (List.range 4).filter (fun k => decide (k ≠ stk) && d.stks.testBit k)) true
      let r := s.log (s.partOfCtx c) stk false
      s.setLog (s.partOfCtx c) stk false { r with head := BitVec.ofNat 32 d.logpos }
    else s
  let (is_, s) := adoptInsts s c d.insts
  let saved := d.launches.map (fun l => { l with ctx := c, insts := (is_.filter (fun i => decide (i.lid = l.lid))).map (fun i => i.id) })
  let gone := fun (m : Image) => m.given && decide (m.stk = stk) && decide (m.addr < g.addr + g.len) && decide (g.addr < m.addr + m.len)
  { s with launches := s.launches ++ saved ++ d.pend.map (fun l => { l with ctx := c }), insts := s.insts ++ is_
           images := s.images.filter (fun m => !gone m) ++ [{ g with ctx := c, insts := is_.map (fun i => i.id) }] }

/-- RESTORE (R119, R365 to R367): the image that stands at a place in the save area of the issuing stack. -/
def ctxRestore (s : State) (stk c : Nat) (tv : Word) : Option Nat × State :=
  if bitsNat tv.toNat 63 48 ≠ 0 ∨ bitsNat tv.toNat 15 4 ≠ 0 then (some 2, s)
  else
    match (s.ctx c).part with
    | none => (some 3, s)
    | some p =>
      if !(launchesOf s c).isEmpty then (some 3, s)
      else
        let o := 65536 * bitsNat tv.toNat 47 16
        let a := entryAddr (carvBase s p stk) + o
        let len := leField (memBytes s.mem (dramKey stk a) 64) 0x30 8
        let read := if o + len ≤ carvBytes s p stk then readImage (memBytes s.mem (dramKey stk a) len) else none
        match read with
        | none => (some 1, partRecord s p stk c 2 c)
        | some d =>
          if !d.wide then (some 1, partRecord s p stk c 2 c)
          else
            let s := adoptImage s stk c { stk := stk, addr := a, len := len, ctx := c, lid := 0, wide := true, given := false, insts := [] } d
            let s := movedWhole ((retryQueues (s.later .arbitrationPass) c).later (.restore c 0)) p
            (if d.insts.isEmpty then some 0 else none, pokeQueue (dropImages s) (.ev c))

/-- CTXCTL QUERY; also the word with an operation of 6 to 15, which has no effect and answers 2. -/
def execCtxctlQuery (o : DST) (s : State) : Outcome :=
  runCtl o.g o.d (sl o.s ++ sl o.t) (fun s _ f => pure (if ctlOp o f = 0 then ctxQuery s (ctlCtx o f) else 2, s)) s
/-- CTXCTL ENABLE. -/
def execCtxctlEnable (o : DST) (s : State) : Outcome :=
  runCtl o.g o.d (sl o.s ++ sl o.t) (fun s _ f => pure (if ctlOp o f = 1 then (0, ctxEnable s (ctlCtx o f)) else (2, s))) s
/-- CTXCTL DISABLE. -/
def execCtxctlDisable (o : DST) (s : State) : Outcome :=
  runCtl o.g o.d (sl o.s ++ sl o.t) (fun s _ f =>
    let c := ctlCtx o f
    pure (if ctlOp o f = 2 then (0, s.setCtx c { s.ctx c with enabled := false }) else (2, s))) s
/-- CTXCTL HALT. -/
def execCtxctlHalt (o : DST) (s : State) : Outcome :=
  runWait o.g o.d (sl o.s ++ sl o.t) (fun f => haltReq (ctlCtx o f)) (fun s _ f => pure (if ctlOp o f = 3 then ctxHalt s (ctlCtx o f) else (some 2, s))) s
/-- CTXCTL RESET. -/
def execCtxctlReset (o : DST) (s : State) : Outcome :=
  runCtl o.g o.d (sl o.s ++ sl o.t) (fun s _ f => pure (if ctlOp o f = 4 then ctxReset s (ctlCtx o f) else (2, s))) s
/-- CTXCTL RESTORE. -/
def execCtxctlRestore (o : DST) (s : State) : Outcome :=
  runWait o.g o.d (sl o.s ++ sl o.t) (fun f => restoreReq (ctlCtx o f)) (fun s t f =>
    pure (if ctlOp o f = 5 then ctxRestore s t.stk (ctlCtx o f) (f.slot o.t.toNat) else (some 2, s))) s

/-! ## PRTCTL (R329, R330) -/

/-- The status of R329. -/
inductive PrtSt | ok | busy | conflict | req | live | state
  deriving DecidableEq, Repr
def PrtSt.num : PrtSt → Nat | .ok => 0 | .busy => 1 | .conflict => 2 | .req => 3 | .live => 4 | .state => 5

structure PrtCmd where
  opc  : Nat
  part : Nat
  bypb : Nat
  colthr : Nat
  qdef : Nat
  cols : BitVec 64
  dram : BitVec 64
  planes : BitVec 8
  links : BitVec 8
  ctx  : Nat
  deriving DecidableEq, Repr

def readPrtCmd (b : List Byte) : PrtCmd :=
  { opc := byteAt b 0, part := byteAt b 1, bypb := byteAt b 2, colthr := byteAt b 3, qdef := leField b 4 4
    cols := BitVec.ofNat 64 (leField b 8 8), dram := BitVec.ofNat 64 (leField b 0x10 8), planes := BitVec.ofNat 8 (byteAt b 0x18)
    links := BitVec.ofNat 8 (byteAt b 0x19), ctx := leField b 0x1A 2 }

/-- Start and length of a DRAM range on a stack, in units of 512 MiB. -/
def dramStart (d : BitVec 64) (k : Nat) : Nat := d.toNat / 2 ^ (16 * k) % 256
def dramLen (d : BitVec 64) (k : Nat) : Nat := d.toNat / 2 ^ (16 * k + 8) % 256

def prtCmdOk (b : List Byte) (q : PrtCmd) : Bool :=
  bytesZero b 0x1C 36 && decide (q.part ≤ 15) && decide (q.colthr ≤ 16) && decide (q.qdef ≤ 0xFFFFFFFE) && decide (q.ctx < 1024) &&
  (List.range 4).all (fun k => decide (dramStart q.dram k + dramLen q.dram k ≤ 128))

def Part.columns (p : Part) : BitVec 64 := match p.resizing with | some (_, _, _, c) => p.cols ||| c | none => p.cols
def rangesMeet (a b : BitVec 64) : Bool :=
  (List.range 4).any (fun k => meets (dramStart a k) (dramLen a k) (dramStart b k) (dramLen b k) && decide (dramLen a k ≠ 0) && decide (dramLen b k ≠ 0))
/-- A column, range or plane of another partition. -/
def prtConflict (s : State) (q : PrtCmd) : Bool :=
  s.parts.any (fun p => p.2.exist && decide (p.1 ≠ q.part) &&
    (decide (p.2.columns &&& q.cols ≠ 0) || rangesMeet p.2.dram q.dram || decide (p.2.planes &&& q.planes ≠ 0)))

/-- BYPB, COLTHR, QDEF: 0 keeps. -/
def prtParams (p : Part) (q : PrtCmd) : Part :=
  { p with bypb := if q.bypb = 0 then p.bypb else q.bypb, colthr := if q.colthr = 0 then p.colthr else q.colthr
           qdef := if q.qdef = 0 then p.qdef else q.qdef }

/-- CREATE. Without a device number no partition can be created (R421), under a status that the spec does not give. -/
def prtCreate (s : State) (b : List Byte) (q : PrtCmd) : Nat × State :=
  let p := s.part q.part
  if p.exist then (PrtSt.state.num, s)
  else if prtConflict s q then (PrtSt.conflict.num, s)
  else if !s.devid.getLsbD 12 then (1 + (Config.freeWord s.tick).toNat % 5, s)
  else
    let p := prtParams { p with bypb := 8, colthr := 16, qdef := 1024 } q
    (PrtSt.ok.num, (s.setPart q.part { p with exist := true, cols := q.cols, dram := q.dram, planes := q.planes, links := q.links, defn := b }).later .arbitrationPass)

/-- Live instances of a partition that touch a column leaving it. -/
def leavers (s : State) (part : Nat) (new : BitVec 64) : List Inst :=
  (liveInsts s).filter (fun i => decide (i.part = part) && !i.resident && (List.range i.w).any (fun k => !colOf new i.stk (i.ox + k)))

/-- RESIZE (R330): added columns are taken at once; launches on the removed ones are pre-empted. -/
def prtResize (s : State) (t : TileId) (fid : Nat) (b : List Byte) (q : PrtCmd) : Option Nat × State :=
  let p := s.part q.part
  let held := s.launches.any (fun l => decide (s.partOfCtx l.ctx = q.part) && (l.placedNow || decide (l.st = .saved)))
  if !p.exist then (some PrtSt.state.num, s)
  else if p.resizing.isSome then (some PrtSt.busy.num, s)
  else if prtConflict s q then (some PrtSt.conflict.num, s)
  else if held && (decide (p.dram ≠ q.dram) || decide (p.planes ≠ q.planes)) then (some PrtSt.live.num, s)
  else
    let s := s.setPart q.part { p with dram := q.dram, planes := q.planes, links := q.links, defn := b, resizing := some (t, fid, 0, q.cols) }
    let out := leavers s q.part q.cols
    let s := (out.filter (fun i => decide (i.lid = 0))).foldl dropInst s
    let s := out.foldl (fun s i => preempt s i.ctx i.lid none) s
    (none, (s.later .arbitrationPass).later (.resizeComplete q.part))

/-- Lines of the partition's range on a stack are written back and dropped (R288, R330). -/
def dropLines (s : State) (p : Part) (k : Nat) : State :=
  let x := s.stack k
  s.setStack k { x with dirty := x.dirty.filter (fun d => !p.owns k (d.1 % 2 ^ 49)) }

/-- RESIZE_COMPLETE (R330): nothing touches the removed columns any more. -/
def resizeDone (part : Nat) (s : State) : State :=
  let p := s.part part
  match p.resizing with
  | none => s
  | some (_, _, _, new) =>
    if !(leavers s part new).isEmpty then s
    else
      let changed := (List.range 4).filter (fun k => decide (p.cols.toNat / 2 ^ (16 * k) % 2 ^ 16 ≠ new.toNat / 2 ^ (16 * k) % 2 ^ 16))
      let s := changed.foldl (fun s k => dropLines s p k) s
      let gone := fun (k : Nat) => ((List.range 16).filter (fun c => p.cols.getLsbD (16 * k + c) && !new.getLsbD (16 * k + c))).flatMap
        (fun c => (List.range 16).map (fun y => 16 * c + y))
      let s := changed.foldl (fun s k => convertBanks s k (gone k) none) s
      let s := s.setPart part { p with cols := new, resizing := none }
      let s : State := if new &&& ~~~p.cols ≠ 0 then
          { s with launches := s.launches.map (fun l => if s.partOfCtx l.ctx = part ∧ l.held = some .noRoom then { l with held := none } else l) }
        else s
      (landSystem s (resizeReq part) 0).later .arbitrationPass
def execResizeComplete (part : Nat) (s : State) : Outcome := .next (resizeDone part s)

/-- DESTROY. -/
def prtDestroy (s : State) (q : PrtCmd) : Nat × State :=
  let p := s.part q.part
  if !p.exist then (PrtSt.state.num, s)
  else if p.resizing.isSome then (PrtSt.busy.num, s)
  else if s.ctxs.any (fun c => decide (c.2.part = some q.part)) then (PrtSt.live.num, s)
  else (PrtSt.ok.num, s.setPart q.part {})

/-- PARAM. -/
def prtParam (s : State) (q : PrtCmd) : Nat × State :=
  let p := s.part q.part
  if !p.exist then (PrtSt.state.num, s)
  else if p.resizing.isSome then (PrtSt.busy.num, s)
  else (PrtSt.ok.num, (s.setPart q.part (prtParams p q)).later .arbitrationPass)

/-- BIND. -/
def prtBind (s : State) (q : PrtCmd) : Nat × State :=
  if !(s.part q.part).exist || (s.ctx q.ctx).part.isSome then (PrtSt.state.num, s)
  else if (s.part q.part).resizing.isSome then (PrtSt.busy.num, s)
  else (PrtSt.ok.num, s.setCtx q.ctx { s.ctx q.ctx with part := some q.part })

-- DEDUCED, log 120 (unsafe).
/-- A command whose OPC is not the form's, or whose fields break R329, is refused with PRT_REQ. -/
def prtChecked (n : Nat) (b : List Byte) (r : Nat × State) (s : State) : Nat × State :=
  let q := readPrtCmd b
  if q.opc ≠ n || !prtCmdOk b q then (PrtSt.req.num, s) else r

/-- PRTCTL with OPC 1; a command with an OPC beyond 5 or of 0 is refused here. -/
def execPrtctlCreate (o : DS) (s : State) : Outcome :=
  runCtl o.g o.d (sl o.s) (fun s t f => do
    let b ← request s t f o.s
    pure (prtChecked 1 b (prtCreate s b (readPrtCmd b)) s)) s
/-- PRTCTL with OPC 2. -/
def execPrtctlResize (o : DS) (s : State) : Outcome :=
  issue o.g .plain ctlOk (fun s t f => do
    need f (sl o.d ++ sl o.s)
    let b ← request s t f o.s
    let q := readPrtCmd b
    let r := if q.opc ≠ 2 || !prtCmdOk b q then (some PrtSt.req.num, s) else prtResize s t f.id b q
    match r.1 with
    | some v => pure { s := r.2, f := f.setSlot o.d.toNat (BitVec.ofNat 64 v) }
    | none => pure { s := r.2, f := { f with pend := f.pend ++ [{ src := .system (resizeReq q.part), d := o.d.toNat, n := 1, how := .zext 8 }] } }) s
/-- PRTCTL with OPC 3. -/
def execPrtctlDestroy (o : DS) (s : State) : Outcome :=
  runCtl o.g o.d (sl o.s) (fun s t f => do
    let b ← request s t f o.s
    pure (prtChecked 3 b (prtDestroy s (readPrtCmd b)) s)) s
/-- PRTCTL with OPC 4. -/
def execPrtctlParam (o : DS) (s : State) : Outcome :=
  runCtl o.g o.d (sl o.s) (fun s t f => do
    let b ← request s t f o.s
    pure (prtChecked 4 b (prtParam s (readPrtCmd b)) s)) s
/-- PRTCTL with OPC 5. -/
def execPrtctlBind (o : DS) (s : State) : Outcome :=
  runCtl o.g o.d (sl o.s) (fun s t f => do
    let b ← request s t f o.s
    pure (prtChecked 5 b (prtBind s (readPrtCmd b)) s)) s

end Sys2Proof.Machine
end

