-- ==== Sys2Proof/Machine/Fabric.lean ====
section
/-! DEFINITION. Memory of other devices and for other devices (R343, R346, R347), CHAN binding (R344), and the migration of
pages and peers (R371 to R377, R379). -/

namespace Sys2Proof.Machine

/-! ## The owner's side (R343, R347) -/

/-- The peer list of a context holds a valid entry with a right for a source: bit 30 memory, bit 29 tokens. -/
def isPeer (s : State) (c bit dev ctx : Nat) : Bool :=
  (s.ctx c).peers.any (fun e => e.2.getLsbD 31 && e.2.getLsbD bit && decide (bitsNat e.2.toNat 27 16 = dev) &&
    decide (bitsNat e.2.toNat 9 0 = ctx))

/-- KIND of R342, and whether the access needs W (R338). -/
def homeAcc : HomeKind → AccKind × Bool
  | .load => (.load, false)
  | .ldx => (.load, false)
  | .wqry => (.load, false)
  | .bind => (.load, false)
  | .probe => (.mport, false)
  | .pflush => (.load, false)
  | .pclean => (.load, false)
  | .store => (.store, true)
  | .publish => (.store, true)
  | .pinv => (.store, true)
  | _ => (.atomic, true)


/-- Sync accesses and atomics name at most 8 bytes; lines are 128. -/
def isSync (q : HomeReq) : Bool :=
  decide (q.size ≤ 8) && (match q.kind with
    | .publish => false
    | .pinv => false
    | .pflush => false
    | .pclean => false
    | .wqry => false
    | .bind => false
    | .probe => false
    | _ => true)

/-- CAUSE, LEVEL and STAGE in the DETAIL bytes of a translation fault. -/
def xBytes (e : FInfo) : Nat × Nat × Nat := (e.detail / 2 ^ 128 % 256, e.detail / 2 ^ 136 % 256, e.detail / 2 ^ 144 % 256)

def holderOf (r : RemReq) : Holder := .remote r.srcDev r.srcStk r.srcCtx r.agent
def answer (s : State) (r : RemReq) (a : RemAns) : State := s.send (.answer r.srcDev r.srcStk r.rid a)

/-- Where a page that has left this device is now: the stub of the page, or the destination that a leaf of a halted context
names (R371, R373). -/
def pageWent (s : State) (stk part gpa ctx ddev dstk : Nat) : Option (Nat × Nat × Nat) :=
  match s.stubs.find? (fun x => decide (x.stk = stk) && decide (x.part = part) && decide (x.gpa = gpa)) with
  | some x => some (x.ddev, x.dstk, x.dctx)
  | none =>
    if (s.ctx ctx).halted then
      some (ddev, dstk, match s.stubs.find? (fun x => decide (x.part = part) && decide (x.ddev = ddev)) with | some x => x.dctx | none => ctx)
    else none

-- DEDUCED, log 49 (unsafe).
/-- A translation of the owner fails: a page that has left is a REDIRECT, one that is still to come holds the request and starts
a pull (R373); XLATE2 is recorded here, in the hypervisor queue (R342); any other fault is answered. -/
def ownerRefuses (s : State) (r : RemReq) (e : FInfo) : State :=
  match e.pull with
  | some (stk, part, gpa, d, k) =>
    (match pageWent s stk part gpa r.rctx d k with
     | some (dd, dk, dc) => s.send (.redirect r.srcDev r.srcStk r.rid dd dk dc)
     | none =>
       if (lostSource s e).isSome then answer s r .isReset
       else
       let s := startPull s e.pull
       { s with pulls := s.pulls.map (fun x =>
           if x.stk = stk ∧ x.part = part ∧ x.gpa = gpa then { x with held := x.held ++ [r] } else x) })
  | none =>
    let b := xBytes e
    let s := match e.hv with
      | some _ => postFault s r.rctx e (faultRecord s { tile := { stk := r.stk, x := 0, y := 0 }, entry := none, ctx := r.rctx } e 0 0 0 0 .none 0)
      | none => s
    answer s r (.fault e.code.num b.1 b.2.1 b.2.2)

/-- The pages of an area of the owner's address space, in ascending address; a 257th is WINDOW (R152). -/
def ownerPages (s : State) (r : RemReq) (area : List Rect) : Nat → Nat → List (Nat × XPage) → Except FInfo (List (Nat × XPage))
  | 0, cur, acc => match areaNext area cur with | none => .ok acc.reverse | some _ => .error { code := .window }
  | n + 1, cur, acc =>
    match areaNext area cur with
    | none => .ok acc.reverse
    | some b =>
      match ownerXlate s r.stk r.rctx b r.openW (r.va + (b - r.off)) AccKind.range.num with
      | .error e => .error e
      | .ok p => ownerPages s r area n (b - p.off + p.size) ((b - p.off, p) :: acc)

/-- An open of another device: registered as one of this device is (R153, R154). A replayed one that names the holder it lost to waits for
that one alone (R408). -/
def remoteOpen (s : State) (r : RemReq) : State :=
  let x := s.stack r.stk
  if x.regs.any (fun g => g.holder == holderOf r && decide (g.rid = r.rid)) then answer s r .granted
  else if x.waits.any (fun w => w.who == .remote r.srcDev r.srcStk r.srcCtx r.rid) then s
  else
    let area : List Rect := [{ base := r.off, rowb := r.rowb, pitch := r.pitch, rows := r.rows }]
    match ownerPages s r area 256 0 [] with
    | .error e => ownerRefuses s r e
    | .ok l =>
      let (wid, s) := s.fresh
      let g : Reg := { wid := wid, holder := (holderOf r), range := r.range, ctx := r.rctx, w := r.openW, area := area, pages := l.map regPage
                       closing := false, rid := r.rid }
      let uses := l.map (fun p => p.2)
      let wait := queueOpen s wid (.remote r.srcDev r.srcStk r.srcCtx r.rid) [(r.stk, g)] uses r.winner
      match firstConflict s r.stk g, r.winner with
      | some o, none => answer s r (.race (holderValue o.holder))
      | some o, some v => if holderValue o.holder = v then answer s r (.race v) else wait
      | none, some _ => wait
      | none, none => if regsFit s [(r.stk, g)] then answer (enterRegs s [(r.stk, g)] uses) r .granted else wait

/-- The end of a registration, by its notice, which follows the acknowledgement of every line (R156, R157). -/
def remoteClose (s : State) (r : RemReq) : State :=
  let x := s.stack r.stk
  let id := r.req.val.toNat
  let mine := fun (g : Reg) => g.holder == (holderOf r) && decide (g.rid = id)
  let who := WtFor.remote r.srcDev r.srcStk r.srcCtx id
  if x.regs.any mine || x.waits.any (fun w => w.who == who) then
    answer (retryOpens (s.setStack r.stk { x with regs := x.regs.filter (fun g => !mine g), waits := x.waits.filter (fun w => w.who != who) })) r (.data 0)
  else
    match ownerXlate s r.stk r.rctx r.off false r.va AccKind.range.num with
    | .error e => if e.pull.isSome then ownerRefuses s r e else answer s r (.data 0)
    | .ok _ => answer s r (.data 0)

/-- The last 256 requests of each source are kept, with their results (R347). -/
def keepServed (x : Stack) (r : RemReq) (a : RemAns) : Stack :=
  let l := x.served ++ [(r.srcDev, r.srcStk, r.rid, a)]
  let mine := l.filter (fun q => decide (q.1 = r.srcDev) && decide (q.2.1 = r.srcStk))
  match mine with
  | q :: _ => if 256 < mine.length then { x with served := l.erase q } else { x with served := l }
  | [] => { x with served := l }
def servedBefore (x : Stack) (r : RemReq) : Option RemAns :=
  (x.served.find? (fun q => decide (q.1 = r.srcDev) && decide (q.2.1 = r.srcStk) && decide (q.2.2.1 = r.rid))).map (fun q => q.2.2.2)

/-- What a probe is told of the page that it asks about: its guest address, its size, and the place in it (R263). -/
def probeAnswer (p : XPage) : RemAns := .data (BitVec.ofNat 1024 (p.gpa + p.size * 2 ^ 64 + p.off * 2 ^ 128))

/-- One access of another device, performed at its home. -/
def remoteAccess (s : State) (r : RemReq) : State :=
  let k := homeAcc r.req.kind
  let probe := decide (r.req.kind = .probe)
  match ownerXlate s r.stk r.rctx r.off (k.2 || (probe && r.openW)) r.va k.1.num with
  | .error e => ownerRefuses s r e
  | .ok p =>
    if probe then answer s r (probeAnswer p)
    else
    let s := noteUse s p
    if isSync r.req && (windowTouched s p.key).isSome then answer s r (.race 0)
    else
      match lineSound s p.key with
      | .error _ => answer s r (.fault FCode.parity.num 0 0 0)
      | .ok _ =>
        let (t, a) := homeOp s (some (holderOf r)) { r.req with addr := p.key }
        let a := if r.req.kind = .wqry then .data (BitVec.ofNat 1024 (othersAt s p.key (holderOf r))) else a
        let t := if onceOnly r.req.kind then t.setStack r.stk (keepServed (t.stack r.stk) r a) else t
        answer t r a

-- DEDUCED, log 124 (unsafe).
/-- REMOTE_REQUEST (R343, R346, R347): admitted by the peer list of the context it names; a target that has been reset refuses
until its list admits the source again. -/
def remoteRequest (r : RemReq) (s : State) : State :=
  if r.req.kind = .bind then
    answer s r (if isPeer s r.rctx 29 r.srcDev r.srcCtx then .granted else .fault FCode.perm.num 0 0 0)
  else if !isPeer s r.rctx 30 r.srcDev r.srcCtx then
    answer s r (if s.wasReset then .isReset else .fault FCode.owner.num 0 0 0)
  else if isNotice r.req then remoteClose s r
  else if r.isOpen then remoteOpen s r
  else
    match (if onceOnly r.req.kind then servedBefore (s.stack r.stk) r else none) with
    | some a => answer s r a
    | none => remoteAccess s r
def execRemoteRequest (r : RemReq) (s : State) : Outcome := .next (remoteRequest r s)

/-! ## The requester's side: failures (R342, R346) -/

def outKind (r : RemOut) : Nat :=
  match r.who with
  | .host _ => AccKind.host.num
  | .launch _ _ => AccKind.host.num
  | .shapes _ => AccKind.host.num
  | .mport _ _ _ => AccKind.mport.num
  | .cmd _ _ => AccKind.range.num
  | _ => if r.isOpen then AccKind.range.num else (homeAcc r.req.kind).1.num

def remFabric (s : State) (r : RemOut) (cause : Option Nat) : FInfo := fabricInfo s r.va (outKind r) r.rctx r.dev cause

/-- The fault that an answer brings. What the other device does not tell, the record's bytes leave free. -/
def answerFault (s : State) (r : RemOut) : RemAns → Option FInfo
  | .isReset => some (remFabric s r (some 6))
  | .race _ => some { code := .race, detail := fld 0 8 r.va + fld 8 1 ((Config.freeWord s.tick).toNat % 4) }
  | .fault c cause level stage =>
    let e := codeOf c
    let free := (Config.freeWord s.tick).toNat
    let x := xDetail r.va 0 cause level stage (outKind r) r.rctx r.dev
    some (match e with
      | .xlate => { code := .xlate, detail := x }
      | .perm => { code := .perm, detail := x }
      | .owner => { code := .owner, detail := xDetail r.va 0 free (free / 256) (free / 65536) (outKind r) r.rctx r.dev }
      | .xlate2 => { code := .xlate2, detail := x, hv := some (16, 0) }
      | .winfull => winfullInfo r.va free
      | .window => (match r.who with | .window _ _ _ => { code := .window, detail := vaDetail r.va } | _ => engineInfo 4 r.va)
      | .parity => { code := .parity, detail := unitDetail 9 free }
      | _ => remFabric s r none)
  | _ => none

def dropOut (s : State) (rid : Nat) : State := { s with remote := s.remote.filter (fun q => q.rid != rid) }
/-- A request that FABRIC leaves unacknowledged is held, to be sent again under its identifier (R347). -/
def keepOwed (s : State) (r : RemOut) : State :=
  { s with remote := s.remote.filter (fun q => q.rid != r.rid) ++ [{ r with due := 0, sent := true }] }

/-- A registration made again after a restore fails (R366): one that has lost, or found no room, is asked for again. -/
def reopenFails (s : State) (t : TileId) (fid : Nat) (q : RegFor) (r : RemOut) (e : FInfo) : State :=
  if e.code = .race ∨ e.code = .winfull then transmit { s with remote := s.remote ++ [r] } r
  else
    let (wid, s) := s.fresh
    regFails s t fid wid q { base := r.va, rowb := r.rowb, pitch := r.pitch, rows := r.rows } r.openW e

/-- The word at a firing's pc waits for a request. -/
def Firing.awaits (f : Firing) (rid : Nat) : Bool :=
  match f.wait with
  | .remote n => decide (n = rid)
  | .range l => l.contains rid
  | _ => false

/-- A word whose request fails takes the fault there. A form whose request carries an identifier goes out again under it (R347); one that
FABRIC leaves unanswered may have been performed, and so has committed. -/
def wordFails (s : State) (t : TileId) (fid : Nat) (r : RemOut) (e : FInfo) : State :=
  match s.firing? t fid with
  | none => s
  | some f =>
    let own := f.pend.find? (fun p => p.src == PendSrc.remote r.rid)
    let f := { f with pend := f.pend.filter (fun p => p.src != PendSrc.remote r.rid) }
    if r.req.kind = .wqry then
      match own with
      | some p => s.setFiring t ({ f with wait := .none }.setSlot p.d (BitVec.ofNat 64 (2 ^ 63))).advance
      | none => s
    else if f.awaits r.rid then
      let owed := decide (e.code = .fabric) && r.counted
      let s := if owed then keepOwed s r else s
      takeFault (cancelOpens s t f) t
        { f with st := .running, wait := .none, resend := if r.counted then some r.rid else f.resend
                 committed := f.committed || owed || (decide (e.code = .fabric) && r.req.kind == .pinv) } e
    else s

/-- The fault of a window's open: met by the WOPEN that waits for it, or by a registration made again after a restore. -/
def windowFails (s : State) (t : TileId) (fid n : Nat) (r : RemOut) (e : FInfo) : State :=
  match s.firing? t fid with
  | none => s
  | some f =>
    if f.awaits r.rid then wordFails s t fid r e
    else
      match tabFind f.wins n with
      | some w =>
        if w.wid ≠ r.rid then s
        else if e.code = .race ∨ e.code = .winfull then reopenFails s t fid (.window n) r e
        else reopenFails (s.setFiring t { f with wins := tabDel f.wins n }) t fid (.window n) r e
      | none => s

-- DEDUCED, log 50 (unsafe).
/-- A publication fails: its request stays, to be sent again at RESUME, and the firing meets the fault (R346, R347). -/
def publishFails (s : State) (t : TileId) (fid : Nat) (r : RemOut) (e : FInfo) : State :=
  match s.firing? t fid with
  | none => s
  | some f =>
    let s := keepOwed s r
    if f.st = .draining then takeFault s t f e else wakeTile (s.setFiring t { f with failed := some (f.failed.getD e) }) t

/-- A write of a command fails: left unacknowledged by FABRIC it is sent again when the command is reissued, and its chunk goes on; refused,
its chunk is written anew. -/
def cmdFails (s : State) (t : TileId) (id : Nat) (r : RemOut) (e : FInfo) : State :=
  match s.cmd? t id with
  | none => s
  | some c =>
    if r.isOpen then reopenFails s t c.owner (.command id) r e
    else
      let wrote := decide (r.req.kind = .publish)
      let owed := wrote && decide (e.code = .fabric)
      let s := if owed then keepOwed s r else s
      let c := { c with asked := c.asked.filter (fun q => q.1 != r.rid), acks := if wrote && !owed then c.acks - 1 else c.acks
                        sent := if wrote && !owed then none else c.sent }
      if c.pending then failCmd (s.setCmd t c) t c e else s.setCmd t c

/-- A request of an MPORT fails (R263): a refused registration stops the node, one without room is made again, a page that is not found is
latched so; an access stalls its stream, and a write that FABRIC leaves unacknowledged is sent again at RELATCH (R347). -/
def mportFails (s : State) (t : TileId) (n : Nat) (r : RemOut) (e : FInfo) : State :=
  let x := s.tile t
  let v := x.soOf n
  if r.isOpen then
    if e.code = .winfull then transmit { s with remote := s.remote ++ [r] } r
    else if e.code = .race ∨ e.code = .engine then mpRefuse (s.setSo t n { v with asked := v.asked.filter (fun q => q.1 != r.rid) }) t n r.ctx e
    else
      let hit := fun (q : Latch) => decide (q.dev = r.dev) && decide (r.va < q.va + q.size) && decide (q.va < r.va + r.rowb)
      let l := v.latches.map (fun q => if hit q then { q with why := some e } else q)
      s.setSo t n { v with asked := v.asked.filter (fun q => q.1 != r.rid), latches := l }
  else if r.req.kind = .probe then mpProbed s t n (latchOf s t r.va (.error e))
  else
    let tag := (v.cur.map (fun c => c.toNat)).getD v.mtag
    if r.req.kind ≠ .publish then mpStall s t n tag r.va e
    else if e.code = .fabric then mpStall (keepOwed s r) t n tag r.va e
    else mpStall (s.setSo t n { v with inflight := v.inflight.filter (fun q => q != r.rid), wrote := false }) t n tag r.va e

/-- A CHAN's bind has answered, or failed; with the last one the sources of its instance are armed (R344). -/
def chanBound (t : TileId) (n : Nat) (ok : Bool) (s : State) : State :=
  match (s.tile t).inst with
  | none => s
  | some i => bindDone (s.setSo t n { (s.tile t).soOf n with bound := ok }) i

/-- A request has failed: it is held no longer, and whoever waits for it meets the fault. -/
def requestFails (s : State) (r : RemOut) (e : FInfo) : State :=
  let s := dropOut s r.rid
  pumpRemote (match r.who with
  | .load t fid => wordFails s t fid r e
  | .sync t fid => wordFails s t fid r e
  | .fill t fid => wordFails s t fid r e
  | .window t fid n => windowFails s t fid n r e
  | .range t fid _ => wordFails s t fid r e
  | .publish t fid _ => publishFails s t fid r e
  | .cmd t id => cmdFails s t id r e
  | .launch c l =>
    (match s.launch? c l with
     | none => s
     | some x => if x.st = .saved then holdSaved (readFault s c e) (s.partOfCtx c) x else completeLaunch (readFault s c e) x .readfail)
  | .mport t n _ => mportFails s t n r e
  | .chan t n => chanBound t n false s
  | .prefetch _ _ => s
  | .host op => hostFails s op e
  | .pull _ _ _ => s
  | .shapes i => bindDone (readFault s r.ctx e) i
  | .record q => s.later (.recordPost q))

/-- RACE has decided an open (R153, R304): a recorded launch logs it. None where the log has no room and the open is asked for again. -/
def raceAnswered (s : State) (r : RemOut) (h : Nat) : Option State :=
  let word := fun (t : TileId) (fid obj : Nat) =>
    match s.firing? t fid with
    | some f => if f.awaits r.rid then raceDecided s f.inst (logSrc t f) obj h else some s
    | none => some s
  match r.who with
  | .window t fid n => word t fid n
  | .range t fid i => word t fid (rangeObj i)
  | .mport t n _ =>
    (match (s.tile t).inst with
     | some i => if r.isOpen then raceDecided s i (srcField { tile := t, entry := none, ctx := r.ctx }) (mportObj n) h else some s
     | none => some s)
  | _ => some s

/-! ## The requester's side: answers -/

-- DEDUCED, log 53 (safe).
/-- The scope of the acquire that a word makes. -/
def acquireOf (w : Nat) : Option Scope :=
  let on := fun (o : Order) (c : Scope) => if isAcq o then some c else none
  match decodeWord (BitVec.ofNat 64 w) with
  | .ok (.form i) =>
    (match i with
     | .lda o => on o.order o.scope
     | .ldx o => on o.order o.scope
     | .aadd o => on o.order o.scope
     | .aand o => on o.order o.scope
     | .aor o => on o.order o.scope
     | .axor o => on o.order o.scope
     | .amin o => on o.order o.scope
     | .amax o => on o.order o.scope
     | .axchg o => on o.order o.scope
     | .acas o => on o.order o.scope
     | _ => none)
  | _ => none

def ansData : RemAns → Nat
  | .data v => v.toNat
  | _ => 0

/-- The answer of a load: its line enters the data cache, its bytes the slots (R151, R293); WQRY reads what the owner's table
says (R158). -/
def loadAnswered (s : State) (t : TileId) (fid : Nat) (r : RemOut) (v : Nat) : State :=
  if r.req.kind = .wqry then
    match s.firing? t fid with
    | none => s
    | some f =>
      match f.pend.find? (fun p => p.src == PendSrc.remote r.rid) with
      | none => s
      | some p =>
        s.setFiring t ({ f with pend := f.pend.filter (fun q => q.src != PendSrc.remote r.rid), wait := .none }.setSlot p.d
          (BitVec.ofNat 64 (p.own + v * 512))).advance
  else
    (rdcFill s r.stk r.ctx r.key (BitVec.ofNat 1024 v)).later
      (.loadReturn t fid r.rid (BitVec.ofNat 512 (v / 2 ^ (8 * (r.va % 128)))))

/-- An answered request has changed its home: the firing has passed a commit point (R237). -/
def commits (q : HomeReq) (a : RemAns) : Bool :=
  match q.kind with
  | .load => false
  | .ldx => false
  | .wqry => false
  | .bind => false
  | .probe => false
  | .pflush => false
  | .pclean => false
  | .stx => decide (a ≠ .stxFail)
  | _ => true

-- DEDUCED, log 163 (unsafe).
/-- The answer of a sync access or atomic: its acquire, its result, and the word is done (R159 to R164). -/
def syncAnswered (s : State) (t : TileId) (fid : Nat) (r : RemOut) (a : RemAns) : State :=
  match s.firing? t fid with
  | none => s
  | some f =>
    if f.wait ≠ .remote r.rid then s
    else
      let s := match acquireOf (wordAt s t f.pc) with
        | some c => acqInvalidate s t.stk r.ctx c
        | none => s
      let s := if r.req.kind = .pinv then discardOwn s t fid r.key else s
      let v := if r.req.kind = .stx then (if a = .stxFail then 1 else 0) else ansData a
      let g := { f with wait := .none, pend := f.pend.filter (fun p => p.src != PendSrc.remote r.rid)
                        committed := f.committed || commits r.req a }
      let g := match f.pend.find? (fun p => p.src == PendSrc.remote r.rid) with
        | some p => landValue g p.how p.d v
        | none => g
      s.setFiring t g.advance

/-- The key of an open's base at its present owner. -/
def outKey (r : RemOut) : Nat := awayKey r.dev r.dstk r.rctx r.off
def outRect (r : RemOut) : Rect := { base := r.va, rowb := r.rowb, pitch := r.pitch, rows := r.rows }
def outAway (r : RemOut) : AwayReg := { stk := r.stk, ctx := r.ctx, key := outKey r, rid := r.rid }
/-- The lines of a granted rectangle leave the data cache of the issuing stack (R155). -/
def dropGrantedLines (s : State) (r : RemOut) : State :=
  rdcDropClaim s r.stk r.ctx (.away (awayDev r.key) (awayStk r.key) (awayCtx r.key) r.off r.openW [outRect r])

/-- A window's open is granted: to the WOPEN that waits for it, or to a window made again after a restore; else it is released. -/
def windowAnswered (s : State) (t : TileId) (fid win : Nat) (r : RemOut) : State :=
  let w : Window := { w := r.openW, base := BitVec.ofNat 64 r.va, rowb := r.rowb, pitch := r.pitch, rows := r.rows, wid := r.rid, stk := r.stk
                      remote := true, key := outKey r }
  match s.firing? t fid with
  | none => s.send (releaseMsg (outAway r))
  | some f =>
    if f.awaits r.rid then (dropGrantedLines s r).setFiring t (grantWindow f win w).advance
    else
      match tabFind f.wins win with
      | some v => if v.wid = r.rid then s.setFiring t { f with wins := tabSet f.wins win w } else s.send (releaseMsg (outAway r))
      | none => s.send (releaseMsg (outAway r))

def rangeAnswered (s : State) (t : TileId) (fid : Nat) (r : RemOut) : State :=
  match s.firing? t fid with
  | none => s.send (releaseMsg (outAway r))
  | some f =>
    if f.awaits r.rid then (dropGrantedLines s r).setFiring t (rangeGranted f r.rid [] [outAway r]) else s.send (releaseMsg (outAway r))

/-- A line fetched for the word at pc, which then issues again. -/
def fillAnswered (s : State) (t : TileId) (fid : Nat) (r : RemOut) (v : Nat) : State :=
  match s.firing? t fid with
  | none => s
  | some f =>
    if f.wait ≠ .remote r.rid then s
    else s.setFiring t { f with wait := .none, held := false, fetched := f.fetched ++ [(r.key, BitVec.ofNat 1024 v)] }

/-- A write of a command is acknowledged: with the last one a chunk counts (R356), or an OSTORE has ended. -/
def cmdAcked (s : State) (t : TileId) (c : Cmd) : State :=
  let c := { c with acks := c.acks - 1 }
  let s := s.setCmd t c
  if c.acks ≠ 0 then s
  else
    match c.kind, c.sent with
    | .ostore _ _ _ _, _ => if c.st = .running then forget (endCmd s t c .done) t c else s
    | _, some n => if c.isCopy && c.pending then chunkDone s t c n else s
    | _, none => s

def cmdAnswered (s : State) (t : TileId) (id : Nat) (r : RemOut) (v : Nat) : State :=
  match s.cmd? t id with
  | none => if r.isOpen then s.send (releaseMsg (outAway r)) else s
  | some c =>
    if r.isOpen then
      if c.st = .done then s.send (releaseMsg (outAway r)) else s.setCmd t { c with away := c.away ++ [outAway r] }
    else if r.req.kind = .publish then cmdAcked s t c
    else s.setCmd t { c with lines := (r.key, BitVec.ofNat 1024 v) :: c.lines, asked := c.asked.filter (fun q => q.1 != r.rid) }

-- DEDUCED, log 180 (unsafe).
/-- A line that a launch reads: its device list or its image (R315, R317), also of one that is saved (R363). -/
def launchAnswered (s : State) (c lid : Nat) (r : RemOut) (v : Nat) : State :=
  match s.launch? c lid with
  | none => s
  | some l =>
    let l := { l with lines := (r.key, BitVec.ofNat 1024 v) :: l.lines, asked := l.asked.filter (fun q => q.1 != r.rid) }
    let s := s.setLaunch l
    if l.st = .saved then s.later .arbitrationPass
    else
      let s := if l.devp.isSome then takeDevices s l else s
      s.later (.launchEligible c l.queue)

def mportAnswered (s : State) (t : TileId) (n : Nat) (r : RemOut) (v : Nat) : State :=
  let w := (s.tile t).soOf n
  if r.isOpen then
    (dropGrantedLines s r).setSo t n { w with asked := w.asked.filter (fun q => q.1 != r.rid), away := w.away ++ [outAway r] }
  else if r.req.kind = .probe then mpProbed s t n (latchAway r.va r.dev r.dstk r.rctx r.off v)
  else
    progress (s.setSo t n (if r.req.kind = .publish then { w with inflight := w.inflight.filter (fun q => q != r.rid) }
      else { w with lines := (r.key, BitVec.ofNat 1024 v) :: w.lines, asked := w.asked.filter (fun q => q.1 != r.rid) })) (s.tile t).inst

/-- A line that was fetched ahead fills the data cache while a window of its firing touches it (R167, R293). -/
def prefetchAnswered (s : State) (t : TileId) (fid : Nat) (r : RemOut) (v : Nat) : State :=
  match s.firing? t fid with
  | some f => if f.wins.any (fun w => w.2.touchesKey s t fid r.key) then rdcFill s r.stk r.ctx r.key (BitVec.ofNat 1024 v) else s
  | none => s

-- DEDUCED, log 54 (safe).
/-- An answer without a fault. -/
def requestDone (s : State) (r : RemOut) (a : RemAns) : State :=
  let s := dropOut s r.rid
  let v := ansData a
  pumpRemote (match r.who with
  | .load t fid => loadAnswered s t fid r v
  | .sync t fid => syncAnswered s t fid r a
  | .fill t fid => fillAnswered s t fid r v
  | .window t fid win => windowAnswered s t fid win r
  | .range t fid _ => rangeAnswered s t fid r
  | .publish t _ cid => if cid = 0 then wakeTile s t else closeAcked s cid
  | .cmd t id => cmdAnswered s t id r v
  | .launch c l => launchAnswered s c l r v
  | .mport t n _ => mportAnswered s t n r v
  | .chan t n => chanBound t n (a = .granted) s
  | .prefetch t fid => prefetchAnswered s t fid r v
  | .host op => if r.isOpen then hostGranted s op r.rid [outAway r] else hostAnswered s op r.rid r.va v
  | .pull _ _ _ => s
  | .shapes i => bindDone s i
  | .record q =>
    (match (s.queue q).waiting with
     | b :: _ => if (s.queue q).sent = some r.rid then recordWritten s q b else s
     | [] => s))

/-- MPORTs that met a page's MIGRATE fault latch it again. -/
def relatchPage (s : State) (stk part gpa : Nat) : State :=
  let hit := fun (l : Latch) => match l.why with
    | some e => (match e.pull with | some (k, p, g, _, _) => decide (k = stk) && decide (p = part) && decide (g = gpa) | none => false)
    | none => false
  s.laterAll (s.tiles.flatMap (fun p => p.2.so.flatMap (fun n =>
    (n.2.latches.filter hit).map (fun l => Act.relatch (tileOfKey p.1) n.1 (BitVec.ofNat 64 l.va) 0))))

/-- A page that was asked for has no owner any more (R374): whoever waits for it asks again, and meets FABRIC with CAUSE 6. -/
def pageLost (s : State) (x : Pull) (keep : List Pull) : State :=
  let s : State := { s with pulls := s.pulls.filter (fun y => y.rid != x.rid) ++ keep }
  let s := x.held.foldl (fun s r => answer s r .isReset) s
  relatchPage (s.laterAll (x.waiters.map (fun w => Act.requeue w.1 w.2))) x.stk x.part x.gpa

/-- REMOTE_RESPONSE (R346): an answer that no request waits for is dropped, but for the registration it may bring; a source that has been
reset answers a pull so (R374). -/
def remoteResponse (rid : Nat) (a : RemAns) (s : State) : State :=
  match s.remote.find? (fun q => decide (q.rid = rid) && q.sent) with
  | none =>
    (match s.pulls.find? (fun x => decide (x.rid = rid) && !x.lost && decide (a = .isReset)) with
     | some x => pageLost s x [{ x with held := [], waiters := [], lost := true }]
     | none => s)
  | some r =>
    match answerFault s r a, a with
    | some e, .race h =>
      (match raceAnswered s r h with
       | some s => requestFails s r e
       | none => transmit s r)
    | some e, _ => requestFails s r e
    | none, _ => requestDone s r a
def execRemoteResponse (rid : Nat) (ans : RemAns) (s : State) : Outcome := .next (remoteResponse rid ans s)

/-- An open given up is released at its owner, where the answer may still be on its way. -/
def giveUp (s : State) (r : RemOut) (cause : Option Nat) : State :=
  let s := requestFails s r (remFabric s r cause)
  if r.isOpen && r.sent then s.send (releaseMsg (outAway r)) else s

/-- REMTO_EXPIRY (R346). -/
def remtoExpiry (rid : Nat) (s : State) : State :=
  match s.remote.find? (fun q => decide (q.rid = rid) && decide (q.due ≠ 0)) with
  | none => s
  | some r => if s.cyc r.stk < r.due then s else giveUp s r none
def execRemtoExpiry (rid : Nat) (s : State) : Outcome := .next (remtoExpiry rid s)

/-- The LINK graph declares that no route to a device remains from a stack (R346). A bind that has been sent waits on (R344). -/
def routeLost (s : State) (stk dev : Nat) : State :=
  let hit := fun (r : RemOut) => decide (r.stk = stk) && decide (r.dev = dev) && (decide (r.due ≠ 0) || !r.sent) &&
    (match r.who with | .chan _ _ => false | _ => true)
  let s := (s.remote.filter hit).foldl (fun s r => giveUp s r none) s
  (s.pulls.filter (fun x => decide (x.stk = stk) && decide (x.sdev = dev) && !x.lost)).foldl (fun s x => pageLost s x []) s

/-- Every line of a page of another device leaves the data caches, for every context, when the page's owner changes (R294). -/
def dropAwayPage (s : State) (key : Nat) : State :=
  { s with stks := s.stks.map (fun p => (p.1, { p.2 with rdc := p.2.rdc.filter (fun l => !(isAway l.key && decide (l.key / 65536 = key / 65536))) })) }

-- DEDUCED, log 55 (unsafe).
/-- REDIRECT (R373): the same request, with its identifier, goes to the new owner; the page's lines leave the data cache. -/
def redirect (rid dev stk ctx : Nat) (s : State) : State :=
  match s.remote.find? (fun q => decide (q.rid = rid)) with
  | none => s
  | some r =>
    let r' := { r with dev := dev, dstk := stk, rctx := ctx }
    let s := dropAwayPage (dropAwayPage s r.key) (outKey r)
    (State.send { s with remote := s.remote.map (fun q => if q.rid = rid then r' else q) } (.request r'))
def execRedirect (rid dev stk ctx : Nat) (s : State) : Outcome := .next (redirect rid dev stk ctx s)

/-! ## CHAN binding (R344) -/

-- DESIGN CHOICE, log 153 (safe).
/-- CHAN_BIND: the far context's peer list is asked for an entry with T = 1. -/
def chanBind (t : TileId) (n : Nat) (s : State) : State :=
  let x := s.tile t
  match x.inst.bind s.inst? with
  | none => s
  | some i =>
    if !x.isChan n || decide (i.binding = 0) || s.remote.any (fun r => r.who == .chan t n) then s
    else
      let p := x.block n
      let d := bitsNat (pRoute p) 38 27
      if d = s.dev then chanBound t n (isPeer s (pFctx p) 29 s.dev i.ctx) s
      else if !routed s t.stk d then chanBound t n false s
      else
        let (rid, s) := s.fresh
        let due := s.cyc t.stk + (s.part i.part).remto.toNat
        let r : RemOut := { rid := rid, stk := t.stk, ctx := i.ctx, dev := d, dstk := 0, rctx := pFctx p, va := 0, off := 0, key := 0
                            who := .chan t n, req := { blankReq with kind := .bind }, isOpen := false, openW := false, rowb := 0, pitch := 0
                            rows := 0, due := due }
        let s : State := { s with remote := s.remote ++ [r] }
        (s.send (.chanBind d (pFctx p) i.ctx)).at_ t.stk due (.remtoExpiry rid)
def execChanBind (t : TileId) (node : Nat) (s : State) : Outcome := .next (chanBind t node s)

/-- CHAN_BIND_ANSWER. -/
def chanAnswer (t : TileId) (n : Nat) (ok : Bool) (s : State) : State :=
  match s.remote.find? (fun r => r.who == .chan t n) with
  | none => s
  | some r => pumpRemote (chanBound t n ok (dropOut s r.rid))
def execChanBindAnswer (t : TileId) (node : Nat) (ok : Bool) (s : State) : Outcome := .next (chanAnswer t node ok s)

/-! ## Pages (R372, R373, R379) -/

/-- The registrations of other devices on a page of DRAM, as they go with it. -/
def pageRegs (x : Stack) (k : Nat) : List PageReg :=
  x.regs.filterMap (fun g =>
    match g.holder, g.pages.find? (fun p => decide (p.pa = k)) with
    | .remote d st c a, some p =>
      some { dev := d, stk := st, ctx := c, agent := a, rid := g.rid, w := g.w, range := g.range, off := p.va % 2 ^ 49
             rows := g.area.map (fun q => (q.base, q.rowb, q.pitch, q.rows)) }
    | _, _ => none)

/-- A page leaves: its dirty lines are written back, every copy is dropped, and reservations and registrations on it end. -/
def dropPage (s : State) (stk k : Nat) : State :=
  let inPage := fun (a : Nat) => decide (k ≤ a) && decide (a < k + 65536)
  let keep := fun (g : Reg) => { g with pages := g.pages.filter (fun p => match g.holder with | .remote _ _ _ _ => p.pa != k | .saved _ _ _ => p.pa != k | _ => true) }
  let s : State := { s with stks := s.stks.map (fun q => (q.1, { q.2 with
      rdc := q.2.rdc.filter (fun l => !inPage l.key), resvs := q.2.resvs.filter (fun v => !inPage v.2.2)
      dirty := q.2.dirty.filter (fun d => !inPage d.1) })) }
  let x := s.stack stk
  s.setStack stk { x with
    mtlb := x.mtlb.filter (fun e => !(decide (dramKey stk e.pa < k + 65536) && decide (k < dramKey stk e.pa + e.len)))
    regs := (x.regs.map keep).filter (fun g => !(g.pages.isEmpty && (match g.holder with | .remote _ _ _ _ => true | _ => false))) }

/-- Opens of other devices that wait for entries on a page that leaves go to its new owner (R373). -/
def redirectWaits (s : State) (stk k ddev dstk dctx : Nat) : State :=
  let hit := fun (w : WtReq) => (match w.who with | .remote _ _ _ _ => true | _ => false) && w.regs.any (fun q => q.2.pages.any (fun p => decide (p.pa = k)))
  let x := s.stack stk
  (x.waits.filter hit).foldl (fun s w => match w.who with
    | .remote d st _ rid => s.send (.redirect d st rid ddev dstk dctx)
    | _ => s) (s.setStack stk { x with waits := x.waits.filter (fun w => !hit w) })

/-- A leaf of an absent page (R335). -/
def migLeaf (dev stk : Nat) : Nat := 2 ^ 7 + dev % 4096 * 2 ^ 16 + stk % 4 * 2 ^ 28

-- DEDUCED, log 56 (unsafe).
/-- PAGE_PULL at the source (R372, steps 1 to 5): the page with its registrations goes to the destination, and its leaf becomes
the stub. -/
def pagePull (stk part gpa rid ddev dstk dctx : Nat) (s : State) : State :=
  match stage2 s.mem stk (tabGet 0 (s.part part).s2root stk).toNat gpa with
  | .error _ => if s.wasReset then s.send (.answer ddev dstk rid .isReset) else s
  | .ok l =>
    if l.size ≠ 65536 then s
    else
      let k := dramKey stk l.base
      let b := cellsIn s.mem k 65536
      let g := pageRegs (s.stack stk) k
      let s := redirectWaits s stk k ddev dstk dctx
      let s := homeWrite (dropPage s stk k) l.at_ (bytesOf 8 (migLeaf ddev dstk))
      State.send { s with stubs := s.stubs ++ [{ stk := stk, part := part, gpa := gpa / 65536 * 65536, ddev := ddev, dstk := dstk, dctx := dctx }] }
        (.page ddev dstk dctx stk part (gpa / 65536 * 65536) b g)
def execPagePull (stk part gpa : Nat) (asker : PageAsker) (dstk dctx : Nat) (s : State) : Outcome :=
  .next (pagePull stk part gpa asker.rid asker.dev dstk dctx s)

/-- Where the entry of an absent page stands, from a stage-2 table with `n` levels left. -/
def absentAt (m : List Host.Cell) (stk a : Nat) : Nat → Nat → Option Nat
  | 0, _ => none
  | n + 1, t =>
    let p := dramKey stk (t + 8 * tblIndex a (3 - n))
    match readEntry 2 (3 - n) (memNat m p 8) with
    | .err 3 _ => some p
    | .table t' => absentAt m stk a n t'
    | _ => none

/-- A registration that came with its page. -/
def installReg (s : State) (stk c k gpa : Nat) (g : PageReg) : State :=
  let h := Holder.remote g.dev g.stk g.ctx g.agent
  let p : RegPage := { va := g.off, len := 65536, pa := k, gpa := gpa }
  let x := s.stack stk
  if x.regs.any (fun r => r.holder == h && decide (r.rid = g.rid)) then
    s.setStack stk { x with regs := x.regs.map (fun r => if r.holder = h ∧ r.rid = g.rid then { r with pages := r.pages ++ [p] } else r) }
  else
    let (wid, s) := s.fresh
    let r : Reg := { wid := wid, holder := h, range := g.range, ctx := c, w := g.w, pages := [p], closing := false, rid := g.rid
                     area := g.rows.map (fun q => { base := q.1, rowb := q.2.1, pitch := q.2.2.1, rows := q.2.2.2 }) }
    s.setStack stk { s.stack stk with regs := (s.stack stk).regs ++ [r] }

/-! ## A page arrives (R372 step 6, R379) -/

/-- Firings that wait for the page go on: aborted ones are queued again, suspended ones resume. -/
def pageReported (s : State) (l : List (TileId × Nat)) : State :=
  l.foldl (fun s w => resume w.1 w.2 (s.later (.requeue w.1 w.2))) s

-- DEDUCED, log 179 (safe).
/-- PAGE_INSTALL: the bytes and registrations are installed in the frame, with the rights, that the FAULT graph's leaf names; the held
requests are performed in arrival order; then the page is reported valid. A page whose registrations find no room in the window table waits for it
(R296). -/
def pageInstall (stk part gpa leaf : Nat) (bytes : List (Nat × Byte)) (regs : List PageReg) (s : State) : State :=
  let gpa := gpa / 65536 * 65536
  let root := (tabGet 0 (s.part part).s2root stk).toNat
  match (if root.testBit 0 then absentAt s.mem stk gpa 3 (entryAddr root) else none) with
  | none => s
  | some at_ =>
    if 4096 < wtUsed (s.stack stk) + regs.length then s.later (.pageInstall stk part gpa leaf bytes regs)
    else
    let k := dramKey stk (entryAddr leaf)
    let m := s.mem.filter (fun (c : Nat × Byte) => !(decide (k ≤ c.1) && decide (c.1 < k + 65536)))
    let m := bytes.foldl (fun (m : List Host.Cell) (b : Nat × Byte) => if b.1 < 65536 then tabPut 0 m (k + b.1) b.2 else m) m
    let s := homeWrite { s with mem := m } at_ (bytesOf 8 (entryAddr leaf + leaf % 16 / 4 * 4 + 3))
    let c := match movedCtx s part with
      | some q => q.1
      | none => ((s.ctxs.find? (fun q => decide (q.2.part = some part))).map (fun q => q.1)).getD 0
    let s := regs.foldl (fun s g => installReg s stk c k gpa g) s
    let mine := fun (x : Pull) => decide (x.stk = stk) && decide (x.part = part) && decide (x.gpa = gpa)
    let p := s.pulls.find? mine
    let s : State := { s with pulls := s.pulls.filter (fun x => !mine x) }
    let s := match p with
      | none => s
      | some p => pageReported (p.held.foldl (fun s r => remoteRequest r s) s) p.waiters
    let s := if s.launches.any (fun l => decide (l.st = .saved) && l.placed.isNone) then s.later .arbitrationPass else s
    let s := relatchPage s stk part gpa
    movedWhole s part
def execPageInstall (stk part gpa frame : Nat) (bytes : List (Nat × Byte)) (regs : List PageReg) (s : State) : Outcome :=
  .next (pageInstall stk part gpa frame bytes regs s)

end Sys2Proof.Machine
end

