-- ==== Sys2Proof/Machine/Links.lean ====
section
/-! DEFINITION. Kennil links (R383 to R392, R409 to R411, R421): beats and their parity, link sequence, acknowledgement and
replay, erasure, restripe, parking, and training. Times are in cycles of the link's stack, 1.5 to the nanosecond (R4). -/

namespace Sys2Proof.Machine

def State.link (s : State) (n : Nat) : Link := tabGet {} s.links n
def State.setLink (s : State) (n : Nat) (l : Link) : State := { s with links := tabSet s.links n l }

/-! ## Lanes and groups (R383, R385, R390) -/

def lanesIn (m : BitVec 16) : List Nat := (List.range 16).filter (fun i => m.getLsbD i)
def laneCount (m : BitVec 16) : Nat := (lanesIn m).length
def groupCount (m : BitVec 16) : Nat := (laneCount m + 7) / 8

/-- Lanes in ascending order cut into groups: sizes differ by at most one, the larger first. `g` counts the groups left. -/
def cutGroups : Nat → List Nat → List (List Nat)
  | 0, _ => []
  | g + 1, l =>
    let k := (l.length + g) / (g + 1)
    l.take k :: cutGroups g (l.drop k)
def groupsOf (m : BitVec 16) : List (List Nat) := cutGroups (groupCount m) (lanesIn m)
def dataLanes (m : BitVec 16) : Nat := laneCount m - groupCount m

/-- Some group has lost two lanes, beyond what parity fills (R386, R389). -/
def twoLost (map lost : BitVec 16) : Bool :=
  (groupsOf map).any (fun g => decide (2 ≤ (g.filter (fun i => lost.getLsbD i)).length))

/-! ## Control flits and records -/

def control (s : State) (n ctype lsn : Nat) (lanes : BitVec 16) (epoch : BitVec 8) : State := s.send (.control n ctype lsn lanes epoch)

-- DEDUCED, log 121 (unsafe).
/-- A record of a link end, with the map in force. -/
def linkEvent (s : State) (n kind : Nat) (rx : Bool) (e : LinkEv) : State :=
  let l := s.link n
  let m := if rx then l.rxMap else l.txMap
  postLinkEv s { e with plane := false, n := n, kind := kind, rx := rx, live := m.toNat, groups := groupCount m, data := dataLanes m
                        epoch := (if rx then l.rxEpoch else l.txEpoch).toNat, peer := l.peer, stk := l.stk }
def blankEv (s : State) (l : Link) : LinkEv := { plane := false, n := 0, kind := 0, cyc := s.cyc l.stk, done := s.cyc l.stk }

/-! ## Link sequence (R387, R388, R410) -/

/-- How far a number lies ahead of another, modulo 65 535. -/
def ahead (a b : Nat) : Nat := (a + 65535 - b % 65535) % 65535

-- DEDUCED, log 122 (unsafe).
/-- A NAK for the first number lacking: none during a restripe, none twice for a number no flit has carried since. -/
def sendNak (s : State) (n : Nat) : State :=
  let l := s.link n
  if (l.restripe.isSome && l.planned.isNone) || decide (l.nakFrom = some l.rxNext) then s
  else control (s.setLink n { l with nakFrom := some l.rxNext }) n 3 l.rxNext 0 l.rxEpoch

/-- An ACK of what has been taken in order. -/
def sendAck (s : State) (n : Nat) : State :=
  let l := s.link n
  if l.rxSince = 0 then s
  else
    let s := control (s.setLink n { l with rxSince := 0 }) n 2 ((l.rxNext + 65534) % 65535) 0 l.rxEpoch
    { s with timers := s.timers.filter (fun t => t.act != .ackTimer n) }

/-- A token leaves the link at its port tile (R47, R409). -/
def landFlit (s : State) (n : Nat) (f : BitVec 656) : State :=
  let (id, s) := s.fresh
  let t := exitAt (s.link n).stk (4 + n)
  let k : NetTok := { id := id, tok := tokenOfFlit f.toNat, at_ := t, tries := 0, src := t, direct := false }
  State.later { s with net := s.net ++ [k] } (.routeToken id)

def flitSound (f : BitVec 656) : Bool := decide (parityBits (f.toNat % 2 ^ 640) 16 = f.toNat / 2 ^ 640)

-- DEDUCED, log 177 (unsafe).
/-- The flit that is next is refused for its parity: after eight refusals in a row the hop has failed, with a record here (R46); its token
stays in the sender's replay buffer. -/
def refuseFlit (s : State) (n : Nat) : State :=
  let l := s.link n
  if l.rxRefused < 7 then s.setLink n { l with rxRefused := l.rxRefused + 1 }
  else
    let t := exitAt l.stk (4 + n)
    (s.setLink n { l with rxRefused := 0 }).post .mg
      (faultRecord s { tile := t, entry := none, ctx := 0 } { code := .parity, detail := unitDetail 3 (tileKey t) } 0 0 0 0 .none 0)

/-- The routes to a link's peer go through it where none is there. -/
def addRoutes (s : State) (n : Nat) : State :=
  (List.range 4).foldl (fun s k =>
    let x := s.stack k
    if (tabFind x.routes (s.link n).peer).isSome then s else s.setStack k { x with routes := tabSet x.routes (s.link n).peer n }) s

/-- A planned restripe takes effect; a direction that was down is up again, and its sender is told where to go on. -/
def endPlanned (s : State) (n kind c : Nat) (lanes : BitVec 16) : State :=
  let l := s.link n
  let s := s.setLink n { l with rxMap := lanes, restripe := none, planned := none, rxBits := [], beatNo := [], deskew := [], crc := []
                                nakFrom := if l.up then l.nakFrom else none, up := true }
  let s := if l.up then s else sendNak (addRoutes s n) n
  linkEvent s n kind true { blankEv s l with cyc := c, lsn := l.rxNext, lost := (l.rxMap &&& ~~~lanes).toNat }

/-- The receiver takes up the map of a planned restripe once the flits numbered below the one that its MAPACK named have come (R392). -/
def switchMap (s : State) (n : Nat) : State :=
  let l := s.link n
  match l.restripe, l.planned with
  | some (c, m, true), some k => if ahead l.rxNext l.mapAt < 32768 then endPlanned s n k c m else s
  | _, _ => s

/-- LINK_FLIT: a data flit is taken in order, or discarded with every later one until the NAK is answered. -/
def takeFlit (n lsn : Nat) (f : BitVec 656) (s : State) : State :=
  let l := s.link n
  if !l.up then s
  else
    let l := { l with nakFrom := if l.nakFrom = some lsn then none else l.nakFrom
                      rxSeen := if ahead l.rxSeen l.rxNext < ahead lsn l.rxNext ∧ ahead lsn l.rxNext < 32768 ∨ 32768 ≤ ahead l.rxSeen l.rxNext then lsn
                                else l.rxSeen }
    if lsn ≠ l.rxNext then sendNak (s.setLink n l) n
    else if !flitSound f then sendNak (refuseFlit (s.setLink n l) n) n
    else
      let s := landFlit (s.setLink n { l with rxNext := (lsn + 1) % 65535, rxSince := l.rxSince + 1, rxRefused := 0 }) n f
      let s := switchMap s n
      if 32 ≤ l.rxSince + 1 then sendAck s n
      else if l.rxSince = 0 then s.rearm l.stk (s.cyc l.stk + 75) (.ackTimer n)
      else s
def execLinkFlit (link lsn : Nat) (f : BitVec 656) (s : State) : Outcome := .next (takeFlit link lsn f s)

/-- IDLE (R387) carries nothing. -/
def execIdle (_link : Nat) (s : State) : Outcome := .next s

/-- ACK_TIMER. -/
def execAckTimer (link : Nat) (s : State) : Outcome := .next (sendAck s link)

/-- The replay timer runs while flits are outstanding. -/
def replayTimer (s : State) (n : Nat) : State :=
  let l := s.link n
  if l.replay.isEmpty then { s with timers := s.timers.filter (fun t => t.act != .replayTimeout n) }
  else s.rearm l.stk (s.cyc l.stk + 1500) (.replayTimeout n)

/-- New data flits, as far as the replay buffer has room. -/
def pumpAll (s : State) (n : Nat) : State := pumpLink n ((s.link n).txQueue.length + 1) s

/-- ACK: what it covers leaves the replay buffer. -/
def takeAck (n lsn : Nat) (s : State) : State :=
  let l := s.link n
  match l.replay.findIdx? (fun p => decide (p.1 = lsn)) with
  | none => s
  | some i => pumpAll (replayTimer (s.setLink n { l with replay := l.replay.drop (i + 1) }) n) n
def execAck (link lsn : Nat) (s : State) : Outcome := .next (takeAck link lsn s)

/-- Buffered flits are sent again, in order. -/
def resendFrom (s : State) (n : Nat) (l : List (Nat × BitVec 656)) : State :=
  replayTimer (l.foldl (fun s (p : Nat × BitVec 656) => s.send (.flit n p.1 p.2)) s) n

/-- NAK: go back to the number it names. The first NAK on a new map resumes the data path of a sender that a LOSS had stopped
(R390, R410, R411). -/
def takeNak (n lsn : Nat) (s : State) : State :=
  let l := s.link n
  let again := l.replay.dropWhile (fun p => decide (p.1 ≠ lsn))
  if !l.txStop then resendFrom s n again
  else
    match l.txLoss, l.mapped with
    | some (c, lost), true =>
      let s := s.setLink n { l with txStop := false, txLoss := none, mapped := false }
      let s := linkEvent (resendFrom s n again) n 2 false { blankEv s l with cyc := c, lsn := lsn, replayed := again.length, lost := lost.toNat }
      pumpAll s n
    | _, _ => s
def execNak (link lsn : Nat) (s : State) : Outcome := .next (takeNak link lsn s)

/-- REPLAY_TIMEOUT: from the oldest unacknowledged flit; held while a restripe is in progress (R388, R390). -/
def replayLate (n : Nat) (s : State) : State :=
  let l := s.link n
  if !l.up then s else if l.txStop then replayTimer s n else resendFrom s n l.replay
def execReplayTimeout (link : Nat) (s : State) : Outcome := .next (replayLate link s)

/-! ## Down (R391) -/

/-- The routes through a link go, each to another link that reaches the same peer where there is one. -/
def dropRoutes (s : State) (n : Nat) : State :=
  let peer := (s.link n).peer
  let other := (s.links.find? (fun p => p.1 != n && p.2.up && decide (p.2.peer = peer))).map (fun p => p.1)
  (List.range 4).foldl (fun s k =>
    let x := s.stack k
    let hit := (x.routes.filter (fun r => decide (r.2 = n))).map (fun r => r.1)
    hit.foldl (fun s d =>
      match (if d = peer then other else none) with
      | some m => s.setStack k { s.stack k with routes := tabSet (s.stack k).routes d m }
      | none => routeLost (s.setStack k { s.stack k with routes := tabDel (s.stack k).routes d }) k d) s) s

def takeDown (s : State) (n : Nat) (lost : BitVec 16) : State :=
  let l := s.link n
  let s := s.setLink n { l with up := false, restripe := none, planned := none }
  dropRoutes (linkEvent s n 3 true { blankEv s l with lost := lost.toNat }) n

/-- LINK_DOWN: no MAPACK 2 µs after the MAP. -/
def linkDown (n : Nat) (s : State) : State :=
  let l := s.link n
  match l.restripe with
  | some (c, _, false) => if l.up && decide (c + 3000 ≤ s.cyc l.stk) then takeDown s n (l.rxErased &&& l.rxMap) else s
  | _ => s
def execLinkDown (link : Nat) (s : State) : Outcome := .next (linkDown link s)

/-! ## Erasure and restripe (R389, R390, R411) -/

/-- The receiver proposes a map. -/
def proposeMap (s : State) (n : Nat) (lanes : BitVec 16) (planned : Option Nat) : State :=
  let l := s.link n
  let c := s.cyc l.stk
  let s := s.setLink n { l with restripe := some (c, lanes, false), planned := planned, rxEpoch := l.rxEpoch + 1 }
  let s := control s n 5 0 lanes (l.rxEpoch + 1)
  let s := s.rearm l.stk (c + 3000) (.linkDown n)
  if planned.isNone then s.rearm l.stk (c + 2700) (.restripeResume n) else s

/-- The lanes left once erased and parked ones are out. -/
def liveLanes (l : Link) (m : BitVec 16) : BitVec 16 := m &&& ~~~l.rxErased &&& ~~~l.rxParked

/-- Step 1 of R390: fewer than 2 lanes left, and the direction is down. -/
def startRestripe (s : State) (n : Nat) : State :=
  let l := s.link n
  let m := liveLanes l l.rxMap
  if laneCount m < 2 then takeDown s n (l.rxErased &&& l.rxMap) else proposeMap s n m none

-- DEDUCED, log 127 (unsafe).
/-- Lanes of the receive direction are erased: LOSS goes out; parity fills one lane of a group, two start a restripe. -/
def eraseLanes (s : State) (n : Nat) (lanes : BitVec 16) : State :=
  let l := s.link n
  let new := lanes &&& l.rxMap &&& ~~~l.rxErased
  if !l.up || decide (new = 0) then s
  else
    let l := { l with rxErased := l.rxErased ||| new }
    let s := control (s.setLink n l) n 4 0 (l.rxErased &&& l.rxMap) l.rxEpoch
    if (l.restripe.isSome && l.planned.isNone) || twoLost l.rxMap l.rxErased then startRestripe s n
    else linkEvent s n 1 true { blankEv s l with lost := new.toNat }

/-- A number from 2^15 names a plane, at this member's receiver; with 2^14 more, at its transmitter. -/
def planeOfInput (n : Nat) : Nat := n % 2 ^ 14
def atTransmitter (n : Nat) : Bool := n.testBit 14
def Plane.lostAt (p : Plane) (tx : Bool) : Nat := if tx then p.txLost else p.lanesLost
def Plane.setLost (p : Plane) (tx : Bool) (v : Nat) : Plane := if tx then { p with txLost := v } else { p with lanesLost := v }

-- DESIGN CHOICE, log 130 (safe).
/-- LOSS_OF_LIGHT: a lane dark for 50 ns. On a plane the second lost lane of the member's receiver, or of its transmitter, makes it
leave (R393, R395). -/
def lossOfLight (n : Nat) (lanes : BitVec 16) (s : State) : State :=
  if n < 2 ^ 15 then eraseLanes s n lanes
  else
    let k := planeOfInput n
    let tx := atTransmitter n
    let p := s.plane k
    let lost := Nat.lor (p.lostAt tx) (lanes.toNat % 256)
    if !p.up || decide (lost = p.lostAt tx) then s
    else
      let s := s.setPlane k (p.setLost tx lost)
      if 2 ≤ laneCount (BitVec.ofNat 16 lost) then departPlane s k lost
      else postLinkEv s { plane := true, n := k, rx := !tx, kind := 1, cyc := s.cyc 0, done := s.cyc 0, peer := s.dev, lost := lost, live := 255 - lost
                          groups := 1, data := 7 }
def execLossOfLight (link : Nat) (lanes : BitVec 16) (s : State) : Outcome := .next (lossOfLight link lanes s)

/-- LOSS (R410): data flits stop where the loss is beyond what parity fills; with fewer than 2 lanes left the direction is down here
too (R391). -/
def takeLoss (n : Nat) (lanes : BitVec 16) (s : State) : State :=
  let l := s.link n
  if !l.up then s
  else
    let s := s.setLink n { l with txLoss := some (s.cyc l.stk, lanes), txStop := l.txStop || twoLost l.txMap lanes, mapped := false }
    if laneCount (l.txMap &&& ~~~lanes) < 2 then
      dropRoutes (linkEvent (s.setLink n { s.link n with up := false }) n 3 false { blankEv s l with lost := lanes.toNat }) n
    else s
def execLoss (link : Nat) (lanes : BitVec 16) (s : State) : Outcome := .next (takeLoss link lanes s)

-- DEDUCED, log 123 (unsafe).
/-- MAP (R390, R392): the sender answers, naming its next data flit; a planned one stops its data flits for 200 ns. A direction that was
down is up again. -/
def takeMap (n : Nat) (lanes : BitVec 16) (epoch : BitVec 8) (s : State) : State :=
  let l := s.link n
  if epoch = l.txEpoch then s
  else
    let s := control (s.setLink n { l with txMap := lanes, txEpoch := epoch, mapped := l.txStop, txStop := true
                                           txLoss := if l.txStop then l.txLoss else none, up := l.up || l.trained }) n 6 l.txNext lanes epoch
    let s := if l.up then s else addRoutes s n
    if l.txStop then s else s.rearm l.stk (s.cyc l.stk + 300) (.restripeResume n)
def execMap (link : Nat) (lanes : BitVec 16) (epoch : BitVec 8) (s : State) : Outcome := .next (takeMap link lanes epoch s)

/-- The data path of the receive direction resumes on the new map: a NAK first, then the record (R390, R410, R411). -/
def resumeRx (s : State) (n c : Nat) (lanes : BitVec 16) : State :=
  let l := s.link n
  let lost := l.rxMap &&& ~~~lanes
  let s := s.setLink n { l with rxMap := lanes, restripe := none, rxBits := [], beatNo := [], deskew := [], crc := [], nakFrom := none }
  let s := sendNak s n
  let d := ahead l.rxSeen l.rxNext
  linkEvent s n 2 true { blankEv s l with cyc := c, lsn := l.rxNext, replayed := if d < 32768 then d + 1 else 0, lost := lost.toNat }

/-- RESTRIPE_RESUME: 1.80 µs after the erasure at the receiver; the end of the 200 ns of a planned restripe at the sender. -/
def restripeResume (n : Nat) (s : State) : State :=
  let l := s.link n
  let s := match l.restripe, l.planned with
    | some (c, m, true), none => if c + 2700 ≤ s.cyc l.stk then resumeRx s n c m else s
    | _, _ => s
  let l := s.link n
  if l.txStop && l.txLoss.isNone then pumpAll (s.setLink n { l with txStop := false, mapped := false }) n else s
def execRestripeResume (link : Nat) (s : State) : Outcome := .next (restripeResume link s)

/-- MAPACK: the map proposed is agreed. A planned one holds from the flit that it names, another from 1.80 µs after the erasure. -/
def takeMapack (n lsn : Nat) (lanes : BitVec 16) (epoch : BitVec 8) (s : State) : State :=
  let l := s.link n
  match l.restripe with
  | some (c, m, false) =>
    if m ≠ lanes ∨ epoch ≠ l.rxEpoch then s
    else
      match l.planned with
      | some _ => switchMap (s.setLink n { l with restripe := some (c, m, true), mapAt := lsn }) n
      | none => if c + 2700 ≤ s.cyc l.stk then resumeRx s n c m else s.setLink n { l with restripe := some (c, m, true) }
  | _ => s
def execMapack (link : Nat) (lanes : BitVec 16) (at_ : MapPoint) (s : State) : Outcome := .next (takeMapack link at_.lsn lanes at_.epoch s)

/-! ## Planned restripes (R391, R392) -/

/-- A map that may be used for parking: every group has a data lane beside its parity lane. -/
def mapUsable (m : BitVec 16) : Bool := decide (2 ≤ laneCount m) && (groupsOf m).all (fun g => decide (2 ≤ g.length))

-- DEDUCED, log 128 (unsafe).
/-- LANE_PARK. -/
def parkLanes (n : Nat) (lanes : BitVec 16) (s : State) : State :=
  let l := s.link n
  let m := liveLanes l l.rxMap &&& ~~~lanes
  if !l.up || l.restripe.isSome || decide (lanes &&& l.rxMap = 0) || !mapUsable m then s
  else proposeMap (s.setLink n { l with rxParked := l.rxParked ||| (lanes &&& l.rxMap) }) n m (some 4)
def execLanePark (link : Nat) (lanes : BitVec 16) (s : State) : Outcome := .next (parkLanes link lanes s)

/-- LANE_UNPARK: the lanes are retrained and join the map. -/
def unparkLanes (n : Nat) (lanes : BitVec 16) (s : State) : State :=
  let l := s.link n
  let back := lanes &&& l.rxParked
  if !l.up || l.restripe.isSome || decide (back = 0) then s
  else
    let l := { l with rxParked := l.rxParked &&& ~~~back }
    proposeMap (s.setLink n l) n (liveLanes l (l.rxMap ||| back)) (some 5)
def execLaneUnpark (link : Nat) (lanes : BitVec 16) (s : State) : Outcome := .next (unparkLanes link lanes s)

/-- LANE_RECOVERY (R391): lanes with light again join the map by a planned restripe; on a plane they are no longer lost. -/
def recoverLanes (n : Nat) (lanes : BitVec 16) (s : State) : State :=
  if n < 2 ^ 15 then
    let l := s.link n
    let back := lanes &&& l.rxErased
    if !l.trained || l.restripe.isSome || decide (back = 0) then s
    else
      let l := { l with rxErased := l.rxErased &&& ~~~back }
      let m := liveLanes l (l.rxMap ||| back)
      if m = l.rxMap ∧ l.up then s.setLink n l
      else if laneCount m < 2 then s.setLink n l
      else proposeMap (s.setLink n l) n m (some 5)
  else
    let k := planeOfInput n
    let p := s.plane k
    let lost := p.lostAt (atTransmitter n)
    s.setPlane k (p.setLost (atTransmitter n) (lost - Nat.land lost lanes.toNat))
def execLaneRecovery (link : Nat) (lanes : BitVec 16) (s : State) : Outcome := .next (recoverLanes link lanes s)

/-! ## Beats (R384 to R387) -/

/-- CRC-8 with polynomial 0x107 of the low n bits, the highest first. -/
def crc8 (v : Nat) : Nat → Nat → Nat
  | 0, c => c
  | n + 1, c =>
    let c := Nat.xor c ((v.testBit n).toNat * 128)
    crc8 v n (if 128 ≤ c then Nat.xor (c * 2) 0x107 else c * 2)
def beatSound (b : BitVec 104) : Bool := decide (crc8 b.toNat 96 0 % 256 = b.toNat / 2 ^ 96)

/-- The beats of one group period: each lane's data where it can be used, and its count of CRC failures in a row. -/
def readBeats (l : Link) : List (Nat × Option (BitVec 104)) → List (Option Nat) × Tab Nat
  | [] => ([], l.crc)
  | (i, b) :: r =>
    let q := readBeats l r
    match b with
    | none => (none :: q.1, q.2)
    | some b =>
      if l.rxErased.getLsbD i then (none :: q.1, q.2)
      else if beatSound b then (some (b.toNat % 2 ^ 96) :: q.1, tabSet q.2 i 0)
      else (none :: q.1, tabSet q.2 i (tabGet 0 q.2 i + 1))

/-- The period's data with at most one beat rebuilt from the others (R386); none where two cannot be used. -/
def fillPeriod (l : List (Option Nat)) : Option (List Nat) :=
  if 2 ≤ (l.filter (fun b => b.isNone)).length then none
  else
    let x := (l.map (fun b => b.getD 0)).foldl Nat.xor 0
    some ((l.map (fun b => b.getD x)).dropLast)

/-- The control flits of R387. -/
def takeControl (n : Nat) (f : BitVec 656) (s : State) : State :=
  let g := fun hi lo => bitsNat f.toNat hi lo
  let lanes := BitVec.ofNat 16 (g 103 88)
  let ep := BitVec.ofNat 8 (g 87 80)
  if !flitSound f then s
  else
    match g 127 120 with
    | 2 => takeAck n (g 119 104) s
    | 3 => takeNak n (g 119 104) s
    | 4 => takeLoss n lanes s
    | 5 => takeMap n lanes ep s
    | 6 => takeMapack n (g 119 104) lanes ep s
    | _ => s

/-- 672 bits of a group's stream. -/
def flitSpan : Nat := 2 ^ 224 * 2 ^ 224 * 2 ^ 224
/-- Whole flits at the front of a group's bits: none for one with a lost bit (R385, R386). -/
def cutFlits : Nat → Nat × Nat × Nat → List (Option Nat) × (Nat × Nat × Nat)
  | 0, e => ([], e)
  | k + 1, (len, v, lost) =>
    if len < 672 then ([], (len, v, lost))
    else
      let r := cutFlits k (len - 672, v / flitSpan, lost - 672)
      ((if 0 < lost then none else some (v % flitSpan)) :: r.1, r.2)

/-- A flit that its group has delivered. -/
def takeBits (n : Nat) (f : Option Nat) (s : State) : State :=
  match f with
  | none => sendNak s n
  | some f => if f / 2 ^ 656 = 0xFFFF then takeControl n (BitVec.ofNat 656 f) s else takeFlit n (f / 2 ^ 656) (BitVec.ofNat 656 f) s

/-- The order in which flits of one beat period are taken: control flits, data flits by their numbers, then what is lost. -/
def flitRank (next : Nat) : Option Nat → Nat
  | none => 65536
  | some f => if f / 2 ^ 656 = 0xFFFF then 0 else 1 + ahead (f / 2 ^ 656) next

/-- The last beat period that every group of the receive direction has reached. -/
def commonBeat (l : Link) : Nat :=
  match (List.range (groupsOf l.rxMap).length).map (tabGet 0 l.beatNo) with
  | [] => 0
  | a :: r => r.foldl Nat.min a

/-- A flit among others of its beat period, in that order. -/
def insertFlit (next : Nat) (q : Nat × Option Nat) : List (Nat × Option Nat) → List (Nat × Option Nat)
  | [] => [q]
  | a :: r => if flitRank next q.2 ≤ flitRank next a.2 then q :: a :: r else a :: insertFlit next q r

/-- The receiver deskews the groups: flits wait until every group has reached their beat period, and are then taken in the order of
their numbers (R385). -/
def deskewed (s : State) (n : Nat) : State :=
  let l := s.link n
  let m := commonBeat l
  let due := (l.deskew.filter (fun q => decide (q.1 ≤ m))).foldr (insertFlit l.rxNext) []
  due.foldl (fun s q => takeBits n q.2 s) (s.setLink n { l with deskew := l.deskew.filter (fun q => decide (m < q.1)) })

-- DESIGN CHOICE, log 126 (safe).
/-- LANE_BEAT: one beat period of one group; lanes that fail 16 in a row are erased (R389). -/
def laneBeat (n grp : Nat) (beats : List (Option (BitVec 104))) (s : State) : State :=
  let l := s.link n
  match (groupsOf l.rxMap)[grp]? with
  | none => s
  | some g =>
    if !l.up || decide (beats.length ≠ g.length) then s
    else
      let (data, crc) := readBeats l (g.zip beats)
      let bits := 96 * (g.length - 1)
      let (len, v, lost) := tabGet (0, 0, 0) l.rxBits grp
      let e := match fillPeriod data with
        | some d => (len + bits, v + wordsOf d * 2 ^ len, lost)
        | none => (len + bits, v, len + bits)
      let (flits, rest) := cutFlits 2 e
      let k := tabGet 0 l.beatNo grp + 1
      let s := deskewed (s.setLink n { l with rxBits := tabSet l.rxBits grp rest, crc := crc, beatNo := tabSet l.beatNo grp k
                                              deskew := l.deskew ++ flits.map (fun f => (k, f)) }) n
      let bad := (g.filter (fun i => decide (16 ≤ tabGet 0 crc i))).foldl (fun (m : BitVec 16) i => m ||| BitVec.ofNat 16 (2 ^ i)) 0
      eraseLanes s n bad
where
  wordsOf : List Nat → Nat
    | [] => 0
    | a :: r => a + 2 ^ 96 * wordsOf r
def execLaneBeat (link grp : Nat) (beats : List (Option (BitVec 104))) (s : State) : Outcome := .next (laneBeat link grp beats s)

/-! ## Training (R421) -/

/-- The links that a module has: 60 wide or 120 narrow (R2). -/
def linkExists (n : Nat) : Bool := decide (n < 60) || (!Config.linkWide n && decide (n < 120))
/-- A plane has not begun: no grant has passed and nothing has been delivered, and this member has not left it (R348, R395). -/
def Plane.starts (p : Plane) : Bool :=
  decide (p.gseq = 0) && p.history.isEmpty && p.passed.isNone && (p.up || p.ring.isEmpty) && decide (p.ring.length < planeMembers)

-- DEDUCED, log 129 (unsafe).
/-- LINK_TRAINING: the ends have exchanged their numbers. Nothing is brought up before this device has one; an equal number leaves a
link or plane member down, with a record. The members of a plane that begins make its ring; later ones join by a message (R348). -/
def trainLink (plane : Bool) (n peer : Nat) (s : State) : State :=
  if s.devid.getLsbD 12 = false ∨ s.boot ≠ .running then s
  else if plane then
    let p := s.plane n
    if peer = s.dev then postLinkEv s { plane := true, n := n, kind := 3, cyc := s.cyc 0, done := s.cyc 0, peer := peer }
    else if !p.starts then s
    else
      let ring := (s.dev :: peer :: p.ring).eraseDups.mergeSort (· ≤ ·)
      s.setPlane n { p with up := true, ring := ring, holder := 0 }
  else if !linkExists n then s
  else
    let l := s.link n
    let stk := Config.linkStack n % 4
    if peer = s.dev then postLinkEv s { plane := false, n := n, kind := 3, cyc := s.cyc stk, done := s.cyc stk, peer := peer, stk := stk }
    else if l.up then s
    else
      let wide := Config.linkWide n
      let m : BitVec 16 := if wide then 0xFFFF else 0x00FF
      let s := s.setLink n { up := true, peer := peer, stk := stk, wide := wide, rxMap := m, txMap := m, txQueue := l.txQueue, trained := true }
      pumpAll (addRoutes s n) n
def execLinkTraining (plane : Bool) (n peer : Nat) (s : State) : Outcome := .next (trainLink plane n peer s)

end Sys2Proof.Machine
end

