-- ==== Sys2Proof/Machine/Power.lean ====
section
/-! DEFINITION. Vertical buses and their retests (R396 to R398), scrub (R399, R400), power and cooling (R417, R418). -/

namespace Sys2Proof.Machine

/-! ## Vertical buses (R396, R397) -/

/-- Main lines are 0 to 559, spares 560 to 575. -/
def mainLine (l : Nat) : Bool := decide (l < 560)
def lowHalf (l : Nat) : Bool := decide (l < 280)

/-- STATE, HALFSEL and SPARES of a bus whose failed main lines lie `lo` in the lower half and `hi` in the upper, with `avail` spares
that work: the lower half goes first where either would do. -/
def busShape (lo hi avail : Nat) : Nat × Nat × Nat :=
  if lo + hi = 0 then (0, 0, 0)
  else if lo + hi ≤ avail then (1, 0, lo + hi)
  else if lo ≤ avail then (2, 0, lo)
  else if hi ≤ avail then (2, 1, hi)
  else (3, 0, 0)

/-- The SBT entry of a bus with these failed lines, with no retest pending (R397). -/
def sbtEntry (bad : List Nat) : Nat :=
  let b := (bad.filter (fun l => decide (l < 576))).eraseDups
  let lo := (b.filter lowHalf).length
  let hi := (b.filter (fun l => mainLine l && !lowHalf l)).length
  let v := busShape lo hi (16 - (b.filter (fun l => !mainLine l)).length)
  v.1 * 2 ^ 30 + v.2.1 * 2 ^ 28 + v.2.2 * 2 ^ 16 + b.length
/-- A test of a bus finds these lines failed: the state is set anew, and the stack's temperature recorded (R398). -/
def testBus (stk bus : Nat) (bad : List Nat) (cause : Nat) (s : State) : State :=
  let x := tabGet {} s.buses (stk * 128 + bus)
  setSbt { s with buses := tabSet s.buses (stk * 128 + bus) { x with temp := (s.stack stk).temp } } stk bus
    (BitVec.ofNat 32 (sbtEntry bad)) cause

-- DEDUCED, log 134 (unsafe).
/-- VB_RETEST (R396, R398): in an idle window when a retest is pending, else after a beat that failed its code twice. -/
def vbRetest (stk bus : Nat) (bad : List Nat) (s : State) : State :=
  testBus stk bus bad (if retestPending (tabGet {} s.buses (stk * 128 + bus)).sbt then 2 else 1) s
def execVbRetest (stk bus : Nat) (bad : List Nat) (s : State) : Outcome := .next (vbRetest stk bus bad s)

/-- VB_RETEST_FORCED (R398): a retest that has been pending for 10 ms. -/
def vbRetestForced (stk bus : Nat) (bad : List Nat) (s : State) : State :=
  if retestPending (tabGet {} s.buses (stk * 128 + bus)).sbt then testBus stk bus bad 3 s else s
def execVbRetestForced (stk bus : Nat) (bad : List Nat) (s : State) : Outcome := .next (vbRetestForced stk bus bad s)

/-! ## Temperature (R398, R418) -/

/-- The user tiles of the module. -/
def userTiles : List TileId :=
  (List.range 4).flatMap (fun k => (List.range 16).flatMap (fun x => (List.range 16).map (fun y => { stk := k, x := x + 1, y := y })))

-- DEDUCED, log 117 (unsafe).
/-- The thermal stop of R418. -/
def tripAll (s : State) : State := if s.trip then s else userTiles.foldl (fun s t => dbgHalt t s) { s with trip := true }

-- DEDUCED, log 135 (safe).
/-- A stack's die is at a temperature: its limits are looked at, and its buses. -/
def setTemp (stk temp : Nat) (s : State) : State :=
  let t := checkLimit (s.setStack stk { s.stack stk with temp := temp }) stk
  let t := if 105 ≤ temp then tripAll t else t
  powerChange s (swingBuses stk t)

/-- TEMPERATURE_SWING (R398). -/
def execTemperatureSwing (stk temp : Nat) (s : State) : Outcome := .next (setTemp stk temp s)
/-- THERMAL_STOP (R418). -/
def execThermalStop (stk temp : Nat) (s : State) : Outcome := .next (setTemp stk temp s)
/-- TEMPLIM_EXCEEDED (R418). -/
def execTemplimExceeded (stk temp : Nat) (s : State) : Outcome := .next (setTemp stk temp s)
/-- TEMPLIM_RECOVERED (R418). -/
def execTemplimRecovered (stk temp : Nat) (s : State) : Outcome := .next (setTemp stk temp s)

/-! ## Scrub (R399, R400) -/

def satCount (v : BitVec 32) : BitVec 32 := if v = BitVec.allOnes 32 then v else v + 1

/-- The place by which an error of a unit is known: a physical key for the plane store's lines and DRAM, a tile else. -/
def scrubPlace (unit stk addr : Nat) : Nat := if unit = 11 then dramKey stk (addr / 128 * 128) else addr

-- DEDUCED, log 136 (unsafe).
/-- SCRUB (R399, R400): a corrected error is counted; an uncorrectable one is recorded, and strikes whoever reads the word. -/
def scrub (unit stk addr : Nat) (correctable : Bool) (s : State) : State :=
  if correctable then { s with ecc := tabSet s.ecc unit (satCount (tabGet 0 s.ecc unit)) }
  else
    let s := s.post .mg (faultRecord s { tile := { stk := stk, x := 0, y := 0 }, entry := none, ctx := 0 }
      { code := .parity, detail := unitDetail unit addr } 0 0 0 0 .none 0)
    { s with errs := s.errs ++ [{ unit := unit, place := scrubPlace unit stk addr }] }
def execScrub (unit stk addr : Nat) (correctable : Bool) (s : State) : Outcome := .next (scrub unit stk addr correctable s)

/-! ## The issue fraction (R417) -/

/-- k of the next window; E and CAP × 10 µs in units of 10 µJ. -/
def nextFraction (k cap e : Nat) : Nat :=
  if cap < e then
    let n := Nat.max 1 (k * cap / e)
    if n = k ∧ 1 < k then k - 1 else n
  else if 10 * e < 9 * cap then Nat.min 16 (k + 1)
  else k

/-- POWER_WINDOW (R417). -/
def powerWindow (energy : Nat) (s : State) : State :=
  let k := nextFraction s.issueK s.powercap.toNat energy
  powerChange s { s with issueK := k, throttled := s.throttled || decide (k < 16) }
def execPowerWindow (energy : Nat) (s : State) : Outcome := .next (powerWindow energy s)

end Sys2Proof.Machine
end

