-- ==== Sys2Proof/Machine/Boot.lean ====
section
/-! DEFINITION. Bring-up (R412), the firmware bundle (R413, R414), identity and attestation (R415, R421), the host port (R297, R416),
power-down and reset. -/

namespace Sys2Proof.Machine

/-! ## Power-up and reset (R412) -/

-- DEDUCED, log 132 (unsafe).
/-- A machine without power or held in reset: what the model itself counts goes on, as do the outside world's queues. -/
def coldState (s : State) (again : Bool) : State :=
  { State.reset with tick := s.tick, nextId := s.nextId, inputs := s.inputs, outbox := s.outbox, wasReset := again }

-- DEDUCED, log 137 (safe).
/-- Step 2: a vertical bus is tested, and recorded unless it is FULL. -/
def bootBus (k : Nat) (s : State) (b : Nat) : State :=
  let v := BitVec.ofNat 32 (sbtEntry (Config.busTest (k * 128 + b) s.tick))
  let s : State := { s with buses := tabSet s.buses (k * 128 + b) { sbt := v, temp := (s.stack k).temp, since := 0 } }
  if v.toNat / 2 ^ 30 = 0 then s else s.post .mg (vbevRecord s k b v 0 4)

/-- Steps 1 to 4 for one stack: its cycle counter starts, its buses are tested, its defects are read. -/
def bootStack (s : State) (k : Nat) : State :=
  let s := s.setStack k { temp := Config.dieTemp k s.tick }
  let s := (List.range 128).foldl (bootBus k) s
  setTemp k (s.stack k).temp { s with defects := tabSet s.defects k (Config.fusedDefects k) }

/-- The boot sequencer up to the opening of the boot endpoint. -/
def bootUp (s : State) (again : Bool) : State :=
  { (List.range 4).foldl bootStack (coldState s again) with boot := .boot }

/-- POWER_UP (R412). -/
def execPowerUp (s : State) : Outcome := .next (bootUp s s.wasReset)
/-- MODULE_RESET (R412, R346, R421). -/
def execModuleReset (s : State) : Outcome := .next (bootUp s true)
/-- POWER_DOWN: device-span state is lost (R3). -/
def execPowerDown (s : State) : Outcome := .next (coldState s true)

/-! ## RSASSA-PSS (R414) -/

/-- b ^ e mod m; `n` bounds the bits of e. -/
def modPow (b m : Nat) : Nat → Nat → Nat
  | 0, _ => 1 % m
  | n + 1, e =>
    let h := modPow b m n (e / 2)
    if e % 2 = 1 then h * h % m * b % m else h * h % m


/-- MGF1 with SHA-512. -/
def mgf1 (seed : List Byte) (n : Nat) : List Byte :=
  ((List.range ((n + 63) / 64)).flatMap (fun i => sha512 (seed ++ beBytes 4 i))).take n

/-- EMSA-PSS-VERIFY over 4095 bits, with a 64-byte salt. -/
def pssOk (hash em : List Byte) : Bool :=
  let h := (em.drop 447).take 64
  let db := List.zipWith (fun a b => a ^^^ b) (em.take 447) (mgf1 h 447)
  let db := match db with | b :: r => (b &&& 0x7F#8) :: r | [] => []
  decide (em.getD 511 0 = 0xBC#8) && !(em.getD 0 0).getLsbD 7 &&
  (db.take 382).all (fun b => b == 0) && decide (db.getD 382 0 = 1#8) &&
  decide (sha512 (List.replicate 8 0 ++ hash ++ db.drop 383) = h)

/-- RSASSA-PSS verification: modulus, exponent, signature. -/
def rsaPssOk (n e : Nat) (sig msg : List Byte) : Bool :=
  let v := beNat sig
  decide (v < n) && pssOk (sha512 msg) (beBytes 512 (modPow v n 32 e))

/-! ## The firmware bundle (R413, R414) -/

def bundleLen (b : List Byte) : Nat := leField b 8 4
/-- Offset and size of one of the eight sections. -/
def bundleSect (b : List Byte) (i : Nat) : Nat × Nat := (leField b (0x10 + 8 * i) 4, leField b (0x14 + 8 * i) 4)
def bundleImage (b : List Byte) (i : Nat) : List Byte := (b.drop (bundleSect b i).1).take (bundleSect b i).2

/-- A resident image that passes R221, with the smallest column of tiles that holds it. -/
def residentShape (img : List Byte) : Option (Nat × List TileCfg) :=
  match checkImage img.toArray with
  | .error _ => none
  | .ok g =>
    if !g.resident then none
    else
      match firstShape (expand g) ((List.range 16).map (fun h => (1, h + 1))) with
      | some (_, h, l) => some (h, l)
      | none => none

/-- Rows of a control column for columns of these heights, in order, without a defective tile. -/
def residentRows (bad : Nat → Bool) : List Nat → Nat → Option (List Nat)
  | [], _ => some []
  | h :: r, cur =>
    match (List.range 16).find? (fun y => decide (cur ≤ y) && decide (y + h ≤ 16) && (List.range h).all (fun i => !bad (y + i))) with
    | none => none
    | some y => (residentRows bad r (y + h)).map (fun l => y :: l)

/-- A control tile is defective (R223). -/
def controlDefect (s : State) (k y : Nat) : Bool := (tabGet 0 s.defects k).getLsbD (17 * y)

/-- One image as it will stand: its bytes, height and tiles. -/
abbrev Resident := List Byte × Nat × List TileCfg

def bundleResidents (b : List Byte) : Option (List Resident) :=
  (List.range 7).mapM (fun i => (residentShape (bundleImage b i)).map (fun q => (bundleImage b i, q.1, q.2)))

/-- The rows on the four stacks. -/
def bundleRows (s : State) (l : List Resident) : Option (List (List Nat)) :=
  (List.range 4).mapM (fun k => residentRows (controlDefect s k) (l.map (fun r => r.2.1)) 0)

/-- The number by which a bundle is refused as busy. -/
def busyCheck : Nat := 6

-- DESIGN CHOICE, log 138 (unsafe).
/-- The checks of R414 in order: the number of the first that fails, or what is to be loaded. -/
def checkBundle (s : State) (b : List Byte) : Except Nat (List Resident × List (List Nat)) :=
  let len := bundleLen b
  let key := b.drop 0x50
  if !(decide (leField b 0 4 = 0x57465742) && decide (len ≤ b.length) && (List.range 8).all (fun i => decide ((bundleSect b i).1 + (bundleSect b i).2 ≤ len))) then
    .error 1
  else if sha512 (key.take 516) ≠ Config.fusedDigest then .error 2
  else if !rsaPssOk (beNat (key.take 512)) (leField b 0x250 4) ((b.drop 0x300).take 512) (b.take 0x300 ++ (b.take len).drop 0x500) then .error 3
  else if leField b 4 4 < Config.fwMin then .error 4
  else
    match bundleResidents b with
    | none => .error 5
    | some l =>
      match bundleRows s l with
      | none => .error 5
      | some r => .ok (l, r)

/-- A resident graph takes its place in a control column and starts. -/
def loadResident (k : Nat) (s : State) (q : Resident × Nat × Nat) : State :=
  let (img, h, tiles) := q.1
  let y := q.2.1
  let (id, s) := s.fresh
  let key := cfgKey s k img 1 h
  let c : PlacedCfg := { key := key, hash := (sha512 img).take 32, w := 1, h := h, tiles := tiles, loaded := 0 }
  let i : Inst := { id := id, lid := 0, ctx := Config.residentCtx k, part := Config.residentPart k, stk := k, ox := 0, oy := y, w := 1, h := h, cfg := key
                    coords := [], levels := [], argp := 0, sways := 0, armed := false, halting := false, saved := false
                    wd := s.cyc k, holds := [], qstart := 0, ntags := tagCount [], binding := 0, resident := true, resid := q.2.2 }
  let s := cacheInsert s k c
  State.later { s with insts := s.insts ++ [i] } (.instantiate id)

def loadStack (l : List Resident) (s : State) (p : List Nat × Nat) : State :=
  ((l.zip p.1).zipIdx.map (fun q => (q.1.1, q.1.2, q.2))).foldl (loadResident p.2) s

/-- Steps 6 and 7: the resident graphs are loaded and started, and the management endpoint opens; the records of bring-up go to the
host. -/
def acceptBundle (s : State) (b : List Byte) (l : List Resident) (r : List (List Nat)) : State :=
  let s : State := { s with fwver := BitVec.ofNat 32 (leField b 4 4), bundleHash := sha512 (b.take (bundleLen b)) }
  let s := r.zipIdx.foldl (loadStack l) s
  let s : State := { s with boot := .running }
  s.mgq.ring.foldl (fun s x => s.send (.mgmt x)) s

/-- An endpoint that is no context's: the boot endpoint and the management endpoint. -/
def noCtx : Nat := 1024

/-- FIRMWARE_BUNDLE (R412 to R414): before its time it is refused at the transport, while another is checked as busy; else its check
begins. -/
def firmwareBundle (b : List Byte) (s : State) : State :=
  if s.boot ≠ .boot then s.send (.host noCtx 1 [])
  else if s.bundle.isSome then s.send (.host noCtx 5 (bytesOf 16 busyCheck))
  else State.later { s with bundle := some b } .bundleCheck
/-- The end of a bundle's check (R414): a refused bundle is discarded and answered by 16 bytes that name the first failed check. -/
def bundleCheck (s : State) : State :=
  match s.bundle with
  | none => s
  | some b =>
    let s : State := { s with bundle := none }
    match checkBundle s b with
    | .error n => s.send (.host noCtx 5 (bytesOf 16 n))
    | .ok (l, r) => acceptBundle s b l r
def execFirmwareBundle (b : List Byte) (s : State) : Outcome := .next (firmwareBundle b s)

/-! ## Identity (R415, R421) -/

def padTo (n : Nat) (b : List Byte) : List Byte := (b ++ List.replicate n 0).take n

/-- The first 512 bytes of the report. -/
def reportHead (s : State) (nonce : BitVec 256) : List Byte :=
  bytesOf 4 0x41545452 ++ bytesOf 4 s.fwver.toNat ++ bytesOf 8 Config.serial.toNat ++ padTo 64 s.bundleHash ++ padTo 64 Config.fusedDigest ++
  bytesOf 4 Config.fwMin ++ bytesOf 32 nonce.toNat ++ sha512 ((List.range 16).flatMap (fun p => padTo 64 (s.part p).defn)) ++ List.replicate 268 0

-- DEDUCED, log 140 (unsafe).
/-- ATTESTATION_REQUEST (R415): the report, with the public identity key after it. -/
def attestation (nonce : BitVec 256) (s : State) : State :=
  if s.boot ≠ .running then s.send (.host noCtx 1 [])
  else
    let h := reportHead s nonce
    s.send (.mgmt (h ++ padTo 512 (Config.sign h) ++ Config.identityKey))
def execAttestationRequest (nonce : BitVec 256) (s : State) : Outcome := .next (attestation nonce s)

/-- DEVID (R421): HOSTIF writes it at the host's request. -/
def writeDevid (v : Word) (s : State) : State :=
  if s.boot ≠ .running then s.send (.host noCtx 1 []) else setDevid s v
def execDevid (v : Word) (s : State) : Outcome := .next (writeDevid v s)

/-! ## The host port (R297, R331, R416) -/

/-- A context's endpoint is open (R412, R421). -/
def endpointOpen (s : State) (ctx : Nat) : Bool := decide (s.boot = .running) && s.devid.getLsbD 12 && (s.ctx ctx).part.isSome

/-- An RMA operation is refused with an error completion and a record. -/
def hostRefused (s : State) (ctx : Nat) (e : FInfo) : State :=
  (postNodeFault s { stk := 0, x := 0, y := 0 } ctx e 0 0 .none).send (.host ctx 4 [])

-- DEDUCED, log 141 (unsafe).
/-- An RMA operation registers its range, and is performed once the range is granted (R297). LOWN 63 has no meaning for the host
(R331). -/
def hostRma (w : Bool) (ctx va : Nat) (data : List Byte) (n : Nat) (s : State) : State :=
  if !endpointOpen s ctx then s.send (.host ctx 1 [])
  else if n = 0 then s.send (.host ctx 3 [])
  else
    let (op, s) := s.fresh
    let (wid, s) := s.fresh
    let h : HostOp := { op := op, ctx := ctx, w := w, va := va, data := data, n := n, regs := [] }
    if va / 2 ^ 50 % 64 = 63 then hostRefused s ctx (ownerFault s (h.access va))
    else
      match claim s (h.access va) (.host ctx) true wid [{ base := va, rowb := n, pitch := 0, rows := 1 }] (engineInfo 4 va) with
      | .error e => hostRefused s ctx e
      | .ok (.here k g u) =>
        (match firstConflict s k g with
         | some o => hostRefused s ctx (raceInfo va ctx o)
         | none =>
           let h := { h with regs := [(k, wid)] }
           if regsFit s [(k, g)] then
             let s := enterRegs s [(k, g)] u
             hostLines op h.parts { s with hostOps := s.hostOps ++ [h] }
           else
             let (rid, s) := s.fresh
             queueOpen { s with hostOps := s.hostOps ++ [{ h with opens := [rid] }] } rid (.host op) [(k, g)] u none)
      | .ok (.away d k x o _ _) =>
        if routed s 0 d then
          let (rid, s) := sendRemote s 0 ctx va (awayKey d k x o) (.host op)
            { req := blankReq, isOpen := true, openW := w, rowb := n, pitch := 0, rows := 1, range := true } none
          { s with hostOps := s.hostOps ++ [{ h with opens := [rid] }] }
        else hostRefused s ctx (fabricInfo s va AccKind.host.num ctx d none)

/-- HOST_RMA_WRITE (R297). -/
def execHostRmaWrite (ctx : Nat) (va : Word) (b : List Byte) (s : State) : Outcome := .next (hostRma true ctx va.toNat b b.length s)
/-- HOST_RMA_READ (R297). -/
def execHostRmaRead (ctx : Nat) (va : Word) (n : Nat) (s : State) : Outcome := .next (hostRma false ctx va.toNat [] n s)
/-- HOST_UNSUPPORTED (R416): an error completion and no other change. -/
def execHostUnsupported (_kind : Nat) (s : State) : Outcome := .next (s.send (.host noCtx (if s.boot = .running then 4 else 1) []))

end Sys2Proof.Machine
end

