-- ==== Sys2Proof/Machine/Integer.lean ====
section
/-! DEFINITION. The integer, bit-field, compare, predicate and address forms: OP 0x00 to 0x0A (R88 to R101). Each
reads its sources, computes as Alu says and writes its destination; RESIDUE leaves the destination as it was. -/

namespace Sys2Proof.Machine

/-- A two-source form of OP 0x00 to 0x02. -/
def runAlu3 (k : Alu3) (o : HR3) (s : State) : Outcome :=
  issueReg o.g unitInt (fun f => do
    need f (sl o.d ++ sl o.s ++ sl o.t)
    pure (f.setSlot o.d.toNat (alu3 k o.w (f.slot o.s.toNat) (f.slot o.t.toNat) (f.slot o.d.toNat)))) s

/-- A one-source form of OP 0x03. -/
def runAlu2 (k : Alu2) (o : HR2) (s : State) : Outcome :=
  issueReg o.g unitInt (fun f => do
    need f (sl o.d ++ sl o.s)
    pure (f.setSlot o.d.toNat (alu2 k o.w (f.slot o.s.toNat)))) s

/-- An immediate form of OP 0x04. -/
def runAluK (k : AluK) (o : HK) (s : State) : Outcome :=
  issueReg o.g unitInt (fun f => do
    need f (sl o.d ++ sl o.s)
    pure (f.setSlot o.d.toNat (aluK k (f.slot o.s.toNat) o.imm))) s

/-- A constant form of OP 0x05. -/
def runConst (k : Word → BitVec 29 → Word) (o : HI) (s : State) : Outcome :=
  issueReg o.g unitInt (fun f => do
    need f (sl o.d)
    pure (f.setSlot o.d.toNat (k (f.slot o.d.toNat) o.imm))) s

/-- BFX and BFXS. -/
def runBitField (sg : Bool) (o : BF) (s : State) : Outcome :=
  issueReg o.g unitInt (fun f => do
    need f (sl o.d ++ sl o.s)
    pure (f.setSlot o.d.toNat (bitField sg (f.slot o.s.toNat) o.pos.toNat (o.len1.toNat + 1)))) s

/-- A compare of OP 0x07. -/
def runCmp (c : Cond) (o : CMPo) (s : State) : Outcome :=
  issueReg o.g unitInt (fun f => do
    need f (sl o.s ++ sl o.t)
    pure (f.setPred o.p (cmpW c o.w (f.slot o.s.toNat) (f.slot o.t.toNat)))) s

/-- A compare of OP 0x08. -/
def runCmpK (c : Cond) (o : CMPIo) (s : State) : Outcome :=
  issueReg o.g unitInt (fun f => do
    need f (sl o.s)
    pure (f.setPred o.p (cmpK c (f.slot o.s.toNat) o.imm))) s

/-- A predicate form on two predicates (R99). -/
def runPred3 (k : Bool → Bool → Bool) (o : PP3) (s : State) : Outcome :=
  issueReg o.g unitInt (fun f => pure (f.setPred o.p (k (f.pred o.s) (f.pred o.t)))) s
/-- A predicate form on one. -/
def runPred2 (k : Bool → Bool) (o : PP2) (s : State) : Outcome :=
  issueReg o.g unitInt (fun f => pure (f.setPred o.p (k (f.pred o.s)))) s

/-- ADD (R92, R93). -/
def execAdd (o : HR3) (s : State) : Outcome := runAlu3 .add o s

/-- SUB (R92, R93). -/
def execSub (o : HR3) (s : State) : Outcome := runAlu3 .sub o s

/-- AND (R92, R93). -/
def execAnd (o : HR3) (s : State) : Outcome := runAlu3 .and o s

/-- OR (R92, R93). -/
def execOr (o : HR3) (s : State) : Outcome := runAlu3 .or o s

/-- XOR (R92, R93). -/
def execXor (o : HR3) (s : State) : Outcome := runAlu3 .xor o s

/-- ANDN (R92, R93). -/
def execAndn (o : HR3) (s : State) : Outcome := runAlu3 .andn o s

/-- ORN (R92, R93). -/
def execOrn (o : HR3) (s : State) : Outcome := runAlu3 .orn o s

/-- XNOR (R92, R93). -/
def execXnor (o : HR3) (s : State) : Outcome := runAlu3 .xnor o s

/-- SHL (R92, R93). -/
def execShl (o : HR3) (s : State) : Outcome := runAlu3 .shl o s

/-- SHR (R92, R93). -/
def execShr (o : HR3) (s : State) : Outcome := runAlu3 .shr o s

/-- SAR (R92, R93). -/
def execSar (o : HR3) (s : State) : Outcome := runAlu3 .sar o s

/-- ROL (R92, R93). -/
def execRol (o : HR3) (s : State) : Outcome := runAlu3 .rol o s

/-- MIN (R92, R93). -/
def execMin (o : HR3) (s : State) : Outcome := runAlu3 .min o s

/-- MAX (R92, R93). -/
def execMax (o : HR3) (s : State) : Outcome := runAlu3 .max o s

/-- MINU (R92, R93). -/
def execMinu (o : HR3) (s : State) : Outcome := runAlu3 .minu o s

/-- MAXU (R92, R93). -/
def execMaxu (o : HR3) (s : State) : Outcome := runAlu3 .maxu o s

/-- MUL (R92, R93). -/
def execMul (o : HR3) (s : State) : Outcome := runAlu3 .mul o s

/-- MULH (R92, R93). -/
def execMulh (o : HR3) (s : State) : Outcome := runAlu3 .mulh o s

/-- MULHU (R92, R93). -/
def execMulhu (o : HR3) (s : State) : Outcome := runAlu3 .mulhu o s

/-- MAD (R92, R93). -/
def execMad (o : HR3) (s : State) : Outcome := runAlu3 .mad o s

/-- DIVU (R92, R93). -/
def execDivu (o : HR3) (s : State) : Outcome := runAlu3 .divu o s

/-- REMU (R92, R93). -/
def execRemu (o : HR3) (s : State) : Outcome := runAlu3 .remu o s

/-- ABSD (R92, R93). -/
def execAbsd (o : HR3) (s : State) : Outcome := runAlu3 .absd o s

/-- MOV (R94). -/
def execMov (o : HR2) (s : State) : Outcome := runAlu2 .mov o s

/-- NEG (R94). -/
def execNeg (o : HR2) (s : State) : Outcome := runAlu2 .neg o s

/-- NOT (R94). -/
def execNot (o : HR2) (s : State) : Outcome := runAlu2 .not o s

/-- ABS (R94). -/
def execAbs (o : HR2) (s : State) : Outcome := runAlu2 .abs o s

/-- CLZ (R94). -/
def execClz (o : HR2) (s : State) : Outcome := runAlu2 .clz o s

/-- CTZ (R94). -/
def execCtz (o : HR2) (s : State) : Outcome := runAlu2 .ctz o s

/-- POPC (R94). -/
def execPopc (o : HR2) (s : State) : Outcome := runAlu2 .popc o s

/-- BREV (R94). -/
def execBrev (o : HR2) (s : State) : Outcome := runAlu2 .brev o s

/-- ADDI (R95). -/
def execAddi (o : HK) (s : State) : Outcome := runAluK .add o s

/-- ANDI (R95). -/
def execAndi (o : HK) (s : State) : Outcome := runAluK .and o s

/-- ORI (R95). -/
def execOri (o : HK) (s : State) : Outcome := runAluK .or o s

/-- XORI (R95). -/
def execXori (o : HK) (s : State) : Outcome := runAluK .xor o s

/-- SHLI (R95). -/
def execShli (o : HK) (s : State) : Outcome := runAluK .shl o s

/-- SHRI (R95). -/
def execShri (o : HK) (s : State) : Outcome := runAluK .shr o s

/-- SARI (R95). -/
def execSari (o : HK) (s : State) : Outcome := runAluK .sar o s

/-- MULI (R95). -/
def execMuli (o : HK) (s : State) : Outcome := runAluK .mul o s

/-- LI (R96). -/
def execLi (o : HI) (s : State) : Outcome := runConst (fun _ i => constLi i) o s
/-- LUI (R96). -/
def execLui (o : HI) (s : State) : Outcome := runConst (fun _ i => constLui i) o s
/-- LTOP (R96): D is read and written. -/
def execLtop (o : HI) (s : State) : Outcome := runConst constLtop o s
/-- BFX (R97). -/
def execBfx (o : BF) (s : State) : Outcome := runBitField false o s
/-- BFXS (R97). -/
def execBfxs (o : BF) (s : State) : Outcome := runBitField true o s
/-- BFI (R97): D is read and written. -/
def execBfi (o : BFIo) (s : State) : Outcome :=
  issueReg o.g unitInt (fun f => do
    need f (sl o.d ++ sl o.s ++ sl o.t)
    pure (f.setSlot o.d.toNat
      (bitInsert (f.slot o.d.toNat) (f.slot o.s.toNat) (f.slot o.t.toNat) o.pos.toNat (o.len1.toNat + 1)))) s
/-- SEL (R97): p0 selects S. -/
def execSel (o : SELo) (s : State) : Outcome :=
  issueReg o.g unitInt (fun f => do
    need f (sl o.d ++ sl o.s ++ sl o.t)
    pure (f.setSlot o.d.toNat (if f.pred o.p then f.slot o.s.toNat else f.slot o.t.toNat))) s

/-- CMP.EQ (R98). -/
def execCmpEq (o : CMPo) (s : State) : Outcome := runCmp .eq o s

/-- CMP.NE (R98). -/
def execCmpNe (o : CMPo) (s : State) : Outcome := runCmp .ne o s

/-- CMP.LT (R98). -/
def execCmpLt (o : CMPo) (s : State) : Outcome := runCmp .lt o s

/-- CMP.LE (R98). -/
def execCmpLe (o : CMPo) (s : State) : Outcome := runCmp .le o s

/-- CMP.LTU (R98). -/
def execCmpLtu (o : CMPo) (s : State) : Outcome := runCmp .ltu o s

/-- CMP.LEU (R98). -/
def execCmpLeu (o : CMPo) (s : State) : Outcome := runCmp .leu o s

/-- CMP.TST (R98). -/
def execCmpTst (o : CMPo) (s : State) : Outcome := runCmp .tst o s

/-- CMPI.EQ (R98). -/
def execCmpiEq (o : CMPIo) (s : State) : Outcome := runCmpK .eq o s

/-- CMPI.NE (R98). -/
def execCmpiNe (o : CMPIo) (s : State) : Outcome := runCmpK .ne o s

/-- CMPI.LT (R98). -/
def execCmpiLt (o : CMPIo) (s : State) : Outcome := runCmpK .lt o s

/-- CMPI.LE (R98). -/
def execCmpiLe (o : CMPIo) (s : State) : Outcome := runCmpK .le o s

/-- CMPI.LTU (R98). -/
def execCmpiLtu (o : CMPIo) (s : State) : Outcome := runCmpK .ltu o s

/-- CMPI.LEU (R98). -/
def execCmpiLeu (o : CMPIo) (s : State) : Outcome := runCmpK .leu o s

/-- CMPI.TST (R98). -/
def execCmpiTst (o : CMPIo) (s : State) : Outcome := runCmpK .tst o s

/-- PAND (R99). -/
def execPand (o : PP3) (s : State) : Outcome := runPred3 (fun a b => a && b) o s
/-- POR (R99). -/
def execPor (o : PP3) (s : State) : Outcome := runPred3 (fun a b => a || b) o s
/-- PXOR (R99). -/
def execPxor (o : PP3) (s : State) : Outcome := runPred3 (fun a b => a != b) o s
/-- PNOT (R99). -/
def execPnot (o : PP2) (s : State) : Outcome := runPred2 (fun a => !a) o s
/-- PMOV (R99). -/
def execPmov (o : PP2) (s : State) : Outcome := runPred2 (fun a => a) o s
/-- PSET (R99). -/
def execPset (o : PSETo) (s : State) : Outcome :=
  issueReg o.g unitInt (fun f => pure (f.setPred o.p o.v)) s
/-- PLD (R99). -/
def execPld (o : PLDo) (s : State) : Outcome :=
  issueReg o.g unitInt (fun f => do
    need f (sl o.s)
    pure (f.setPred o.p ((f.slot o.s.toNat).getLsbD o.bit.toNat))) s

/-- AGEN (R101): only the slots of the dimensions used are read. -/
def execAgen (o : AGENo) (s : State) : Outcome :=
  issueReg o.g unitInt (fun f => do
    let m := o.m1.toNat + 1
    need f (sl o.d ++ sl o.s ++ shapeSlots o.q m)
    pure (f.setSlot o.d.toNat (narrow 64 (agenWalk (shapeWords f o.q m) (f.slot o.s.toNat).toNat 0)))) s
/-- AINC (R101). -/
def execAinc (o : AINCo) (s : State) : Outcome :=
  issueReg o.g unitInt (fun f => do
    need f (sl o.d ++ shapeSlots o.q o.k.toNat)
    pure (f.setSlot o.d.toNat
      (narrowN 64 ((f.slot o.d.toNat).toNat + boundProduct (shapeWords f o.q o.k.toNat))))) s
/-- ACHK (R101). -/
def execAchk (o : ACHKo) (s : State) : Outcome :=
  issueReg o.g unitInt (fun f => do
    let m := o.m1.toNat + 1
    need f (sl o.s ++ shapeSlots o.q m)
    pure (f.setPred o.p (decide ((f.slot o.s.toNat).toNat < boundProduct (shapeWords f o.q m))))) s

end Sys2Proof.Machine
end

