-- ==== Sys2Proof/Machine/System.lean ====
section
/-! DEFINITION. Special registers, traps, event records, the cycle counter and LAUNCH: OP 0x38 (R111 to R116). -/

namespace Sys2Proof.Machine

/-! ## Special registers (R111, R112) -/

/-- The coordinate of a tag at a FIRING level (R226): innermost fastest. -/
def tagCoord : List Level → Nat → Nat → Nat
  | [], _, _ => 0
  | l :: r, 0, f => f / (r.map (fun x => x.count)).foldl (· * ·) 1 % l.count
  | _ :: r, n + 1, f => tagCoord r n f

/-- SRD LVn (R226): the instance's coordinate, or the tag's at a FIRING level; 0 for an undeclared level. -/
def levelCoord (i : Inst) (tag n : Nat) : Nat :=
  match i.levels[n]? with
  | none => 0
  | some l => if l.domain = 0 then tagCoord i.levels n tag else i.coords.getD n 0

/-- LCn: bound and index of an active counter. -/
def loopReg (f : Firing) (n : Nat) : Word :=
  match tabFind f.loops n with
  | some l => BitVec.ofNat 64 (l.bound * 2 ^ 32 + l.index)
  | none => 0

-- DEDUCED, log 31 (unsafe).
/-- PSINFO: the banks the context owns on this stack, and the SWAYS of the reading firing's instance. -/
def psinfo (s : State) (t : TileId) (f : Firing) : Word :=
  let n := ((s.stack t.stk).banks.filter (fun b => b.2.1 == s.ctxOf f)).length
  let w := match instOf s f with | some i => i.sways | none => 0
  BitVec.ofNat 64 (n * 256 + w)

/-- A special register's value (R111). -/
def sregRead (s : State) (t : TileId) (f : Firing) (idx : Nat) : Word :=
  let i := instOf s f
  let n := fun (v : Nat) => BitVec.ofNat 64 v
  if idx = 0x00 then n f.tag.toNat
  else if idx = 0x01 then n (s.ctxOf f)
  else if idx = 0x02 then n f.node
  else if idx = 0x03 then n t.x
  else if idx = 0x04 then n t.y
  else if idx = 0x05 then n t.stk
  else if idx = 0x06 then n s.dev
  else if idx = 0x07 then n (match i with | some x => x.part | none => 0)
  else if 0x08 ≤ idx ∧ idx ≤ 0x0F then n (match i with | some x => levelCoord x f.tag.toNat (idx - 8) | none => 0)
  else if idx = 0x10 then (match i with | some x => x.argp | none => 0)
  else if idx = 0x11 then (s.ctx (s.ctxOf f)).evq.base
  else if idx = 0x12 then n f.fpf.toNat
  else if 0x14 ≤ idx ∧ idx ≤ 0x17 then loopReg f (idx - 0x14)
  else if 0x18 ≤ idx ∧ idx ≤ 0x1F then (tabGet {} s.planes (idx - 0x18)).gseq
  else if idx = 0x20 then psinfo s t f
  else if idx = 0x21 then firidOf f
  else if idx = 0x80 then n s.fwver.toNat
  else n (match i with | some x => x.resid | none => 0)

/-- Indices from 0x80 up are accepted in the control region only (R111). -/
def sregOk (idx : BitVec 8) (_ : State) (t : TileId) (_ : Firing) : Bool := decide (idx.toNat < 0x80) || isControl t

/-- SRD (R111). -/
def execSrd (o : SRDo) (s : State) : Outcome :=
  issue o.g .plain (sregOk o.idx) (fun s t f => do
    need f (sl o.d)
    pure { s := s, f := f.setSlot o.d.toNat (sregRead s t f o.idx.toNat) }) s

/-- SWR (R111, R112): FPF from S[3:0]. -/
def execSwr (o : SWRo) (s : State) : Outcome :=
  issue o.g .plain (sregOk o.idx) (fun s _ f => do
    need f (sl o.s)
    pure { s := s, f := { f with fpf := (f.slot o.s.toNat).extractLsb' 0 4 } }) s

/-! ## Traps (R114) -/

-- DEDUCED, log 17 (unsafe).
/-- TRAP (R114, R241): the firing is suspended with PC at the word after it. -/
def execTrap (o : M16) (s : State) : Outcome :=
  issue o.g .plain always (fun s t f =>
    let s := takeFault s t f { code := .trap, detail := fld 0 2 o.m.toNat }
    match s.firing? t f.id with
    | some f' => pure { s := s, f := f'.advance, moved := true }
    | none => pure { s := s, f := f, moved := true }) s

/-- BRK (R114, R405): under debug control the firing is suspended at it and the tile halts. -/
def execBrk (o : M16) (s : State) : Outcome :=
  issue o.g .plain always (fun s t f =>
    if (s.tile t).dbg.brken then
      let x := s.tile t
      let s := (s.setTile t { x with dbg := { x.dbg with halt := true } }).later (.haltPoint t)
      let s := suspendFiring s t { f with debug := true }
      match s.firing? t f.id with
      | some f' => pure { s := s, f := f', moved := true }
      | none => pure { s := s, f := f, moved := true }
    else raise .brk (fld 0 2 o.m.toNat)) s

/-! ## Events, cycles, launches (R113, R115, R116) -/

/-- EVPOST (R115): the record is held to retire. -/
def execEvpost (o : OneQ) (s : State) : Outcome :=
  issue o.g .plain always (fun s _ f => do
    need f (octSlots o.q)
    pure { s := s, f := { f with out := f.out ++ [.event (BitVec.ofNat 512 (f.octet o.q))] } }) s

/-- CYC (R113). -/
def execCyc (o : OneD) (s : State) : Outcome :=
  issue o.g .plain always (fun s t f => do
    need f (sl o.d)
    pure { s := s, f := f.setSlot o.d.toNat (BitVec.ofNat 64 (s.cyc t.stk)) }) s

/-- LAUNCH (R116): the record is read now and submitted at retire. -/
def execLaunch (o : DS) (s : State) : Outcome :=
  issue o.g .plain always (fun s t f => do
    need f (sl o.d ++ sl o.s)
    let va := (f.slot o.s.toNat).toNat
    unless_ (va % 64 == 0) .align (vaDetail va)
    unless_ (covered f va 256 false) .window (vaDetail va)
    match plainRead t f 4 s va 256 [] with
    | .error e => .error e
    | .ok (.ask d) => pure d
    | .ok (.got b s) =>
      let c := s.ctxOf f
      let x := s.ctx c
      let id := x.nextLid % 2 ^ 32
      pure { s := s.setCtx c { x with nextLid := x.nextLid + 1 }
             f := { f.setSlot o.d.toNat (BitVec.ofNat 64 id) with out := f.out ++ [.launch id b] } }) s

end Sys2Proof.Machine
end

