-- ==== Sys2Proof/Machine/Flags.lean ====
section
/-! DEFINITION. The sticky floating-point flags FPF (R23, R112, R125) and the results that raise them. -/

namespace Sys2Proof.Machine

/-- Flags raised are sticky (R112, R125). -/
def Firing.raiseFlags (f : Firing) (x : Flags) : Firing := { f with fpf := f.fpf ||| x.bits }

/-- A result in the low bits of slot D with its flags (R121). -/
def Firing.setFloat (f : Firing) (d : BitVec 10) (r : Nat × Flags) : Firing :=
  (f.setSlot d.toNat (BitVec.ofNat 64 r.1)).raiseFlags r.2

/-- An octet result with its flags. -/
def Firing.setOctetF (f : Firing) (q : BitVec 7) (r : Nat × Flags) : Firing := (f.setOctet q r.1).raiseFlags r.2

end Sys2Proof.Machine
end

