-- ==== Sys2Proof/Machine/FloatForms.lean ====
section
/-! DEFINITION. The scalar floating forms, OP 0x18 to 0x1B (R121 to R132): values in the low bits of a slot, the
rest of the destination zero, flags ORed into FPF (R125). -/

namespace Sys2Proof.Machine

/-- A form on S and T; `k` takes the format and the three patterns (D is read by FFMA alone). -/
def runF3 (k : Fmt → Nat → Nat → Nat → Nat × Flags) (o : F3) (s : State) : Outcome :=
  issueReg o.g unitFloat (fun f => do
    need f (sl o.d ++ sl o.s ++ sl o.t)
    pure (f.setFloat o.d (k (fmtOf o.ty) (f.slot o.s.toNat).toNat (f.slot o.t.toNat).toNat (f.slot o.d.toNat).toNat))) s

/-- A form on S (R129). -/
def runF2 (k : Fmt → Nat → Nat × Flags) (o : F2) (s : State) : Outcome :=
  issueReg o.g unitFloat (fun f => do
    need f (sl o.d ++ sl o.s)
    pure (f.setFloat o.d (k (fmtOf o.ty) (f.slot o.s.toNat).toNat))) s

/-- A compare (R131). -/
def runFcmp (cc : Nat) (o : FCMPo) (s : State) : Outcome :=
  issueReg o.g unitFloat (fun f => do
    need f (sl o.s ++ sl o.t)
    let r := fCond (fmtOf o.ty) cc (f.slot o.s.toNat).toNat (f.slot o.t.toNat).toNat
    pure ((f.setPred o.p r.1).raiseFlags r.2)) s

/-- FADD (R127, R128). -/
def execFadd (o : F3) (s : State) : Outcome := runF3 (fun m a b _ => fAdd m a b) o s

/-- FSUB (R127, R128). -/
def execFsub (o : F3) (s : State) : Outcome := runF3 (fun m a b _ => fSub m a b) o s

/-- FMUL (R127, R128). -/
def execFmul (o : F3) (s : State) : Outcome := runF3 (fun m a b _ => fMul m a b) o s

/-- FMIN (R127, R128). -/
def execFmin (o : F3) (s : State) : Outcome := runF3 (fun m a b _ => fMin m a b) o s

/-- FMAX (R127, R128). -/
def execFmax (o : F3) (s : State) : Outcome := runF3 (fun m a b _ => fMax m a b) o s

/-- FCPYS (R127, R128). -/
def execFcpys (o : F3) (s : State) : Outcome := runF3 (fun m a b _ => fCpys m a b) o s

/-- FFMA (R127): D is read and written, one rounding. -/
def execFfma (o : F3) (s : State) : Outcome := runF3 (fun m a b d => fFma m a b d) o s

/-- FRCP (R129, R130). -/
def execFrcp (o : F2) (s : State) : Outcome := runF2 fRcp o s

/-- FRSQ (R129, R130). -/
def execFrsq (o : F2) (s : State) : Outcome := runF2 fRsq o s

/-- FSQRT (R129, R130). -/
def execFsqrt (o : F2) (s : State) : Outcome := runF2 fSqrt o s

/-- FEXP2 (R129, R130). -/
def execFexp2 (o : F2) (s : State) : Outcome := runF2 fExp2 o s

/-- FLOG2 (R129, R130). -/
def execFlog2 (o : F2) (s : State) : Outcome := runF2 fLog2 o s

/-- FNEG (R129, R130). -/
def execFneg (o : F2) (s : State) : Outcome := runF2 fNeg o s

/-- FABS (R129, R130). -/
def execFabs (o : F2) (s : State) : Outcome := runF2 fAbs o s

/-- FRND (R129, R130). -/
def execFrnd (o : F2) (s : State) : Outcome := runF2 fRnd o s

/-- FCMP.EQ (R131). -/
def execFcmpEq (o : FCMPo) (s : State) : Outcome := runFcmp 0 o s

/-- FCMP.NE (R131). -/
def execFcmpNe (o : FCMPo) (s : State) : Outcome := runFcmp 1 o s

/-- FCMP.LT (R131). -/
def execFcmpLt (o : FCMPo) (s : State) : Outcome := runFcmp 2 o s

/-- FCMP.LE (R131). -/
def execFcmpLe (o : FCMPo) (s : State) : Outcome := runFcmp 3 o s

/-- FCMP.UN (R131). -/
def execFcmpUn (o : FCMPo) (s : State) : Outcome := runFcmp 4 o s

/-- The format of an FP8 field. -/
def f8Of (e5m2 : Bool) : Fmt := if e5m2 then fmtE5M2 else fmtE4M3

/-- CVTIF (R132). -/
def execCvtif (o : CVTI) (s : State) : Outcome :=
  issueReg o.g unitFloat (fun f => do
    need f (sl o.d ++ sl o.s)
    pure (f.setFloat o.d (cvtIF (fmtOf o.fty) o.ity (f.slot o.s.toNat)))) s
/-- CVTFI (R132, R121). -/
def execCvtfi (o : CVTI) (s : State) : Outcome :=
  issueReg o.g unitFloat (fun f => do
    need f (sl o.d ++ sl o.s)
    let r := cvtFI (fmtOf o.fty) o.ity (f.slot o.s.toNat)
    pure ((f.setSlot o.d.toNat r.1).raiseFlags r.2)) s
/-- CVTFF (R132): a saturating conversion. -/
def execCvtff (o : CVTFFo) (s : State) : Outcome :=
  issueReg o.g unitFloat (fun f => do
    need f (sl o.d ++ sl o.s)
    pure (f.setFloat o.d (fConv (fmtOf o.src) (fmtOf o.tgt) true (f.slot o.s.toNat).toNat))) s
/-- CVTF8 (R132): a saturating conversion. -/
def execCvtf8 (o : CVT8) (s : State) : Outcome :=
  issueReg o.g unitFloat (fun f => do
    need f (sl o.d ++ sl o.s)
    pure (f.setFloat o.d (fConv (fmtOf o.fty) (f8Of o.e5m2) true (f.slot o.s.toNat).toNat))) s
/-- CVT8F (R132): exact, infinities kept. -/
def execCvt8f (o : CVT8) (s : State) : Outcome :=
  issueReg o.g unitFloat (fun f => do
    need f (sl o.d ++ sl o.s)
    pure (f.setFloat o.d (fConv (f8Of o.e5m2) (fmtOf o.fty) false (f.slot o.s.toNat).toNat))) s

end Sys2Proof.Machine
end

