-- ==== Sys2Proof/Machine/Vector.lean ====
section
/-! DEFINITION. The vector forms, OP 0x20 to 0x25 (R133 to R142): octets read whole before any is written
(R123), every octet checked against the frame (R52). -/

namespace Sys2Proof.Machine

/-- A form of OP 0x20. -/
def runV3 (k : VArith) (o : V3) (s : State) : Outcome :=
  issueReg o.g unitFloat (fun f => do
    need f (octSlots o.d ++ octSlots o.s ++ octSlots o.t)
    pure (f.setOctet o.d (vArith k o.ty o.sat (f.octet o.d) (f.octet o.s) (f.octet o.t)))) s
/-- A form of OP 0x21 on two sources. -/
def runVL3 (k : VLogic) (o : VL3) (s : State) : Outcome :=
  issueReg o.g unitFloat (fun f => do
    need f (octSlots o.d ++ octSlots o.s ++ octSlots o.t)
    pure (f.setOctet o.d (vLogic k o.ty (f.octet o.s) (f.octet o.t)))) s
/-- A form of OP 0x22 on two sources; VFFMA reads D. -/
def runVF3 (k : VFloat) (o : VF3) (s : State) : Outcome :=
  issueReg o.g unitFloat (fun f => do
    need f (octSlots o.d ++ octSlots o.s ++ octSlots o.t)
    pure (f.setOctetF o.d (vFloat k o.ty (f.octet o.d) (f.octet o.s) (f.octet o.t)))) s
/-- A form of OP 0x22 on one source. -/
def runVF2 (k : VFloat) (o : VF2) (s : State) : Outcome :=
  issueReg o.g unitFloat (fun f => do
    need f (octSlots o.d ++ octSlots o.s)
    pure (f.setOctetF o.d (vFloat k o.ty 0 (f.octet o.s) 0))) s
/-- An octet computed from one octet, without flags. -/
def runQ2 (g : BitVec 4) (d q : BitVec 7) (k : Nat → Nat) (s : State) : Outcome :=
  issueReg g noUnit (fun f => do
    need f (octSlots d ++ octSlots q)
    pure (f.setOctet d (k (f.octet q)))) s
/-- A reduction in an arithmetic unit: slot 8D, the other slots of the octet zero (R140). -/
def runRed (unit : Nat) (g : BitVec 4) (d q : BitVec 7) (k : Nat → Nat × Flags) (s : State) : Outcome :=
  issueReg g unit (fun f => do
    need f (octSlots d ++ octSlots q)
    pure (f.setOctetF d (k (f.octet q)))) s
/-- A pair computed from a pair. -/
def runPair (g : BitVec 4) (d q : BitVec 7) (k : Nat → Nat) (s : State) : Outcome :=
  issueReg g noUnit (fun f => do
    need f (pairSlots d ++ pairSlots q)
    pure (f.setSlotsNat (8 * d.toNat) (k (f.slotsNat (8 * q.toNat) 16)) 16)) s

/-- VADD (R134). -/
def execVadd (o : V3) (s : State) : Outcome := runV3 .add o s

/-- VSUB (R134). -/
def execVsub (o : V3) (s : State) : Outcome := runV3 .sub o s

/-- VMUL (R134). -/
def execVmul (o : V3) (s : State) : Outcome := runV3 .mul o s

/-- VMAD (R134). -/
def execVmad (o : V3) (s : State) : Outcome := runV3 .mad o s

/-- VMIN (R134). -/
def execVmin (o : V3) (s : State) : Outcome := runV3 .min o s

/-- VMAX (R134). -/
def execVmax (o : V3) (s : State) : Outcome := runV3 .max o s

/-- VABSD (R134). -/
def execVabsd (o : V3) (s : State) : Outcome := runV3 .absd o s

/-- VAVG (R134). -/
def execVavg (o : V3) (s : State) : Outcome := runV3 .avg o s

/-- VAND (R135). -/
def execVand (o : VL3) (s : State) : Outcome := runVL3 .and o s

/-- VOR (R135). -/
def execVor (o : VL3) (s : State) : Outcome := runVL3 .or o s

/-- VXOR (R135). -/
def execVxor (o : VL3) (s : State) : Outcome := runVL3 .xor o s

/-- VANDN (R135). -/
def execVandn (o : VL3) (s : State) : Outcome := runVL3 .andn o s

/-- VSHL (R135). -/
def execVshl (o : VL3) (s : State) : Outcome := runVL3 .shl o s

/-- VSHR (R135). -/
def execVshr (o : VL3) (s : State) : Outcome := runVL3 .shr o s

/-- VSAR (R135). -/
def execVsar (o : VL3) (s : State) : Outcome := runVL3 .sar o s

/-- VPOPC (R135). -/
def execVpopc (o : VI2) (s : State) : Outcome :=
  issueReg o.g unitFloat (fun f => do
    need f (octSlots o.d ++ octSlots o.s)
    pure (f.setOctet o.d (vLogic .popc o.ty (f.octet o.s) 0))) s

/-- VFADD (R136). -/
def execVfadd (o : VF3) (s : State) : Outcome := runVF3 .add o s

/-- VFSUB (R136). -/
def execVfsub (o : VF3) (s : State) : Outcome := runVF3 .sub o s

/-- VFMUL (R136). -/
def execVfmul (o : VF3) (s : State) : Outcome := runVF3 .mul o s

/-- VFFMA (R136). -/
def execVffma (o : VF3) (s : State) : Outcome := runVF3 .fma o s

/-- VFMIN (R136). -/
def execVfmin (o : VF3) (s : State) : Outcome := runVF3 .min o s

/-- VFMAX (R136). -/
def execVfmax (o : VF3) (s : State) : Outcome := runVF3 .max o s

/-- VFEXP2 (R136). -/
def execVfexp2 (o : VF2) (s : State) : Outcome := runVF2 .exp2 o s

/-- VFRCP (R136). -/
def execVfrcp (o : VF2) (s : State) : Outcome := runVF2 .rcp o s

/-- VCMP.cc (R137). -/
def execVcmp (o : VCMPo) (s : State) : Outcome :=
  issueReg o.g noUnit (fun f => do
    need f (octSlots o.d ++ octSlots o.s ++ octSlots o.t)
    pure (f.setOctet o.d (vCmp o.ty o.cc.toNat (f.octet o.s) (f.octet o.t)))) s
/-- VFCMP.cc (R137). -/
def execVfcmp (o : VFCMPo) (s : State) : Outcome :=
  issueReg o.g unitFloat (fun f => do
    need f (octSlots o.d ++ octSlots o.s ++ octSlots o.t)
    pure (f.setOctetF o.d (vFcmp o.ty o.cc.toNat (f.octet o.s) (f.octet o.t)))) s
/-- VSEL (R137): the mask octet is checked too (R133). -/
def execVsel (o : VSELo) (s : State) : Outcome :=
  issueReg o.g noUnit (fun f => do
    need f (octSlots o.d ++ octSlots o.s ++ octSlots o.t ++ octSlots o.m)
    pure (f.setOctet o.d (vSel o.ty (f.octet o.s) (f.octet o.t) (f.octet o.m)))) s
/-- VBCAST (R137). -/
def execVbcast (o : VBCASTo) (s : State) : Outcome :=
  issueReg o.g noUnit (fun f => do
    need f (octSlots o.d ++ sl o.s)
    pure (f.setOctet o.d (vBcast o.ty (f.slot o.s.toNat)))) s
/-- VEXT (R137). -/
def execVext (o : VEXTo) (s : State) : Outcome :=
  issueReg o.g noUnit (fun f => do
    need f (sl o.d ++ octSlots o.s)
    pure (f.setSlot o.d.toNat (vExt o.ty (f.octet o.s) o.lane.toNat))) s
/-- VINS (R137). -/
def execVins (o : VINSo) (s : State) : Outcome :=
  issueReg o.g noUnit (fun f => do
    need f (octSlots o.d ++ sl o.s)
    pure (f.setOctet o.d (vIns o.ty (f.octet o.d) (f.slot o.s.toNat) o.lane.toNat))) s
/-- VPERM (R138). -/
def execVperm (o : VPERMo) (s : State) : Outcome :=
  issueReg o.g noUnit (fun f => do
    need f (octSlots o.d ++ octSlots o.s ++ octSlots o.t)
    pure (f.setOctet o.d (vPerm o.ty (f.octet o.s) (f.octet o.t)))) s
/-- VSHUF (R139). -/
def execVshuf (o : VSHUFo) (s : State) : Outcome := runQ2 o.g o.d o.s (vShuf o.ty o.op.toNat o.k.toNat) s
/-- VREDADD (R140). -/
def execVredadd (o : VI2) (s : State) : Outcome := runRed noUnit o.g o.d o.s (fun v => ((vRed .add o.ty v).toNat, .none)) s
/-- VREDMAX (R140). -/
def execVredmax (o : VI2) (s : State) : Outcome := runRed noUnit o.g o.d o.s (fun v => ((vRed .max o.ty v).toNat, .none)) s
/-- VREDMIN (R140). -/
def execVredmin (o : VI2) (s : State) : Outcome := runRed noUnit o.g o.d o.s (fun v => ((vRed .min o.ty v).toNat, .none)) s
/-- VFREDADD (R140). -/
def execVfredadd (o : VF2) (s : State) : Outcome := runRed unitFloat o.g o.d o.s (vFredAdd o.ty) s
/-- VFREDMAX (R140). -/
def execVfredmax (o : VF2) (s : State) : Outcome := runRed unitFloat o.g o.d o.s (vFredMax o.ty) s
/-- The unit of a conversion: the floating datapath where a float type is on either side (R126). -/
def cvtUnit (src tgt : LTy) : Nat :=
  match src, tgt with
  | .int _, .int _ => noUnit
  | _, _ => unitFloat
/-- VCVT (R141). -/
def execVcvt (o : VCVTo) (s : State) : Outcome :=
  issueReg o.g (cvtUnit o.src o.tgt) (fun f => do
    need f (octSlots o.d ++ octSlots o.s)
    pure (f.setOctetF o.d (vCvt o.src o.tgt o.sat (f.octet o.s)))) s
/-- VPLANE (R142): word p holds bit p of the 64 byte samples. -/
def execVplane (o : VI2) (s : State) : Outcome := runQ2 o.g o.d o.s (transpose 8 64) s
/-- VUNPLANE (R142). -/
def execVunplane (o : VI2) (s : State) : Outcome := runQ2 o.g o.d o.s (transpose 64 8) s
/-- VPLANE16 (R142). -/
def execVplane16 (o : VI2) (s : State) : Outcome := runPair o.g o.d o.s (transpose 16 64) s
/-- VUNPLANE16 (R142). -/
def execVunplane16 (o : VI2) (s : State) : Outcome := runPair o.g o.d o.s (transpose 64 16) s

end Sys2Proof.Machine
end

