-- ==== Sys2Proof/Machine/Dispatch.lean ====
section
/-! DEFINITION. The meaning of every instruction: one arm per constructor, each one call. -/

namespace Sys2Proof.Machine

def exec (i : Instr) (s : State) : Host.Outcome State Fault Refusal :=
  match i with
  | .add o => Sys2Proof.Machine.execAdd o s
  | .sub o => Sys2Proof.Machine.execSub o s
  | .and o => Sys2Proof.Machine.execAnd o s
  | .or o => Sys2Proof.Machine.execOr o s
  | .xor o => Sys2Proof.Machine.execXor o s
  | .andn o => Sys2Proof.Machine.execAndn o s
  | .orn o => Sys2Proof.Machine.execOrn o s
  | .xnor o => Sys2Proof.Machine.execXnor o s
  | .shl o => Sys2Proof.Machine.execShl o s
  | .shr o => Sys2Proof.Machine.execShr o s
  | .sar o => Sys2Proof.Machine.execSar o s
  | .rol o => Sys2Proof.Machine.execRol o s
  | .min o => Sys2Proof.Machine.execMin o s
  | .max o => Sys2Proof.Machine.execMax o s
  | .minu o => Sys2Proof.Machine.execMinu o s
  | .maxu o => Sys2Proof.Machine.execMaxu o s
  | .mul o => Sys2Proof.Machine.execMul o s
  | .mulh o => Sys2Proof.Machine.execMulh o s
  | .mulhu o => Sys2Proof.Machine.execMulhu o s
  | .mad o => Sys2Proof.Machine.execMad o s
  | .divu o => Sys2Proof.Machine.execDivu o s
  | .remu o => Sys2Proof.Machine.execRemu o s
  | .absd o => Sys2Proof.Machine.execAbsd o s
  | .mov o => Sys2Proof.Machine.execMov o s
  | .neg o => Sys2Proof.Machine.execNeg o s
  | .not o => Sys2Proof.Machine.execNot o s
  | .abs o => Sys2Proof.Machine.execAbs o s
  | .clz o => Sys2Proof.Machine.execClz o s
  | .ctz o => Sys2Proof.Machine.execCtz o s
  | .popc o => Sys2Proof.Machine.execPopc o s
  | .brev o => Sys2Proof.Machine.execBrev o s
  | .addi o => Sys2Proof.Machine.execAddi o s
  | .andi o => Sys2Proof.Machine.execAndi o s
  | .ori o => Sys2Proof.Machine.execOri o s
  | .xori o => Sys2Proof.Machine.execXori o s
  | .shli o => Sys2Proof.Machine.execShli o s
  | .shri o => Sys2Proof.Machine.execShri o s
  | .sari o => Sys2Proof.Machine.execSari o s
  | .muli o => Sys2Proof.Machine.execMuli o s
  | .li o => Sys2Proof.Machine.execLi o s
  | .lui o => Sys2Proof.Machine.execLui o s
  | .ltop o => Sys2Proof.Machine.execLtop o s
  | .bfx o => Sys2Proof.Machine.execBfx o s
  | .bfxs o => Sys2Proof.Machine.execBfxs o s
  | .bfi o => Sys2Proof.Machine.execBfi o s
  | .sel o => Sys2Proof.Machine.execSel o s
  | .cmpEq o => Sys2Proof.Machine.execCmpEq o s
  | .cmpNe o => Sys2Proof.Machine.execCmpNe o s
  | .cmpLt o => Sys2Proof.Machine.execCmpLt o s
  | .cmpLe o => Sys2Proof.Machine.execCmpLe o s
  | .cmpLtu o => Sys2Proof.Machine.execCmpLtu o s
  | .cmpLeu o => Sys2Proof.Machine.execCmpLeu o s
  | .cmpTst o => Sys2Proof.Machine.execCmpTst o s
  | .cmpiEq o => Sys2Proof.Machine.execCmpiEq o s
  | .cmpiNe o => Sys2Proof.Machine.execCmpiNe o s
  | .cmpiLt o => Sys2Proof.Machine.execCmpiLt o s
  | .cmpiLe o => Sys2Proof.Machine.execCmpiLe o s
  | .cmpiLtu o => Sys2Proof.Machine.execCmpiLtu o s
  | .cmpiLeu o => Sys2Proof.Machine.execCmpiLeu o s
  | .cmpiTst o => Sys2Proof.Machine.execCmpiTst o s
  | .pand o => Sys2Proof.Machine.execPand o s
  | .por o => Sys2Proof.Machine.execPor o s
  | .pxor o => Sys2Proof.Machine.execPxor o s
  | .pnot o => Sys2Proof.Machine.execPnot o s
  | .pset o => Sys2Proof.Machine.execPset o s
  | .pmov o => Sys2Proof.Machine.execPmov o s
  | .pld o => Sys2Proof.Machine.execPld o s
  | .agen o => Sys2Proof.Machine.execAgen o s
  | .ainc o => Sys2Proof.Machine.execAinc o s
  | .achk o => Sys2Proof.Machine.execAchk o s
  | .br o => Sys2Proof.Machine.execBr o s
  | .call o => Sys2Proof.Machine.execCall o s
  | .ret g => Sys2Proof.Machine.execRet g s
  | .jr o => Sys2Proof.Machine.execJr o s
  | .loop o => Sys2Proof.Machine.execLoop o s
  | .loopi o => Sys2Proof.Machine.execLoopi o s
  | .loops o => Sys2Proof.Machine.execLoops o s
  | .lbrk o => Sys2Proof.Machine.execLbrk o s
  | .exit g => Sys2Proof.Machine.execExit g s
  | .exitr o => Sys2Proof.Machine.execExitr o s
  | .yield g => Sys2Proof.Machine.execYield g s
  | .waitp o => Sys2Proof.Machine.execWaitp o s
  | .nop o => Sys2Proof.Machine.execNop o s
  | .send o => Sys2Proof.Machine.execSend o s
  | .sendv o => Sys2Proof.Machine.execSendv o s
  | .sendd o => Sys2Proof.Machine.execSendd o s
  | .req o => Sys2Proof.Machine.execReq o s
  | .recv o => Sys2Proof.Machine.execRecv o s
  | .steert o => Sys2Proof.Machine.execSteert o s
  | .reconf o => Sys2Proof.Machine.execReconf o s
  | .ten o => Sys2Proof.Machine.execTen o s
  | .tdis o => Sys2Proof.Machine.execTdis o s
  | .tpset o => Sys2Proof.Machine.execTpset o s
  | .tpclr o => Sys2Proof.Machine.execTpclr o s
  | .tqry o => Sys2Proof.Machine.execTqry o s
  | .fadd o => Sys2Proof.Machine.execFadd o s
  | .fsub o => Sys2Proof.Machine.execFsub o s
  | .fmul o => Sys2Proof.Machine.execFmul o s
  | .fmin o => Sys2Proof.Machine.execFmin o s
  | .fmax o => Sys2Proof.Machine.execFmax o s
  | .ffma o => Sys2Proof.Machine.execFfma o s
  | .fcpys o => Sys2Proof.Machine.execFcpys o s
  | .frcp o => Sys2Proof.Machine.execFrcp o s
  | .frsq o => Sys2Proof.Machine.execFrsq o s
  | .fsqrt o => Sys2Proof.Machine.execFsqrt o s
  | .fexp2 o => Sys2Proof.Machine.execFexp2 o s
  | .flog2 o => Sys2Proof.Machine.execFlog2 o s
  | .fneg o => Sys2Proof.Machine.execFneg o s
  | .fabs o => Sys2Proof.Machine.execFabs o s
  | .frnd o => Sys2Proof.Machine.execFrnd o s
  | .fcmpEq o => Sys2Proof.Machine.execFcmpEq o s
  | .fcmpNe o => Sys2Proof.Machine.execFcmpNe o s
  | .fcmpLt o => Sys2Proof.Machine.execFcmpLt o s
  | .fcmpLe o => Sys2Proof.Machine.execFcmpLe o s
  | .fcmpUn o => Sys2Proof.Machine.execFcmpUn o s
  | .cvtif o => Sys2Proof.Machine.execCvtif o s
  | .cvtfi o => Sys2Proof.Machine.execCvtfi o s
  | .cvtff o => Sys2Proof.Machine.execCvtff o s
  | .cvtf8 o => Sys2Proof.Machine.execCvtf8 o s
  | .cvt8f o => Sys2Proof.Machine.execCvt8f o s
  | .vadd o => Sys2Proof.Machine.execVadd o s
  | .vsub o => Sys2Proof.Machine.execVsub o s
  | .vmul o => Sys2Proof.Machine.execVmul o s
  | .vmad o => Sys2Proof.Machine.execVmad o s
  | .vmin o => Sys2Proof.Machine.execVmin o s
  | .vmax o => Sys2Proof.Machine.execVmax o s
  | .vabsd o => Sys2Proof.Machine.execVabsd o s
  | .vavg o => Sys2Proof.Machine.execVavg o s
  | .vand o => Sys2Proof.Machine.execVand o s
  | .vor o => Sys2Proof.Machine.execVor o s
  | .vxor o => Sys2Proof.Machine.execVxor o s
  | .vandn o => Sys2Proof.Machine.execVandn o s
  | .vshl o => Sys2Proof.Machine.execVshl o s
  | .vshr o => Sys2Proof.Machine.execVshr o s
  | .vsar o => Sys2Proof.Machine.execVsar o s
  | .vpopc o => Sys2Proof.Machine.execVpopc o s
  | .vfadd o => Sys2Proof.Machine.execVfadd o s
  | .vfsub o => Sys2Proof.Machine.execVfsub o s
  | .vfmul o => Sys2Proof.Machine.execVfmul o s
  | .vffma o => Sys2Proof.Machine.execVffma o s
  | .vfmin o => Sys2Proof.Machine.execVfmin o s
  | .vfmax o => Sys2Proof.Machine.execVfmax o s
  | .vfexp2 o => Sys2Proof.Machine.execVfexp2 o s
  | .vfrcp o => Sys2Proof.Machine.execVfrcp o s
  | .vcmp o => Sys2Proof.Machine.execVcmp o s
  | .vfcmp o => Sys2Proof.Machine.execVfcmp o s
  | .vsel o => Sys2Proof.Machine.execVsel o s
  | .vbcast o => Sys2Proof.Machine.execVbcast o s
  | .vext o => Sys2Proof.Machine.execVext o s
  | .vins o => Sys2Proof.Machine.execVins o s
  | .vperm o => Sys2Proof.Machine.execVperm o s
  | .vshuf o => Sys2Proof.Machine.execVshuf o s
  | .vredadd o => Sys2Proof.Machine.execVredadd o s
  | .vredmax o => Sys2Proof.Machine.execVredmax o s
  | .vredmin o => Sys2Proof.Machine.execVredmin o s
  | .vfredadd o => Sys2Proof.Machine.execVfredadd o s
  | .vfredmax o => Sys2Proof.Machine.execVfredmax o s
  | .vcvt o => Sys2Proof.Machine.execVcvt o s
  | .vplane o => Sys2Proof.Machine.execVplane o s
  | .vunplane o => Sys2Proof.Machine.execVunplane o s
  | .vplane16 o => Sys2Proof.Machine.execVplane16 o s
  | .vunplane16 o => Sys2Proof.Machine.execVunplane16 o s
  | .ldb o => Sys2Proof.Machine.execLdb o s
  | .ldbs o => Sys2Proof.Machine.execLdbs o s
  | .ldh o => Sys2Proof.Machine.execLdh o s
  | .ldhs o => Sys2Proof.Machine.execLdhs o s
  | .ldw o => Sys2Proof.Machine.execLdw o s
  | .ldws o => Sys2Proof.Machine.execLdws o s
  | .ldd o => Sys2Proof.Machine.execLdd o s
  | .ldv o => Sys2Proof.Machine.execLdv o s
  | .stb o => Sys2Proof.Machine.execStb o s
  | .sth o => Sys2Proof.Machine.execSth o s
  | .stw o => Sys2Proof.Machine.execStw o s
  | .std o => Sys2Proof.Machine.execStd o s
  | .stv o => Sys2Proof.Machine.execStv o s
  | .stz o => Sys2Proof.Machine.execStz o s
  | .wopenr o => Sys2Proof.Machine.execWopenr o s
  | .wopenw o => Sys2Proof.Machine.execWopenw o s
  | .wclose o => Sys2Proof.Machine.execWclose o s
  | .wclosea g => Sys2Proof.Machine.execWclosea g s
  | .wqry o => Sys2Proof.Machine.execWqry o s
  | .lda o => Sys2Proof.Machine.execLda o s
  | .stl o => Sys2Proof.Machine.execStl o s
  | .ldx o => Sys2Proof.Machine.execLdx o s
  | .stx o => Sys2Proof.Machine.execStx o s
  | .aadd o => Sys2Proof.Machine.execAadd o s
  | .aand o => Sys2Proof.Machine.execAand o s
  | .aor o => Sys2Proof.Machine.execAor o s
  | .axor o => Sys2Proof.Machine.execAxor o s
  | .amin o => Sys2Proof.Machine.execAmin o s
  | .amax o => Sys2Proof.Machine.execAmax o s
  | .axchg o => Sys2Proof.Machine.execAxchg o s
  | .acas o => Sys2Proof.Machine.execAcas o s
  | .fence o => Sys2Proof.Machine.execFence o s
  | .fencee o => Sys2Proof.Machine.execFencee o s
  | .gfence o => Sys2Proof.Machine.execGfence o s
  | .pflush o => Sys2Proof.Machine.execPflush o s
  | .pinv o => Sys2Proof.Machine.execPinv o s
  | .pclean o => Sys2Proof.Machine.execPclean o s
  | .ppref o => Sys2Proof.Machine.execPpref o s
  | .bpost o => Sys2Proof.Machine.execBpost o s
  | .bwait o => Sys2Proof.Machine.execBwait o s
  | .bseq o => Sys2Proof.Machine.execBseq o s
  | .coll o => Sys2Proof.Machine.execColl o s
  | .oclaim o => Sys2Proof.Machine.execOclaim o s
  | .orelease o => Sys2Proof.Machine.execOrelease o s
  | .oload o => Sys2Proof.Machine.execOload o s
  | .ostore o => Sys2Proof.Machine.execOstore o s
  | .ostat o => Sys2Proof.Machine.execOstat o s
  | .ozero o => Sys2Proof.Machine.execOzero o s
  | .mpair o => Sys2Proof.Machine.execMpair o s
  | .mclr o => Sys2Proof.Machine.execMclr o s
  | .mma o => Sys2Proof.Machine.execMma o s
  | .mdrain o => Sys2Proof.Machine.execMdrain o s
  | .mstat o => Sys2Proof.Machine.execMstat o s
  | .mwait o => Sys2Proof.Machine.execMwait o s
  | .cpy o => Sys2Proof.Machine.execCpy o s
  | .cpyp o => Sys2Proof.Machine.execCpyp o s
  | .cpyt o => Sys2Proof.Machine.execCpyt o s
  | .gath o => Sys2Proof.Machine.execGath o s
  | .scat o => Sys2Proof.Machine.execScat o s
  | .cpyr o => Sys2Proof.Machine.execCpyr o s
  | .cwait o => Sys2Proof.Machine.execCwait o s
  | .cqry o => Sys2Proof.Machine.execCqry o s
  | .lctx o => Sys2Proof.Machine.execLctx o s
  | .ltload o => Sys2Proof.Machine.execLtload o s
  | .lwire o => Sys2Proof.Machine.execLwire o s
  | .lbind o => Sys2Proof.Machine.execLbind o s
  | .lbindClear g => Sys2Proof.Machine.execLbindClear g s
  | .leval o => Sys2Proof.Machine.execLeval o s
  | .lwait o => Sys2Proof.Machine.execLwait o s
  | .srd o => Sys2Proof.Machine.execSrd o s
  | .swr o => Sys2Proof.Machine.execSwr o s
  | .trap o => Sys2Proof.Machine.execTrap o s
  | .evpost o => Sys2Proof.Machine.execEvpost o s
  | .brk o => Sys2Proof.Machine.execBrk o s
  | .cyc o => Sys2Proof.Machine.execCyc o s
  | .launch o => Sys2Proof.Machine.execLaunch o s
  | .cfgld o => Sys2Proof.Machine.execCfgld o s
  | .cfgsv o => Sys2Proof.Machine.execCfgsv o s
  | .qpop o => Sys2Proof.Machine.execQpop o s
  | .mmrd o => Sys2Proof.Machine.execMmrd o s
  | .mmwr o => Sys2Proof.Machine.execMmwr o s
  | .ctxctlQuery o => Sys2Proof.Machine.execCtxctlQuery o s
  | .ctxctlEnable o => Sys2Proof.Machine.execCtxctlEnable o s
  | .ctxctlDisable o => Sys2Proof.Machine.execCtxctlDisable o s
  | .ctxctlHalt o => Sys2Proof.Machine.execCtxctlHalt o s
  | .ctxctlReset o => Sys2Proof.Machine.execCtxctlReset o s
  | .ctxctlRestore o => Sys2Proof.Machine.execCtxctlRestore o s
  | .prtctlCreate o => Sys2Proof.Machine.execPrtctlCreate o s
  | .prtctlResize o => Sys2Proof.Machine.execPrtctlResize o s
  | .prtctlDestroy o => Sys2Proof.Machine.execPrtctlDestroy o s
  | .prtctlParam o => Sys2Proof.Machine.execPrtctlParam o s
  | .prtctlBind o => Sys2Proof.Machine.execPrtctlBind o s
  | .loadReturn t fid rid data => Sys2Proof.Machine.execLoadReturn t fid rid data s
  | .wtOpenRequest stk => Sys2Proof.Machine.execWtOpenRequest stk s
  | .winfullTimeout stk rid => Sys2Proof.Machine.execWinfullTimeout stk rid s
  | .windowGrant stk rid => Sys2Proof.Machine.execWindowGrant stk rid s
  | .closeAck cid => Sys2Proof.Machine.execCloseAck cid s
  | .closeComplete cid => Sys2Proof.Machine.execCloseComplete cid s
  | .homePerform r => Sys2Proof.Machine.execHomePerform r s
  | .omfillReceive t cmd n => Sys2Proof.Machine.execOmfillReceive t cmd n s
  | .mmaComplete t => Sys2Proof.Machine.execMmaComplete t s
  | .copyChunk t cmd => Sys2Proof.Machine.execCopyChunk t cmd s
  | .copyDone t cmd => Sys2Proof.Machine.execCopyDone t cmd s
  | .lcbLoadComplete t cmd => Sys2Proof.Machine.execLcbLoadComplete t cmd s
  | .levalLayer t => Sys2Proof.Machine.execLevalLayer t s
  | .resizeComplete part => Sys2Proof.Machine.execResizeComplete part s
  | .requeue t fid => Sys2Proof.Machine.execRequeue t fid s
  | .resume t fid => Sys2Proof.Machine.execResume t fid s
  | .kill t fid => Sys2Proof.Machine.execKill t fid s
  | .commandFailure t cmd code => Sys2Proof.Machine.execCommandFailure t cmd code s
  | .instantiate inst => Sys2Proof.Machine.execInstantiate inst s
  | .sourceFire t node tag => Sys2Proof.Machine.execSourceFire t node tag s
  | .firingRule t node tag => Sys2Proof.Machine.execFiringRule t node tag s
  | .resourceGrant t => Sys2Proof.Machine.execResourceGrant t s
  | .stallWake t fid => Sys2Proof.Machine.execStallWake t fid s
  | .retire t fid => Sys2Proof.Machine.execRetire t fid s
  | .endOfStream inst => Sys2Proof.Machine.execEndOfStream inst s
  | .watchdogExpiry inst => Sys2Proof.Machine.execWatchdogExpiry inst s
  | .routeToken n => Sys2Proof.Machine.execRouteToken n s
  | .tokenReceive n => Sys2Proof.Machine.execTokenReceive n s
  | .tokenResend n => Sys2Proof.Machine.execTokenResend n s
  | .reqToken t node port first count => Sys2Proof.Machine.execReqToken t node port first count s
  | .reconfCtrl t node port depth => Sys2Proof.Machine.execReconfCtrl t node port depth s
  | .relatch t node page ret => Sys2Proof.Machine.execRelatch t node page ret s
  | .dhold inst => Sys2Proof.Machine.execDhold inst s
  | .dfree inst => Sys2Proof.Machine.execDfree inst s
  | .halt t => Sys2Proof.Machine.execHalt t s
  | .haltPoint t => Sys2Proof.Machine.execHaltPoint t s
  | .convToken t node => Sys2Proof.Machine.execConvToken t node s
  | .addeToken t node => Sys2Proof.Machine.execAddeToken t node s
  | .muleToken t node => Sys2Proof.Machine.execMuleToken t node s
  | .maxeToken t node => Sys2Proof.Machine.execMaxeToken t node s
  | .funcToken t node => Sys2Proof.Machine.execFuncToken t node s
  | .reduToken t node => Sys2Proof.Machine.execReduToken t node s
  | .steerToken t node => Sys2Proof.Machine.execSteerToken t node s
  | .forkToken t node => Sys2Proof.Machine.execForkToken t node s
  | .mergeToken t node => Sys2Proof.Machine.execMergeToken t node s
  | .chanToken t node => Sys2Proof.Machine.execChanToken t node s
  | .tranToken t node => Sys2Proof.Machine.execTranToken t node s
  | .exdcToken t node => Sys2Proof.Machine.execExdcToken t node s
  | .mportRead t node => Sys2Proof.Machine.execMportRead t node s
  | .mportWrite t node => Sys2Proof.Machine.execMportWrite t node s
  | .streamDone t node => Sys2Proof.Machine.execStreamDone t node s
  | .mePortFill t port => Sys2Proof.Machine.execMePortFill t port s
  | .soResidueFault t node => Sys2Proof.Machine.execSoResidueFault t node s
  | .hostLaunch ctx rec_ => Sys2Proof.Machine.execHostLaunch ctx rec_ s
  | .launchEligible ctx queue => Sys2Proof.Machine.execLaunchEligible ctx queue s
  | .utundPlace lid ctx image => Sys2Proof.Machine.execUtundPlace lid ctx image s
  | .arbitrationPass => Sys2Proof.Machine.execArbitrationPass s
  | .quantumExpiry lid ctx stk => Sys2Proof.Machine.execQuantumExpiry lid ctx stk s
  | .imageSave ctx lid => Sys2Proof.Machine.execImageSave ctx lid s
  | .restore ctx lid => Sys2Proof.Machine.execRestore ctx lid s
  | .remoteRequest r => Sys2Proof.Machine.execRemoteRequest r s
  | .remoteResponse rid ans => Sys2Proof.Machine.execRemoteResponse rid ans s
  | .remtoExpiry rid => Sys2Proof.Machine.execRemtoExpiry rid s
  | .redirect rid dev stk ctx => Sys2Proof.Machine.execRedirect rid dev stk ctx s
  | .mtlbinv stk v => Sys2Proof.Machine.execMtlbinv stk v s
  | .mtlbinvComplete stk => Sys2Proof.Machine.execMtlbinvComplete stk s
  | .chanBind t node => Sys2Proof.Machine.execChanBind t node s
  | .pagePull stk part gpa asker dstk dctx => Sys2Proof.Machine.execPagePull stk part gpa asker dstk dctx s
  | .pageInstall stk part gpa frame bytes regs => Sys2Proof.Machine.execPageInstall stk part gpa frame bytes regs s
  | .repoint via r => Sys2Proof.Machine.execRepoint via r s
  | .pack peer ctx => Sys2Proof.Machine.execPack peer ctx s
  | .repointTimeout peer ctx => Sys2Proof.Machine.execRepointTimeout peer ctx s
  | .userDelivery plane f => Sys2Proof.Machine.execUserDelivery plane f s
  | .collDelivery plane f => Sys2Proof.Machine.execCollDelivery plane f s
  | .grant plane f => Sys2Proof.Machine.execGrant plane f s
  | .grantTimeout plane => Sys2Proof.Machine.execGrantTimeout plane s
  | .join plane f => Sys2Proof.Machine.execJoin plane f s
  | .leave plane f => Sys2Proof.Machine.execLeave plane f s
  | .repair plane f => Sys2Proof.Machine.execRepair plane f s
  | .group plane f => Sys2Proof.Machine.execGroup plane f s
  | .planeStallTimeout plane => Sys2Proof.Machine.execPlaneStallTimeout plane s
  | .laneBeat link grp beats => Sys2Proof.Machine.execLaneBeat link grp beats s
  | .linkFlit link lsn f => Sys2Proof.Machine.execLinkFlit link lsn f s
  | .idle link => Sys2Proof.Machine.execIdle link s
  | .ack link lsn => Sys2Proof.Machine.execAck link lsn s
  | .nak link lsn => Sys2Proof.Machine.execNak link lsn s
  | .loss link lanes => Sys2Proof.Machine.execLoss link lanes s
  | .map link lanes epoch => Sys2Proof.Machine.execMap link lanes epoch s
  | .mapack link lanes at_ => Sys2Proof.Machine.execMapack link lanes at_ s
  | .ackTimer link => Sys2Proof.Machine.execAckTimer link s
  | .replayTimeout link => Sys2Proof.Machine.execReplayTimeout link s
  | .lossOfLight link lanes => Sys2Proof.Machine.execLossOfLight link lanes s
  | .restripeResume link => Sys2Proof.Machine.execRestripeResume link s
  | .linkDown link => Sys2Proof.Machine.execLinkDown link s
  | .lanePark link lanes => Sys2Proof.Machine.execLanePark link lanes s
  | .laneUnpark link lanes => Sys2Proof.Machine.execLaneUnpark link lanes s
  | .vbRetest stk bus bad => Sys2Proof.Machine.execVbRetest stk bus bad s
  | .vbRetestForced stk bus bad => Sys2Proof.Machine.execVbRetestForced stk bus bad s
  | .scrub unit stk addr correctable => Sys2Proof.Machine.execScrub unit stk addr correctable s
  | .powerWindow energy => Sys2Proof.Machine.execPowerWindow energy s
  | .thermalStop stk temp => Sys2Proof.Machine.execThermalStop stk temp s
  | .templimExceeded stk temp => Sys2Proof.Machine.execTemplimExceeded stk temp s
  | .recordPost q => Sys2Proof.Machine.execRecordPost q s
  | .powerUp => Sys2Proof.Machine.execPowerUp s
  | .moduleReset => Sys2Proof.Machine.execModuleReset s
  | .firmwareBundle b => Sys2Proof.Machine.execFirmwareBundle b s
  | .attestationRequest nonce => Sys2Proof.Machine.execAttestationRequest nonce s
  | .devid v => Sys2Proof.Machine.execDevid v s
  | .hostRmaWrite ctx va b => Sys2Proof.Machine.execHostRmaWrite ctx va b s
  | .hostRmaRead ctx va n => Sys2Proof.Machine.execHostRmaRead ctx va n s
  | .hostUnsupported kind => Sys2Proof.Machine.execHostUnsupported kind s
  | .dbgctlHalt t => Sys2Proof.Machine.execDbgctlHalt t s
  | .dbgctlResume t => Sys2Proof.Machine.execDbgctlResume t s
  | .dbgctlStep t => Sys2Proof.Machine.execDbgctlStep t s
  | .queueCtlWrite q v => Sys2Proof.Machine.execQueueCtlWrite q v s
  | .queueTailWrite q v => Sys2Proof.Machine.execQueueTailWrite q v s
  | .logCtlWrite part stk replay v => Sys2Proof.Machine.execLogCtlWrite part stk replay v s
  | .bindingWrite ctx plane v => Sys2Proof.Machine.execBindingWrite ctx plane v s
  | .omapWrite ctx n v => Sys2Proof.Machine.execOmapWrite ctx n v s
  | .soflgClear t node => Sys2Proof.Machine.execSoflgClear t node s
  | .psplitWrite ctx v => Sys2Proof.Machine.execPsplitWrite ctx v s
  | .registerWrite addr v => Sys2Proof.Machine.execRegisterWrite addr v s
  | .powerDown => Sys2Proof.Machine.execPowerDown s
  | .templimRecovered stk temp => Sys2Proof.Machine.execTemplimRecovered stk temp s
  | .temperatureSwing stk temp => Sys2Proof.Machine.execTemperatureSwing stk temp s
  | .laneRecovery link lanes => Sys2Proof.Machine.execLaneRecovery link lanes s
  | .mportAccessDone t node => Sys2Proof.Machine.execMportAccessDone t node s
  | .linkTraining plane n peer => Sys2Proof.Machine.execLinkTraining plane n peer s
  | .chanBindAnswer t node ok => Sys2Proof.Machine.execChanBindAnswer t node ok s

end Sys2Proof.Machine
end

