-- ==== Sys2Proof/Machine/Schedule.lean ====
section
/-! DEFINITION. What runs next (R4, R233): the scheduled steps of engines, queues and links, what has arrived from outside, timers, the
steps of firings and nodes whose conditions hold, and the issue of one word. Where several may go first and no rule orders them, the
choice is free. -/

namespace Sys2Proof.Machine

/-! ## Scheduled steps -/

-- DESIGN CHOICE, log 154 (unsafe).
/-- A scheduled step is the step of its name. -/
def runAct (a : Act) (s : State) : Outcome :=
  match a with
  | .loadReturn t fid rid data => execLoadReturn t fid rid data s
  | .wtOpenRequest stk => execWtOpenRequest stk s
  | .winfullTimeout stk rid => execWinfullTimeout stk rid s
  | .windowGrant stk rid => execWindowGrant stk rid s
  | .closeAck cid => execCloseAck cid s
  | .closeComplete cid => execCloseComplete cid s
  | .omfillReceive t cmd n => execOmfillReceive t cmd n s
  | .mmaComplete t => execMmaComplete t s
  | .copyChunk t cmd => execCopyChunk t cmd s
  | .copyDone t cmd => execCopyDone t cmd s
  | .lcbLoadComplete t cmd => execLcbLoadComplete t cmd s
  | .levalLayer t => execLevalLayer t s
  | .resizeComplete part => execResizeComplete part s
  | .requeue t fid => execRequeue t fid s
  | .kill t fid => execKill t fid s
  | .commandFailure t cmd code => execCommandFailure t cmd code s
  | .instantiate inst => execInstantiate inst s
  | .sourceFire t node tag => execSourceFire t node tag s
  | .firingRule t node tag => execFiringRule t node tag s
  | .resourceGrant t => execResourceGrant t s
  | .stallWake t fid => execStallWake t fid s
  | .retire t fid => execRetire t fid s
  | .endOfStream inst => execEndOfStream inst s
  | .watchdogExpiry inst => execWatchdogExpiry inst s
  | .routeToken n => execRouteToken n s
  | .tokenReceive n => execTokenReceive n s
  | .tokenResend n => execTokenResend n s
  | .reqToken t node port first count => execReqToken t node port first count s
  | .halt t => execHalt t s
  | .haltPoint t => execHaltPoint t s
  | .node t n => .next (nodeStep t n s)
  | .streamDone t n => execStreamDone t n s
  | .mportAccessDone t n => execMportAccessDone t n s
  | .mePortFill t port => execMePortFill t port s
  | .soResidueFault t n => execSoResidueFault t n s
  | .launchEligible ctx queue => execLaunchEligible ctx queue s
  | .utundPlace lid ctx image => execUtundPlace lid ctx image s
  | .arbitrationPass => execArbitrationPass s
  | .quantumExpiry lid ctx stk => execQuantumExpiry lid ctx stk s
  | .imageSave ctx lid => execImageSave ctx lid s
  | .restore ctx lid => execRestore ctx lid s
  | .remtoExpiry rid => execRemtoExpiry rid s
  | .mtlbinvComplete stk => execMtlbinvComplete stk s
  | .chanBind t n => execChanBind t n s
  | .repointTimeout peer ctx => execRepointTimeout peer ctx s
  | .grantTimeout plane => execGrantTimeout plane s
  | .planeStallTimeout plane => execPlaneStallTimeout plane s
  | .ackTimer link => execAckTimer link s
  | .replayTimeout link => execReplayTimeout link s
  | .restripeResume link => execRestripeResume link s
  | .linkDown link => execLinkDown link s
  | .vbRetest stk bus => execVbRetest stk bus (Config.busTest (stk * 128 + bus) s.tick) s
  | .vbRetestForced stk bus => execVbRetestForced stk bus (Config.busTest (stk * 128 + bus) s.tick) s
  | .recordPost q => execRecordPost q s
  | .relatch t n page ret => execRelatch t n page ret s
  | .reconfCtrl t n port depth => execReconfCtrl t n port depth s
  | .dhold inst => execDhold inst s
  | .dfree inst => execDfree inst s
  | .diverged inst => .next (diverged inst s)
  | .replayDelivery ctx lid stk => .next (replayStep ctx lid stk s)
  | .planeDelivery plane f => .next (takePlaneFlit plane f s)
  | .bundleCheck => .next (bundleCheck s)
  | .pageInstall stk part gpa leaf bytes regs => execPageInstall stk part gpa leaf bytes regs s

/-! ## Issue (R50, R233, R405) -/

/-- A firing may issue: READY or RUNNING, with nothing outstanding at its program counter. -/
def canIssue (f : Firing) : Bool :=
  (decide (f.st = .ready) || decide (f.st = .running)) && decide (f.wait = .none) && !f.held

/-- The oldest firing of a list (R233). -/
def oldest (l : List Firing) : Option Firing :=
  l.foldl (fun (b : Option Firing) f => match b with | none => some f | some g => if f.age < g.age then some f else some g) none

/-- A halted tile issues nothing, but for one word under STEP (R405). -/
def mayIssue (x : Tile) : Bool := !x.stopped || (x.dbg.halt && x.dbg.step && !x.halting && !x.atHalt)

/-- The firing of a tile that issues next. -/
def issuer (x : Tile) : Option Firing := if mayIssue x then oldest (x.firings.filter canIssue) else none

/-- The state in which a word of a firing issues: the firing is RUNNING. -/
def issuing (t : TileId) (f : Firing) (s : State) : State :=
  { s.setFiring t { f with st := .running } with cur := some (t, f.id) }

/-- What the code store gives at a firing's program counter. -/
inductive Fetch
  | word (w : Fetched)
  | illegal (pc : Nat)
  | parity (unit : Nat)

-- DEDUCED, log 19 (unsafe).
/-- Fetch and decode (R50, R53, R68); a frame read that cannot be corrected shows here too (R399). -/
def fetch (t : TileId) (f : Firing) (s : State) : Fetch :=
  if s.struck 1 (tileKey t) then .parity 1
  else if s.struck 2 (tileKey t) then .parity 2
  else
    match tabFind (s.tile t).code f.pc with
    | none => .illegal (Nat.min f.pc 4095)
    | some c =>
      if c.header then .illegal f.pc
      else
        match decodeWord c.word with
        | .ok w => .word w
        | .error _ => .illegal f.pc

/-- CTXCTL: the operation that T names (R119). -/
def execCtxctl (o : DST) (f : Firing) (s : State) : Outcome :=
  match ctlOp o f with
  | 1 => execCtxctlEnable o s
  | 2 => execCtxctlDisable o s
  | 3 => execCtxctlHalt o s
  | 4 => execCtxctlReset o s
  | 5 => execCtxctlRestore o s
  | _ => execCtxctlQuery o s

/-- OPC of the partition command at the address in S (R329). -/
def prtOpc (o : DS) (t : TileId) (f : Firing) (s : State) : Nat := memNat s.mem (dramKey t.stk (f.slot o.s.toNat).toNat) 1

/-- PRTCTL: the command that the request names (R329). -/
def execPrtctl (o : DS) (t : TileId) (f : Firing) (s : State) : Outcome :=
  match prtOpc o t f s with
  | 2 => execPrtctlResize o s
  | 3 => execPrtctlDestroy o s
  | 4 => execPrtctlParam o s
  | 5 => execPrtctlBind o s
  | _ => execPrtctlCreate o s

/-- What a fetched word does. -/
def execFetched (t : TileId) (f : Firing) (w : Fetched) (s : State) : Outcome :=
  match w with
  | .form i => exec i s
  | .ctxctl o => execCtxctl o f s
  | .prtctl o => execPrtctl o t f s

/-- After a word: it counts as progress of its instance (R274) unless it waited, and a STEP is used up (R405). -/
def afterIssue (t : TileId) (fid : Nat) (inst : Nat) (s : State) : State :=
  match s.firing? t fid with
  | some f =>
    if f.held then s
    else
      let s := progress s (some inst)
      let x := s.tile t
      if x.dbg.step then s.setDbg t { x.dbg with step := false, halted := false } else s
  | none => progress s (some inst)

/-- One word of a firing: a failure in flight is reported at this boundary instead (R242). -/
def issueWord (t : TileId) (f : Firing) (s : State) : Outcome :=
  match f.failed with
  | some e => .next (takeFault s t { f with st := .running } e)
  | none =>
    let s := issuing t f s
    let g := { f with st := .running }
    match fetch t f s with
    | .illegal pc => .next (takeFault s t { g with pc := pc } { code := .illegal })
    | .parity u => .next (takeFault (s.spend u (tileKey t)) t g { code := .parity, detail := unitDetail u (if u = 1 then f.pc else tileKey t) })
    | .word w =>
      match execFetched t g w s with
      | .next s => .next (afterIssue t f.id f.inst s)
      | r => r

/-! ## Steps whose conditions are looked at -/

/-- Actors with an indexed token, and its tag, in ascending order (R229). -/
def firingPairs (x : Tile) : List (Nat × Nat) :=
  ((x.edges.flatMap (fun e =>
    let n := e.1 / 16
    if x.isActor n then (e.2.fifo.filter (fun q => q.indexed)).map (fun q => (n, q.tok.tag.toNat)) else [])).eraseDups).mergeSort
    (fun a b => decide (a.1 < b.1) || (decide (a.1 = b.1) && decide (a.2 ≤ b.2)))

/-- Registrations of a command made again after a restore are not all granted (R366). -/
def waitsRegs (s : State) (t : TileId) (c : Cmd) : Bool :=
  s.remote.any (fun r => r.isOpen && (match r.who with | .cmd t' id => t' == t && id == c.id | _ => false)) ||
  s.stks.any (fun p => p.2.regs.any (fun r => lacksPages s t c.owner r && c.ranges.any (fun q => decide (q.2 = r.wid))))

/-- What a command does next. A copy of a halting tile ends its chunk and begins no other (R356). -/
def cmdAct (s : State) (t : TileId) (c : Cmd) : List Act :=
  if !c.pending || waitsRegs s t c then []
  else
    match c.kind with
    | .oload _ _ _ _ _ _ => [.omfillReceive t c.id c.chunk]
    | .ostore _ _ _ _ => if c.storesAgain then [.copyChunk t c.id] else []
    | .ltload _ _ => [.lcbLoadComplete t c.id]
    | .lwire _ _ => [.lcbLoadComplete t c.id]
    | _ => if s.acts.contains (.copyDone t c.id) || ((s.tile t).halting && c.sent.isNone && c.asked.isEmpty) then [] else [.copyChunk t c.id]

/-- Steps of a tile that may be able to go. -/
def tilePolls (s : State) (t : TileId) (x : Tile) : List Act :=
  x.firings.flatMap (fun f =>
    match f.st with
    | .stalled => [.stallWake t f.id]
    | .draining => [.retire t f.id]
    | _ => []) ++
  (if x.firings.any (fun f => decide (f.st = .waiting)) then [.resourceGrant t] else []) ++
  x.sources.map (fun q => Act.sourceFire t q.1 q.2.1.toNat) ++
  (firingPairs x).map (fun q => Act.firingRule t q.1 q.2) ++
  (x.nodes.filter (fun q => decide (q.1 < 16) || x.isChan q.1)).map (fun q => Act.node t q.1) ++
  (x.edges.filter (fun e => decide (e.1 / 16 = 16) && !e.2.fifo.isEmpty)).map (fun e => Act.mePortFill t (e.1 % 16)) ++
  x.cmds.flatMap (cmdAct s t) ++
  (if x.me.queue.isEmpty && x.me.drains.isEmpty && x.me.held.isEmpty then [] else [.mmaComplete t]) ++
  (if x.lcb.job.isSome || !x.lcb.queue.isEmpty then [.levalLayer t] else []) ++
  (if (x.halting && !x.atHalt) || (x.dbg.halt && !x.dbg.halted) then [.haltPoint t] else [])

/-- Whether a step of a tile did something. -/
def tileMoved (t : TileId) (s s' : State) : Bool :=
  decide (s.acts.length ≠ s'.acts.length) || decide (s.nextId ≠ s'.nextId) || decide (s.net.length ≠ s'.net.length) ||
  decide (s.outbox.length ≠ s'.outbox.length) || decide (s.tile t ≠ s'.tile t)

/-- A step is worth taking when it changes something. -/
def moves (a : Act) (s : State) (moved : State → State → Bool) : Bool :=
  match runAct a s with
  | .next s' => moved s s'
  | _ => false

/-- The first firing rule of a list alone (R229). -/
def oneRule : List Act → List Act
  | [] => []
  | .firingRule t n g :: l => .firingRule t n g :: l.filter (fun a => match a with | .firingRule _ _ _ => false | _ => true)
  | a :: l => a :: oneRule l

/-- A halted tile's nodes, firings and engines take nothing new (R352, R405); its commands go on. -/
def tileReady (s : State) (k : Nat × Tile) : List Act :=
  let t := tileOfKey k.1
  if k.2.inst.isNone && !k.2.dbg.halt then [] else oneRule ((tilePolls s t k.2).filter (fun a => moves a s (tileMoved t)))

/-- Steps of instances: their end, their watchdog. -/
def instReady (s : State) (i : Inst) : List Act :=
  if instEnded s i then [.endOfStream i.id] else if watchdogDue s i then [.watchdogExpiry i.id] else []

/-- A token in the network that its router output grants (R39). -/
def tokenReady (s : State) (n : NetTok) : List Act :=
  let h := nextHop s n
  if (granted s n.at_ h).map (fun m => m.id) ≠ some n.id then []
  else match h with
    | .here _ _ => [.tokenReceive n.id]
    | _ => [.routeToken n.id]

def launchChanged (s s' : State) : Bool :=
  decide (s.launches ≠ s'.launches) || decide (s.insts ≠ s'.insts) || decide (s.acts.length ≠ s'.acts.length) ||
  decide (s.outbox.length ≠ s'.outbox.length)

/-- Launches admitted again or coming back, and the log of a replayed one. -/
def launchReady (s : State) (l : Launch) : List Act :=
  let is_ := launchInsts s l
  let back : List Act := if decide (l.st = .admitted) && is_.any (fun i => i.saved) || is_.any (fun i => i.comesBack s) then [.restore l.ctx l.lid] else []
  let log : List Act := if l.replay then (is_.filter (fun i => i.armed && !i.saved)).map (fun i => Act.replayDelivery l.ctx l.lid i.stk) else []
  (back ++ log).filter (fun a => moves a s launchChanged)

/-- Instances of CFGLD that a RESTORE of their context brings back. -/
def looseReady (s : State) (c : Nat × Ctx) : List Act :=
  let mine := s.insts.filter (fun i => decide (i.ctx = c.1) && decide (i.lid = 0))
  if mine.any (fun i => (i.saved && !c.2.halted && !c.2.halting) || i.comesBack s) then
    ([.restore c.1 0] : List Act).filter (fun a => moves a s launchChanged)
  else []

/-- Queues whose waiting records can go now (R401). -/
def queueReady (s : State) (q : QSel) : List Act :=
  if (s.queue q).waiting.isEmpty then []
  else if moves (.recordPost q) s (fun s s' => decide (s.queue q ≠ s'.queue q) || decide (s.remote.length ≠ s'.remote.length)) then [.recordPost q]
  else []

def stackReady (s : State) (k : Nat × Stack) : List Act :=
  if k.2.mtlbinv = 0 then []
  else if if k.2.invMports.isEmpty then invHeld s k.1 else k.2.invMports.any (owesRelatch s) then [] else [.mtlbinvComplete k.1]

def partReady (s : State) (p : Nat × Part) : List Act :=
  (p.2.hvq.flatMap (fun q => queueReady s (.hv p.1 q.1))) ++
  (match p.2.resizing with | some (_, _, _, new) => if (leavers s p.1 new).isEmpty then [.resizeComplete p.1] else [] | none => [])

/-- Every step whose condition holds. -/
def ready (s : State) : List Act :=
  s.tiles.flatMap (tileReady s) ++ s.insts.flatMap (instReady s) ++ s.net.flatMap (tokenReady s) ++ s.launches.flatMap (launchReady s) ++
  s.ctxs.flatMap (fun c => queueReady s (.ev c.1) ++ looseReady s c) ++ s.parts.flatMap (partReady s) ++ queueReady s .mg ++
  s.stks.flatMap (stackReady s)

/-! ## The choice -/

/-- What a step of the machine does: a scheduled step by its place, an input, a timer, a step whose condition holds, or a word. -/
inductive Work
  | act (n : Nat)
  | input
  | timer (n : Nat)
  | poll (a : Act)
  | word (t : TileId) (f : Firing)
  deriving DecidableEq, Repr

/-- A timer whose cycle has come. -/
def timerDue (s : State) (t : Timer) : Bool := decide (t.due ≤ (s.stack t.stk).cyc)

def issues (s : State) : List Work :=
  s.tiles.filterMap (fun k => (issuer k.2).map (fun f => .word (tileOfKey k.1) f))

/-- The events that the region arbiter handles, in its order (R328); 0 for any other step. -/
def arbiterRank : Act → Nat
  | .endOfStream _ => 1
  | .imageSave _ _ => 2
  | .quantumExpiry _ _ _ => 3
  | .launchEligible _ _ => 4
  | .arbitrationPass => 5
  | _ => 0
/-- The rank of the first of the region arbiter's events that stand. -/
def arbiterTurn (l : List Act) : Nat := ((l.map arbiterRank).filter (fun n => n != 0)).foldl Nat.min 5
/-- A step may go while no event that the region arbiter handles before it stands (R328). -/
def inTurn (turn : Nat) (a : Act) : Bool := decide (arbiterRank a ≤ turn)

/-- Everything that may go first. -/
def works (s : State) : List Work :=
  let polls := ready s
  let due := s.timers.zipIdx.filter (fun t => timerDue s t.1)
  let turn := arbiterTurn (s.acts ++ due.map (fun t => t.1.act) ++ polls)
  ((s.acts.findIdx? (inTurn turn)).map Work.act).toList ++ (if s.inputs.isEmpty then [] else [.input]) ++
  (due.filter (fun t => inTurn turn t.1.act)).map (fun t => Work.timer t.2) ++ (polls.filter (inTurn turn)).map .poll ++ issues s

-- DESIGN CHOICE, log 2 (unsafe).
/-- No rule orders the agents beyond that: which goes first is free. -/
def choose (s : State) : Option Work :=
  match works s with
  | [] => none
  | [w] => some w
  | l => l[Config.pick s.tick % l.length]?

/-- The step chosen. -/
def perform (w : Work) (s : State) : Outcome :=
  match w with
  | .act n =>
    (match s.acts[n]? with
     | some a => runAct a { s with acts := s.acts.eraseIdx n }
     | none => .next s)
  | .input =>
    (match s.inputs with
     | i :: r => exec i { s with inputs := r }
     | [] => .next s)
  | .timer n =>
    (match s.timers[n]? with
     | some t => runAct t.act { s with timers := s.timers.eraseIdx n }
     | none => .next s)
  | .poll a => runAct a s
  | .word t f => issueWord t f s

/-! ## Cycles (R4, R113, R274, R322, R406) -/

-- DESIGN CHOICE, log 3 (unsafe).
/-- The cycle counter of a stack moves on; watchdogs that are held, and quanta under a debug hold or while HALTING, do not count these
cycles. -/
def passCycles (n : Nat) (s : State) (k : Nat) : State :=
  let s := s.setStack k { s.stack k with cyc := (s.stack k).cyc + n }
  { s with insts := s.insts.map (fun i =>
      if i.stk ≠ k then i
      else
        let i := if i.dhold || i.halting then { i with qstart := i.qstart + n } else i
        if i.dhold || watchdogHeld s i then { i with wd := i.wd + n } else i) }

/-- Cycles pass on every stack; before power-up none do (R412). -/
def pass (n : Nat → Nat) (s : State) : State :=
  if s.boot = .off then s else (List.range 4).foldl (fun s k => passCycles (n k) s k) s

-- DESIGN CHOICE, log 149 (safe).
/-- Words that waited at issue may try again. -/
def clearHeld (s : State) : State :=
  { s with tiles := s.tiles.map (fun p =>
      if p.2.firings.any (fun f => f.held) then (p.1, { p.2 with firings := p.2.firings.map (fun f => { f with held := false }) }) else p) }

/-- The issuing word has waited. -/
def waited (w : Work) (s : State) : Bool :=
  match w with
  | .word t f => (match s.firing? t f.id with | some g => g.held | none => false)
  | _ => false

/-- What every step ends with: no word is issuing, time has passed, waiting words may try again unless this step was one more that
waits, and acknowledgements that are due go out (R377). -/
def settle (w : Work) (s : State) : State :=
  let s := { s with cur := none, tick := s.tick + 1 }
  let s := if waited w s then s else clearHeld s
  sendPacks (pass (fun k => 1 + Config.extraCycles s.tick k) s)

/-- Cycles from now to a timer, and to the end of a watchdog that counts. -/
def timerLeft (s : State) (t : Timer) : Nat := t.due - (s.stack t.stk).cyc
def watchdogCounts (s : State) (i : Inst) : Bool := i.armed && !i.halting && !i.saved && !i.resident && !watchdogHeld s i
def watchdogLeft (s : State) (i : Inst) : Nat := i.wd + wdPeriod s i - s.cyc i.stk

/-- Nothing can go: time passes up to the next timer or the end of a watchdog, or by one cycle while a word waits. -/
def idleCycles (s : State) : Nat :=
  if s.tiles.any (fun p => p.2.firings.any (fun f => f.held)) then 1
  else
    match s.timers.map (timerLeft s) ++ (s.insts.filter (watchdogCounts s)).map (watchdogLeft s) with
    | [] => 1
    | d :: r => Nat.max 1 (r.foldl Nat.min d)
def idle (s : State) : State := clearHeld (pass (fun _ => idleCycles s) { s with tick := s.tick + 1 })

/-! ## A word placed to run next -/

/-- A word that only the control region accepts: OP 0x39, and SRD and SWR of an index from 0x80 up (R111, R117). -/
def controlWord (w : Word) : Bool :=
  let r := Raw.unpack w
  decide (r.op = 0x39#7) || (decide (r.op = 0x38#7) && decide (r.fn.toNat ≤ 1) && r.x.getLsbD 7)
def wordTile (w : Word) : TileId := { stk := 0, x := if controlWord w then 0 else 1, y := 0 }

/-- A firing at word 1 of its tile, with a frame of 1024 slots. -/
def wordFiring : Firing :=
  { id := 0, entry := 0, node := 18, tag := 0, inst := 0, st := .ready, wait := .none, held := false, failed := none
    pc := 1, age := 0, count := 1, frame := 1024, slots := [], preds := 0, loops := [], rstack := [], fpf := 0, ppr := 0, wins := []
    closing := [], resv := none, steer := [], waveLast := none, pend := [], out := [], exitStatus := none, inputs := []
    recvd := [], reserved := [], cleared := 0, committed := false, retries := 0, retried := false, rstep := 0
    fromDrain := false, resend := none, granted := none, reeval := none, banks := 0, fetched := [] }

/-- The instance that holds the tile. -/
def wordInst (t : TileId) : Inst :=
  { id := 0, lid := 0, ctx := 0, part := 0, stk := t.stk, ox := t.x, oy := t.y, w := 1, h := 1, cfg := [], coords := [], levels := [], argp := 0
    sways := 0, armed := false, halting := false, saved := false, wd := 0, holds := [], qstart := 0, ntags := 0, binding := 0
    resident := decide (t.x = 0), resid := 0 }

/-- A machine with one tile, one firing and one word, after bring-up. -/
def placeWord (s : State) (t : TileId) (w : Word) : State :=
  { s with
    boot := .running, cur := none, acts := [], timers := [], inputs := [], net := [], launches := [], insts := [wordInst t], errs := []
    tiles := [(tileKey t, { inst := some 0, resident := decide (t.x = 0), code := [(0, { word := 0, header := true }), (1, { word := w, header := false })]
                            firings := [wordFiring], nextFid := 1 })] }

/-- One step of the machine. -/
def stepOnce (s : State) : Outcome :=
  match choose s with
  | none => .next (idle s)
  | some w =>
    match perform w s with
    | .next t => .next (settle w t)
    | r => r

end Sys2Proof.Machine
end

