-- ==== Sys2Proof/Machine/Step.lean ====
section
/-! DEFINITION. The step of the machine, and where its next word is placed. -/

namespace Sys2Proof.Machine

/-- One step: next, fault or refusal. -/
def step (s : State) : Host.Outcome State Fault Refusal := stepOnce s

-- DESIGN CHOICE, log 10 (safe).
/-- s with one firing, READY at a word that its tile's code store holds, and nothing else under way: the load of a configuration, the
admission of its launch and the grant of its first firing stand behind it. A word of the control region (R111, R117) stands on a
control tile. -/
def State.withFetchWord (s : State) (nbits w : Nat) : State :=
  let word := BitVec.ofNat 64 (wordOfBytes (bytesOf 8 (w % 2 ^ (Nat.min nbits 64))))
  placeWord s (wordTile word) word

end Sys2Proof.Machine
end

