-- ==== Sys2Proof/Safety.lean ====
section
/-! DEFINITION. What counts as a safe run, and the terms in which the statements are put: a word that issues, the slots it may
name, and what the tables of the spec give for the integer forms, written over bit vectors. -/

namespace Sys2Proof.Machine

/-- A step is safe when it goes on: the model neither stops nor refuses. -/
def Safe (s : State) : Prop := ∃ s', step s = .next s'

/-- The invariants of a machine between two steps: no word is half issued, and no acknowledgement that is due is kept back
(R377). -/
def Quiet (s : State) : Prop := s.cur = none
def AcksOwed (s : State) : Prop := ∀ r ∈ (s.plane 8).packs, olderDone s r = false
def Inv (s : State) : Prop := Quiet s ∧ AcksOwed s

/-- The word that issues is one of firing f of tile t, its guard is on (R53), and no hardware error is outstanding. -/
structure Issues (s : State) (t : TileId) (f : Firing) (g : BitVec 4) : Prop where
  cur   : s.cur = some (t, f.id)
  here  : s.firing? t f.id = some f
  on    : f.guard g = true
  sound : s.errs = []

/-- Slots that a word may name: in the frame (R52), with no write to come (R53). -/
def Usable (f : Firing) (l : List Nat) : Prop := ∀ d ∈ l, d < f.frame ∧ f.isPending d = false

/-- The instruction completes with the firing as given, its program counter moved on (R104), and nothing else of the machine
changed. -/
def Leaves (i : Instr) (s : State) (t : TileId) (f' : Firing) : Prop := exec i s = .next (s.setFiring t f'.advance)

/-- The instruction completes in the state s' with the firing f'. -/
def Becomes (i : Instr) (s : State) (t : TileId) (s' : State) (f' : Firing) : Prop := exec i s = .next (s'.setFiring t f')

/-- A word that meets a fault takes it (R238). -/
def Faults (i : Instr) (s : State) (t : TileId) (f : Firing) (e : FInfo) : Prop := exec i s = .next (takeFault s t f e)

/-- A word that waits at issue marks its firing and changes nothing else (R53). -/
def Holds (i : Instr) (s : State) (t : TileId) (f : Firing) : Prop := exec i s = .next (s.setFiring t { f with held := true })

/-- A firing past a word that ends its wave (R59). -/
def Firing.past (f : Firing) : Firing := { f with waveLast := none }.advance
/-- A firing past a member of its wave (R58). -/
def Firing.pastMember (f : Firing) (w : Wave) : Firing := { f with waveLast := some w }.advance

/-- A byte of memory. -/
def State.byte (s : State) (a : Nat) : Byte := tabGet 0 s.mem a

/-- The n bytes of an access of a firing translate to a page of this device, within one line (R145, R291, R337). -/
structure Stands (s : State) (t : TileId) (f : Firing) (k : AccKind) (w : Bool) (ea n : Nat) (p : XPage) : Prop where
  place : locate s (accessOf s t f k w ea) = .ok (.here p)
  fits  : p.key % 128 + n ≤ 128

/-- The ranges of a command are granted: the form goes on in the state and firing given, the command to hold the registrations
(R178). -/
def Granted (s : State) (t : TileId) (f : Firing) (l : List Range) (s' : State) (f' : Firing) (regs : List (Nat × Nat))
    (away : List AwayReg) : Prop :=
  rangesOf s t f l (.ok ()) = .ok (.ready s' f' regs away)

/-- A command in the state attached, queued for its engine, and its identifier. -/
def attached (s : State) (t : TileId) (f : Firing) (k : CmdKind) (acq rel : Bool) (sc : Scope) (l : List Range)
    (regs : List (Nat × Nat)) (away : List AwayReg) : State := (attach s t f k acq rel sc l regs away).2
def State.setMe (s : State) (t : TileId) (m : Me) : State := s.setTile t { s.tile t with me := m }
def State.setLcb (s : State) (t : TileId) (l : Lcb) : State := s.setTile t { s.tile t with lcb := l }

/-- A stream operator may take a position: its tile runs, no edge of it is to be asked for more, nothing waits to leave, and no
error is outstanding (R244, R268, R273). -/
structure Takes (s : State) (t : TileId) (n : Nat) : Prop where
  runs  : soRuns s t n = true
  asked : ∀ p < 4, askEdge s t (portKey n p) = s
  clear : ((s.tile t).soOf n).outq = []
  sound : s.errs = []

/-- A node has taken the heads of its ports listed, stands in the state given and goes on (R274). -/
def State.took (s : State) (t : TileId) (n : Nat) (ports : List Nat) (v : SoState) : State :=
  (ports.foldl (fun s p => dropHead s t n p) s).setSo t n v
/-- The step of a node ends in the state given, which counts as progress (R274). -/
def Steps (i : Instr) (s : State) (t : TileId) (s' : State) : Prop := exec i s = .next (progress s' (s.tile t).inst)

/-- f of R92 and R93 on the low n bits of S, T and D. -/
def intResult (k : Alu3) (n : Nat) (s t d : Word) : Word :=
  let a := s.setWidth n
  let b := t.setWidth n
  let c := t.toNat % 64
  let r : BitVec n :=
    match k with
    | .add => a + b
    | .sub => a - b
    | .and => a &&& b
    | .or => a ||| b
    | .xor => a ^^^ b
    | .andn => a &&& ~~~b
    | .orn => a ||| ~~~b
    | .xnor => ~~~(a ^^^ b)
    | .shl => a <<< c
    | .shr => a >>> c
    | .sar => a.sshiftRight c
    | .rol => a.rotateLeft c
    | .min => if a.toInt < b.toInt then a else b
    | .max => if b.toInt < a.toInt then a else b
    | .minu => if a.toNat < b.toNat then a else b
    | .maxu => if b.toNat < a.toNat then a else b
    | .mul => a * b
    | .mulh => BitVec.ofInt n (a.toInt * b.toInt / 2 ^ n)
    | .mulhu => BitVec.ofNat n (a.toNat * b.toNat / 2 ^ n)
    | .mad => d.setWidth n + a * b
    | .divu => if b = 0 then BitVec.allOnes n else BitVec.ofNat n (a.toNat / b.toNat)
    | .remu => if b = 0 then a else BitVec.ofNat n (a.toNat % b.toNat)
    | .absd => BitVec.ofNat n (a.toInt - b.toInt).natAbs
  r.setWidth 64

/-- f of R94 on the low n bits of S. -/
def unaryResult (k : Alu2) (n : Nat) (s : Word) : Word :=
  let a := s.setWidth n
  let r : BitVec n :=
    match k with
    | .mov => a
    | .neg => -a
    | .not => ~~~a
    | .abs => BitVec.ofNat n a.toInt.natAbs
    | .clz => BitVec.ofNat n ((List.range n).takeWhile (fun i => !a.getMsbD i)).length
    | .ctz => BitVec.ofNat n ((List.range n).takeWhile (fun i => !a.getLsbD i)).length
    | .popc => BitVec.ofNat n ((List.range n).countP (fun i => a.getLsbD i))
    | .brev => a.reverse
  r.setWidth 64

/-- R95: S and the sign-extended immediate, at 64 bits. -/
def immResult (k : AluK) (s : Word) (imm : BitVec 19) : Word :=
  let b : Word := imm.signExtend 64
  let c := imm.toNat % 64
  match k with
  | .add => s + b
  | .and => s &&& b
  | .or => s ||| b
  | .xor => s ^^^ b
  | .shl => s <<< c
  | .shr => s >>> c
  | .sar => s.sshiftRight c
  | .mul => s * b

/-- The conditions of R98 on two values of n bits. -/
def condResult (c : Cond) {n : Nat} (a b : BitVec n) : Bool :=
  match c with
  | .eq => a == b
  | .ne => a != b
  | .lt => a.slt b
  | .le => a.sle b
  | .ltu => a.ult b
  | .leu => a.ule b
  | .tst => a &&& b != 0

end Sys2Proof.Machine
end

