-- ==== Sys2Proof/Certificates/Slice0/Obligations.lean ====
section
/-! DEFINITION. The statements for the provers: what the instructions and the machine do, from the numbered rules of the spec.
`Leaves i s t f'` says that i completes with the firing f' advanced and nothing else of the machine changed. -/

open Sys2Proof Sys2Proof.Machine


/-! Arithmetic, predicates and lanes (R88 to R142) -/

/-- R88, R92, R93: each two-source integer form writes the low n bits of its table entry, zero-extended, to slot D; nothing else of
the machine changes but the program counter. -/
def Obligations.TwoSourceIntegerFormsWriteTheirTableEntry : Prop :=
  ∀ (s : State) (t : TileId) (f : Firing) (o : HR3), Issues s t f o.g → Usable f (sl o.d ++ sl o.s ++ sl o.t) →
    let r := fun k => f.setSlot o.d.toNat
      (intResult k (widthBits o.w) (f.slot o.s.toNat) (f.slot o.t.toNat) (f.slot o.d.toNat))
    Leaves (.add o) s t (r .add) ∧ Leaves (.sub o) s t (r .sub) ∧ Leaves (.and o) s t (r .and) ∧ Leaves (.or o) s t (r .or) ∧
    Leaves (.xor o) s t (r .xor) ∧ Leaves (.andn o) s t (r .andn) ∧ Leaves (.orn o) s t (r .orn) ∧ Leaves (.xnor o) s t (r .xnor) ∧
    Leaves (.shl o) s t (r .shl) ∧ Leaves (.shr o) s t (r .shr) ∧ Leaves (.sar o) s t (r .sar) ∧ Leaves (.rol o) s t (r .rol) ∧
    Leaves (.min o) s t (r .min) ∧ Leaves (.max o) s t (r .max) ∧ Leaves (.minu o) s t (r .minu) ∧ Leaves (.maxu o) s t (r .maxu) ∧
    Leaves (.mul o) s t (r .mul) ∧ Leaves (.mulh o) s t (r .mulh) ∧ Leaves (.mulhu o) s t (r .mulhu) ∧
    Leaves (.mad o) s t (r .mad) ∧ Leaves (.divu o) s t (r .divu) ∧ Leaves (.remu o) s t (r .remu) ∧ Leaves (.absd o) s t (r .absd)

/-- R88, R94 to R96: the one-source forms write the low n bits of their table entry, zero-extended, to slot D; the immediate forms compute at
64 bits with the sign-extended immediate; LI sign-extends its 29 bits, LUI places them at bit 29 and sign-extends, LTOP replaces bits
63:58 of D. -/
def Obligations.OneSourceImmediateAndConstantForms : Prop :=
  (∀ (s : State) (t : TileId) (f : Firing) (o : HR2), Issues s t f o.g → Usable f (sl o.d ++ sl o.s) →
      let r := fun k => f.setSlot o.d.toNat (unaryResult k (widthBits o.w) (f.slot o.s.toNat))
      Leaves (.mov o) s t (r .mov) ∧ Leaves (.neg o) s t (r .neg) ∧ Leaves (.not o) s t (r .not) ∧ Leaves (.abs o) s t (r .abs) ∧
      Leaves (.clz o) s t (r .clz) ∧ Leaves (.ctz o) s t (r .ctz) ∧ Leaves (.popc o) s t (r .popc) ∧ Leaves (.brev o) s t (r .brev)) ∧
  (∀ (s : State) (t : TileId) (f : Firing) (o : HK), Issues s t f o.g → Usable f (sl o.d ++ sl o.s) →
      let r := fun k => f.setSlot o.d.toNat (immResult k (f.slot o.s.toNat) o.imm)
      Leaves (.addi o) s t (r .add) ∧ Leaves (.andi o) s t (r .and) ∧ Leaves (.ori o) s t (r .or) ∧ Leaves (.xori o) s t (r .xor) ∧
      Leaves (.shli o) s t (r .shl) ∧ Leaves (.shri o) s t (r .shr) ∧ Leaves (.sari o) s t (r .sar) ∧ Leaves (.muli o) s t (r .mul)) ∧
  (∀ (s : State) (t : TileId) (f : Firing) (o : HI), Issues s t f o.g → Usable f (sl o.d) →
      Leaves (.li o) s t (f.setSlot o.d.toNat (o.imm.signExtend 64)) ∧
      Leaves (.lui o) s t (f.setSlot o.d.toNat ((o.imm.signExtend 64) <<< 29)) ∧
      Leaves (.ltop o) s t (f.setSlot o.d.toNat (o.imm.setWidth 6 ++ (f.slot o.d.toNat).setWidth 58)))

/-- R97: BFX and BFXS extract a field zero-extended and sign-extended; BFI inserts one at pos plus T[5:0] and drops what would
land above bit 63; SEL chooses by a predicate, p0 choosing S. -/
def Obligations.BitFieldFormsExtractInsertAndSelect : Prop :=
  ∀ (s : State) (t : TileId) (f : Firing),
    (∀ (o : BF), Issues s t f o.g → Usable f (sl o.d ++ sl o.s) →
      let v := (f.slot o.s.toNat >>> o.pos.toNat).setWidth (o.len1.toNat + 1)
      Leaves (.bfx o) s t (f.setSlot o.d.toNat (v.setWidth 64)) ∧ Leaves (.bfxs o) s t (f.setSlot o.d.toNat (v.signExtend 64))) ∧
    (∀ (o : BFIo), Issues s t f o.g → Usable f (sl o.d ++ sl o.s ++ sl o.t) →
      ∃ v : Word, Leaves (.bfi o) s t (f.setSlot o.d.toNat v) ∧
        ∀ i, i < 64 →
          let q := o.pos.toNat + (f.slot o.t.toNat).toNat % 64
          v.getLsbD i = if q ≤ i ∧ i ≤ q + o.len1.toNat then (f.slot o.s.toNat).getLsbD (i - q) else (f.slot o.d.toNat).getLsbD i) ∧
    (∀ (o : SELo), Issues s t f o.g → Usable f (sl o.d ++ sl o.s ++ sl o.t) →
      Leaves (.sel o) s t (f.setSlot o.d.toNat (if f.pred o.p then f.slot o.s.toNat else f.slot o.t.toNat)) ∧
      f.pred 0 = true)

/-- R51, R98, R99: the compares write predicate D with their condition, at width W and against the sign-extended immediate at 64 bits;
the predicate forms write predicate D; a predicate reads back as written and the others as before, and p0 reads as 1 whatever is
written to it. -/
def Obligations.ComparesAndPredicateFormsWritePredicates : Prop :=
  ((∀ (s : State) (t : TileId) (f : Firing) (o : CMPo), Issues s t f o.g → Usable f (sl o.s ++ sl o.t) →
      let n := widthBits o.w
      let r := fun c => f.setPred o.p (condResult c ((f.slot o.s.toNat).setWidth n) ((f.slot o.t.toNat).setWidth n))
      Leaves (.cmpEq o) s t (r .eq) ∧ Leaves (.cmpNe o) s t (r .ne) ∧ Leaves (.cmpLt o) s t (r .lt) ∧ Leaves (.cmpLe o) s t (r .le) ∧
      Leaves (.cmpLtu o) s t (r .ltu) ∧ Leaves (.cmpLeu o) s t (r .leu) ∧ Leaves (.cmpTst o) s t (r .tst)) ∧
    (∀ (s : State) (t : TileId) (f : Firing) (o : CMPIo), Issues s t f o.g → Usable f (sl o.s) →
      let r := fun c => f.setPred o.p (condResult c (f.slot o.s.toNat) (o.imm.signExtend 64))
      Leaves (.cmpiEq o) s t (r .eq) ∧ Leaves (.cmpiNe o) s t (r .ne) ∧ Leaves (.cmpiLt o) s t (r .lt) ∧
      Leaves (.cmpiLe o) s t (r .le) ∧ Leaves (.cmpiLtu o) s t (r .ltu) ∧ Leaves (.cmpiLeu o) s t (r .leu) ∧
      Leaves (.cmpiTst o) s t (r .tst))) ∧
  ((∀ (s : State) (t : TileId) (f : Firing) (o : PP3), Issues s t f o.g →
      Leaves (.pand o) s t (f.setPred o.p (f.pred o.s && f.pred o.t)) ∧ Leaves (.por o) s t (f.setPred o.p (f.pred o.s || f.pred o.t)) ∧
      Leaves (.pxor o) s t (f.setPred o.p (f.pred o.s ^^ f.pred o.t))) ∧
    (∀ (s : State) (t : TileId) (f : Firing) (o : PP2), Issues s t f o.g →
      Leaves (.pnot o) s t (f.setPred o.p (!f.pred o.s)) ∧ Leaves (.pmov o) s t (f.setPred o.p (f.pred o.s))) ∧
    (∀ (s : State) (t : TileId) (f : Firing) (o : PSETo), Issues s t f o.g → Leaves (.pset o) s t (f.setPred o.p o.v)) ∧
    (∀ (s : State) (t : TileId) (f : Firing) (o : PLDo), Issues s t f o.g → Usable f (sl o.s) →
      Leaves (.pld o) s t (f.setPred o.p ((f.slot o.s.toNat).getLsbD o.bit.toNat))) ∧
    (∀ (f : Firing) (p q : BitVec 3) (v : Bool), (f.setPred p v).pred q = if q = 0 then true else if q = p then v else f.pred q))

/-- R101: AGEN walks the shape from the innermost dimension, AINC adds the product of the bounds below dimension K (one above 2^64 - 1 counting as 2^64), ACHK tells
whether S lies below the product of the bounds. Only the slots of the dimensions used are named. -/
def Obligations.ShapeFormsWalkTheirDimensions : Prop :=
  (∀ (s : State) (t : TileId) (f : Firing) (o : AGENo), Issues s t f o.g →
    Usable f (sl o.d ++ sl o.s ++ shapeSlots o.q (o.m1.toNat + 1)) →
    Leaves (.agen o) s t (f.setSlot o.d.toNat
      (BitVec.ofInt 64 (agenWalk (shapeWords f o.q (o.m1.toNat + 1)) (f.slot o.s.toNat).toNat 0)))) ∧
  (∀ (s : State) (t : TileId) (f : Firing) (o : AINCo), Issues s t f o.g → Usable f (sl o.d ++ shapeSlots o.q o.k.toNat) →
    Leaves (.ainc o) s t (f.setSlot o.d.toNat
      (f.slot o.d.toNat + BitVec.ofNat 64 (Nat.min ((shapeWords f o.q o.k.toNat).map shapeBound).prod (2 ^ 64))))) ∧
  (∀ (s : State) (t : TileId) (f : Firing) (o : ACHKo), Issues s t f o.g →
    Usable f (sl o.s ++ shapeSlots o.q (o.m1.toNat + 1)) →
    Leaves (.achk o) s t (f.setPred o.p
      (decide ((f.slot o.s.toNat).toNat < ((shapeWords f o.q (o.m1.toNat + 1)).map shapeBound).prod))))

/-- R121, R125 to R132: the scalar floating forms and the conversions write their result to the low bits of slot D, the rest zero, and OR
the flags it raises into FPF; the compares write a predicate. The values are those of the model's exact arithmetic with one rounding
(Float).
Model's choices: log 13, 14. -/
def Obligations.FloatAndConversionFormsWriteResultAndFlags : Prop :=
  ((∀ (s : State) (t : TileId) (f : Firing) (o : F3), Issues s t f o.g → Usable f (sl o.d ++ sl o.s ++ sl o.t) →
      let m := fmtOf o.ty
      let a := (f.slot o.s.toNat).toNat
      let b := (f.slot o.t.toNat).toNat
      Leaves (.fadd o) s t (f.setFloat o.d (fAdd m a b)) ∧ Leaves (.fsub o) s t (f.setFloat o.d (fSub m a b)) ∧
      Leaves (.fmul o) s t (f.setFloat o.d (fMul m a b)) ∧ Leaves (.fmin o) s t (f.setFloat o.d (fMin m a b)) ∧
      Leaves (.fmax o) s t (f.setFloat o.d (fMax m a b)) ∧ Leaves (.fcpys o) s t (f.setFloat o.d (fCpys m a b)) ∧
      Leaves (.ffma o) s t (f.setFloat o.d (fFma m a b (f.slot o.d.toNat).toNat))) ∧
    (∀ (s : State) (t : TileId) (f : Firing) (o : F2), Issues s t f o.g → Usable f (sl o.d ++ sl o.s) →
      let m := fmtOf o.ty
      let a := (f.slot o.s.toNat).toNat
      Leaves (.frcp o) s t (f.setFloat o.d (fRcp m a)) ∧ Leaves (.frsq o) s t (f.setFloat o.d (fRsq m a)) ∧
      Leaves (.fsqrt o) s t (f.setFloat o.d (fSqrt m a)) ∧ Leaves (.fexp2 o) s t (f.setFloat o.d (fExp2 m a)) ∧
      Leaves (.flog2 o) s t (f.setFloat o.d (fLog2 m a)) ∧ Leaves (.fneg o) s t (f.setFloat o.d (fNeg m a)) ∧
      Leaves (.fabs o) s t (f.setFloat o.d (fAbs m a)) ∧ Leaves (.frnd o) s t (f.setFloat o.d (fRnd m a))) ∧
    (∀ (s : State) (t : TileId) (f : Firing) (o : FCMPo), Issues s t f o.g → Usable f (sl o.s ++ sl o.t) →
      let r := fun c => fCond (fmtOf o.ty) c (f.slot o.s.toNat).toNat (f.slot o.t.toNat).toNat
      let w := fun c => (f.setPred o.p (r c).1).raiseFlags (r c).2
      Leaves (.fcmpEq o) s t (w 0) ∧ Leaves (.fcmpNe o) s t (w 1) ∧ Leaves (.fcmpLt o) s t (w 2) ∧ Leaves (.fcmpLe o) s t (w 3) ∧
      Leaves (.fcmpUn o) s t (w 4)) ∧
    (∀ (f : Firing) (d : BitVec 10) (v : Nat) (x : Flags), (f.setFloat d (v, x)).fpf = f.fpf ||| x.bits)) ∧
  (∀ (s : State) (t : TileId) (f : Firing),
      (∀ (o : CVTI), Issues s t f o.g → Usable f (sl o.d ++ sl o.s) →
        let r := cvtFI (fmtOf o.fty) o.ity (f.slot o.s.toNat)
        Leaves (.cvtif o) s t (f.setFloat o.d (cvtIF (fmtOf o.fty) o.ity (f.slot o.s.toNat))) ∧
        Leaves (.cvtfi o) s t ((f.setSlot o.d.toNat r.1).raiseFlags r.2)) ∧
      (∀ (o : CVTFFo), Issues s t f o.g → Usable f (sl o.d ++ sl o.s) →
        Leaves (.cvtff o) s t (f.setFloat o.d (fConv (fmtOf o.src) (fmtOf o.tgt) true (f.slot o.s.toNat).toNat))) ∧
      (∀ (o : CVT8), Issues s t f o.g → Usable f (sl o.d ++ sl o.s) →
        Leaves (.cvtf8 o) s t (f.setFloat o.d (fConv (fmtOf o.fty) (f8Of o.e5m2) true (f.slot o.s.toNat).toNat)) ∧
        Leaves (.cvt8f o) s t (f.setFloat o.d (fConv (f8Of o.e5m2) (fmtOf o.fty) false (f.slot o.s.toNat).toNat))))

/-- R133 to R136: the lane forms read whole octets and write octet D (VMAD and VFFMA read D too); the floating ones OR the flags of every
lane into FPF. -/
def Obligations.LaneArithmeticWritesItsOctet : Prop :=
  (∀ (s : State) (t : TileId) (f : Firing),
      (∀ (o : V3), Issues s t f o.g → Usable f (octSlots o.d ++ octSlots o.s ++ octSlots o.t) →
        let r := fun k => f.setOctet o.d (vArith k o.ty o.sat (f.octet o.d) (f.octet o.s) (f.octet o.t))
        Leaves (.vadd o) s t (r .add) ∧ Leaves (.vsub o) s t (r .sub) ∧ Leaves (.vmul o) s t (r .mul) ∧ Leaves (.vmad o) s t (r .mad) ∧
        Leaves (.vmin o) s t (r .min) ∧ Leaves (.vmax o) s t (r .max) ∧ Leaves (.vabsd o) s t (r .absd) ∧ Leaves (.vavg o) s t (r .avg)) ∧
      (∀ (o : VL3), Issues s t f o.g → Usable f (octSlots o.d ++ octSlots o.s ++ octSlots o.t) →
        let r := fun k => f.setOctet o.d (vLogic k o.ty (f.octet o.s) (f.octet o.t))
        Leaves (.vand o) s t (f.setOctet o.d (f.octet o.s &&& f.octet o.t)) ∧
        Leaves (.vor o) s t (f.setOctet o.d (f.octet o.s ||| f.octet o.t)) ∧
        Leaves (.vxor o) s t (f.setOctet o.d (f.octet o.s ^^^ f.octet o.t)) ∧
        Leaves (.vandn o) s t (r .andn) ∧ Leaves (.vshl o) s t (r .shl) ∧ Leaves (.vshr o) s t (r .shr) ∧ Leaves (.vsar o) s t (r .sar))) ∧
  (∀ (s : State) (t : TileId) (f : Firing),
      (∀ (o : VF3), Issues s t f o.g → Usable f (octSlots o.d ++ octSlots o.s ++ octSlots o.t) →
        let r := fun k => f.setOctetF o.d (vFloat k o.ty (f.octet o.d) (f.octet o.s) (f.octet o.t))
        Leaves (.vfadd o) s t (r .add) ∧ Leaves (.vfsub o) s t (r .sub) ∧ Leaves (.vfmul o) s t (r .mul) ∧
        Leaves (.vffma o) s t (r .fma) ∧ Leaves (.vfmin o) s t (r .min) ∧ Leaves (.vfmax o) s t (r .max)) ∧
      (∀ (o : VF2), Issues s t f o.g → Usable f (octSlots o.d ++ octSlots o.s) →
        Leaves (.vfexp2 o) s t (f.setOctetF o.d (vFloat .exp2 o.ty 0 (f.octet o.s) 0)) ∧
        Leaves (.vfrcp o) s t (f.setOctetF o.d (vFloat .rcp o.ty 0 (f.octet o.s) 0))))

/-- R133, R135, R137 to R142: lane compares, selection, broadcast, extraction, insertion, permutation, population counts, reductions, lane
conversions and the plane forms write D; a plane form writes bit i of its word p from bit p of sample i. -/
def Obligations.LaneMovesReductionsAndPlanesWriteD : Prop :=
  (∀ (s : State) (t : TileId) (f : Firing),
      (∀ (o : VCMPo), Issues s t f o.g → Usable f (octSlots o.d ++ octSlots o.s ++ octSlots o.t) →
        Leaves (.vcmp o) s t (f.setOctet o.d (vCmp o.ty o.cc.toNat (f.octet o.s) (f.octet o.t)))) ∧
      (∀ (o : VFCMPo), Issues s t f o.g → Usable f (octSlots o.d ++ octSlots o.s ++ octSlots o.t) →
        Leaves (.vfcmp o) s t (f.setOctetF o.d (vFcmp o.ty o.cc.toNat (f.octet o.s) (f.octet o.t)))) ∧
      (∀ (o : VSELo), Issues s t f o.g → Usable f (octSlots o.d ++ octSlots o.s ++ octSlots o.t ++ octSlots o.m) →
        Leaves (.vsel o) s t (f.setOctet o.d (vSel o.ty (f.octet o.s) (f.octet o.t) (f.octet o.m)))) ∧
      (∀ (o : VBCASTo), Issues s t f o.g → Usable f (octSlots o.d ++ sl o.s) →
        Leaves (.vbcast o) s t (f.setOctet o.d (vBcast o.ty (f.slot o.s.toNat)))) ∧
      (∀ (o : VEXTo), Issues s t f o.g → Usable f (sl o.d ++ octSlots o.s) →
        Leaves (.vext o) s t (f.setSlot o.d.toNat (vExt o.ty (f.octet o.s) o.lane.toNat))) ∧
      (∀ (o : VINSo), Issues s t f o.g → Usable f (octSlots o.d ++ sl o.s) →
        Leaves (.vins o) s t (f.setOctet o.d (vIns o.ty (f.octet o.d) (f.slot o.s.toNat) o.lane.toNat))) ∧
      (∀ (o : VPERMo), Issues s t f o.g → Usable f (octSlots o.d ++ octSlots o.s ++ octSlots o.t) →
        Leaves (.vperm o) s t (f.setOctet o.d (vPerm o.ty (f.octet o.s) (f.octet o.t)))) ∧
      (∀ (o : VSHUFo), Issues s t f o.g → Usable f (octSlots o.d ++ octSlots o.s) →
        Leaves (.vshuf o) s t (f.setOctet o.d (vShuf o.ty o.op.toNat o.k.toNat (f.octet o.s))))) ∧
  (∀ (s : State) (t : TileId) (f : Firing),
      (∀ (o : VI2), Issues s t f o.g → Usable f (octSlots o.d ++ octSlots o.s) →
        Leaves (.vpopc o) s t (f.setOctet o.d (vLogic .popc o.ty (f.octet o.s) 0)) ∧
        Leaves (.vredadd o) s t (f.setOctet o.d (vRed .add o.ty (f.octet o.s)).toNat) ∧
        Leaves (.vredmax o) s t (f.setOctet o.d (vRed .max o.ty (f.octet o.s)).toNat) ∧
        Leaves (.vredmin o) s t (f.setOctet o.d (vRed .min o.ty (f.octet o.s)).toNat) ∧
        (∃ v, Leaves (.vplane o) s t (f.setOctet o.d v) ∧
          ∀ p i, p < 8 → i < 64 → v.testBit (64 * p + i) = (f.octet o.s).testBit (8 * i + p)) ∧
        (∃ v, Leaves (.vunplane o) s t (f.setOctet o.d v) ∧
          ∀ p i, p < 8 → i < 64 → v.testBit (8 * i + p) = (f.octet o.s).testBit (64 * p + i))) ∧
      (∀ (o : VF2), Issues s t f o.g → Usable f (octSlots o.d ++ octSlots o.s) →
        Leaves (.vfredadd o) s t (f.setOctetF o.d (vFredAdd o.ty (f.octet o.s))) ∧
        Leaves (.vfredmax o) s t (f.setOctetF o.d (vFredMax o.ty (f.octet o.s)))) ∧
      (∀ (o : VCVTo), Issues s t f o.g → Usable f (octSlots o.d ++ octSlots o.s) →
        Leaves (.vcvt o) s t (f.setOctetF o.d (vCvt o.src o.tgt o.sat (f.octet o.s)))) ∧
      (∀ (o : VI2), Issues s t f o.g → Usable f (pairSlots o.d ++ pairSlots o.s) →
        let src := f.slotsNat (8 * o.s.toNat) 16
        (∃ v, Leaves (.vplane16 o) s t (f.setSlotsNat (8 * o.d.toNat) v 16) ∧
          ∀ p i, p < 16 → i < 64 → v.testBit (64 * p + i) = src.testBit (16 * i + p)) ∧
        (∃ v, Leaves (.vunplane16 o) s t (f.setSlotsNat (8 * o.d.toNat) v 16) ∧
          ∀ p i, p < 16 → i < 64 → v.testBit (16 * i + p) = src.testBit (64 * p + i))))

/-! Control (R102 to R110) -/

/-- R102, R103, R107: BR and CALL go to the word off away, RET to the top of the return stack, JR to slot S; BR and JR leave the
loops whose words do not hold the target; a target without a loaded word, a fifth return address and a missing one are ILLEGAL.
Model's choices: log 18. -/
def Obligations.TransfersGoToTheirWord : Prop :=
  ∀ (s : State) (t : TileId) (f : Firing),
    let left := fun (pc : Nat) => f.loops.filter (fun p => decide (p.2.first ≤ pc) && decide (pc ≤ p.2.last))
    (∀ (o : HJ) (pc : Nat), Issues s t f o.g → (pc : Int) = f.pc + o.off.toInt → loaded s t pc = true →
      Becomes (.br o) s t s { f with pc := pc, loops := left pc, waveLast := if pc ≤ f.pc then none else f.waveLast, retried := false } ∧
      (f.rstack.length < 4 →
        Becomes (.call o) s t s { f with pc := pc, rstack := (f.pc + 1) :: f.rstack, waveLast := none, retried := false }) ∧
      (4 ≤ f.rstack.length → Faults (.call o) s t f { code := .illegal })) ∧
    (∀ (o : HJ), Issues s t f o.g → (∀ pc : Nat, (pc : Int) = f.pc + o.off.toInt → loaded s t pc = false) →
      Faults (.br o) s t f { code := .illegal } ∧ Faults (.call o) s t f { code := .illegal }) ∧
    (∀ (g : BitVec 4), Issues s t f g →
      (∀ r l, f.rstack = r :: l → loaded s t r = true → Becomes (.ret g) s t s { f with pc := r, rstack := l, waveLast := none, retried := false }) ∧
      (f.rstack = [] → Faults (.ret g) s t f { code := .illegal })) ∧
    (∀ (o : OneS), Issues s t f o.g → Usable f (sl o.s) →
      let pc := (f.slot o.s.toNat).toNat
      (loaded s t pc = true → Becomes (.jr o) s t s { f with pc := pc, loops := left pc, waveLast := none, retried := false }) ∧
      (loaded s t pc = false → Faults (.jr o) s t f { code := .illegal }))

/-- R104 to R106, R108: LOOP, LOOPI and LOOPS start a loop over the next LEN words with their count (slot S held to 2^32 - 1, the
immediate, the 32 bits of a dimension of a shape octet in memory), or skip the body when it is 0; LBRK leaves the loop and those
inside it. At the last word of a loop the index rises and the body runs again while the index stays below the bound, else the loop
ends and the next word follows.
Model's choices: log 18, 20. -/
def Obligations.LoopFormsStartRepeatAndLeave : Prop :=
  (∀ (s : State) (t : TileId) (f : Firing),
      let begun := fun (f : Firing) (lc : BitVec 2) (c len : Nat) =>
        if c = 0 then { f with pc := f.pc + len + 1, waveLast := none, retried := false }
        else { f with pc := f.pc + 1, waveLast := none, retried := false
                      loops := tabSet f.loops lc.toNat { index := 0, bound := c, first := f.pc + 1, last := f.pc + len } }
      (∀ (o : LOOPo), Issues s t f o.g → Usable f (sl o.s) → loopOk s t f o.lc.toNat o.len.toNat = true →
        Becomes (.loop o) s t s (begun f o.lc (Nat.min (f.slot o.s.toNat).toNat (2 ^ 32 - 1)) o.len.toNat)) ∧
      (∀ (o : LOOPIo), Issues s t f o.g → loopOk s t f o.lc.toNat o.len.toNat = true →
        Becomes (.loopi o) s t s (begun f o.lc o.count.toNat o.len.toNat)) ∧
      (∀ (o : LOOPSo) (p : XPage), Issues s t f o.g → Usable f (sl o.s) → loopOk s t f o.lc.toNat o.len.toNat = true →
        let va := (f.slot o.s.toNat).toNat
        let a := va + 8 * o.dim.toNat
        let s1 := noteUse s p
        let r := lineData s1 t.stk (s1.ctxOf f) p.key
        va % 64 = 0 → covered f a 4 false = true → Stands s t f .load false a 4 p → lineSound s1 p.key = .ok () →
        ownBytes s1 t f.id (p.key - p.key % 128) = (0, 0) →
        Becomes (.loops o) s t r.2 (begun { f with fetched := [] } o.lc (r.1.extractLsb' (8 * (p.key % 128)) 32).toNat o.len.toNat)) ∧
      (∀ (o : LCo) (l : LoopCtr), Issues s t f o.g → tabFind f.loops o.lc.toNat = some l →
        Becomes (.lbrk o) s t s { f with
          pc := l.last + 1, waveLast := none, retried := false
          loops := f.loops.filter (fun p => !(decide (l.first ≤ p.2.first) && decide (p.2.last ≤ l.last))) }) ∧
      (∀ (o : LCo), Issues s t f o.g → tabFind f.loops o.lc.toNat = none → Faults (.lbrk o) s t f { code := .illegal })) ∧
  (∀ (f : Firing) (n : Nat) (l : LoopCtr), f.loops = [(n, l)] →
      (f.pc ≠ l.last → f.advance = { f with pc := f.pc + 1, fetched := [], retried := false, spilled := [] }) ∧
      (f.pc = l.last → l.index + 1 < l.bound →
        f.advance = { f with
          pc := l.first, loops := [(n, { l with index := l.index + 1 })], waveLast := none, fetched := [], retried := false, spilled := [] }) ∧
      (f.pc = l.last → l.bound ≤ l.index + 1 →
        f.advance = { f with pc := f.pc + 1, loops := [], waveLast := none, fetched := [], retried := false, spilled := [] }))

/-- R110, R190, R236: EXIT and EXITR begin to drain and the retire follows, YIELD makes the firing the youngest READY one, WAITP
goes on where a tag it names is pending and else stalls, NOP only moves on.
Model's choices: log 16. -/
def Obligations.EndingYieldingAndWaitingForms : Prop :=
  ∀ (s : State) (t : TileId) (f : Firing),
    (∀ (g : BitVec 4), Issues s t f g →
      Becomes (.exit g) s t (s.later (.retire t f.id)) { f with st := .draining, rstep := 0 } ∧
      Becomes (.yield g) s t { s with nextAge := s.nextAge + 1 } { f.advance with st := .ready, age := s.nextAge }) ∧
    (∀ (o : OneS), Issues s t f o.g → Usable f (sl o.s) →
      Becomes (.exitr o) s t (s.later (.retire t f.id))
        { f with exitStatus := some (f.slot o.s.toNat), st := .draining, rstep := 0 }) ∧
    (∀ (o : M16), Issues s t f o.g →
      (tabGet 0 (s.tile t).tagP f.node &&& o.m ≠ 0 → Leaves (.waitp o) s t f) ∧
      (tabGet 0 (s.tile t).tagP f.node &&& o.m = 0 →
        Becomes (.waitp o) s t s { f with st := .stalled, wait := .tags o.m })) ∧
    (∀ (o : NOPo), Issues s t f o.g →
      (o.wave = none → Leaves (.nop o) s t f) ∧
      (∀ w, o.wave = some w → waveOkAfter f.waveLast w = true → Becomes (.nop o) s t s (f.pastMember w)) ∧
      (∀ w, o.wave = some w → waveOkAfter f.waveLast w = false → ∃ d, Faults (.nop o) s t f { code := .wave, detail := d }))

/-! Loads, stores and windows (R145 to R158) -/

/-- R145, R147, R148, R151: a load of bytes at a home of this device lands them, zero- or sign-extended, in slot D, or 64 of them in
octet D: each byte the firing's own where it has buffered that byte, else the line's. An address that is no multiple of the size is
ALIGN, and one that its windows do not cover is WINDOW.
Model's choices: log 20. -/
def Obligations.LoadsLandTheirBytes : Prop :=
  ∀ (s : State) (t : TileId) (f : Firing) (p : XPage),
    let s1 := noteUse s p
    let r := lineData s1 t.stk (s1.ctxOf f) p.key
    let at_ := p.key % 128
    let b := ownBytes s1 t f.id (p.key - at_)
    let whole := fun n => b.2 / 2 ^ at_ % 2 ^ n = 2 ^ n - 1
    let mixed := fun (n : Nat) (x : BitVec 1024) => ∀ k < n, x.extractLsb' (8 * (at_ + k)) 8 =
      if b.2.testBit (at_ + k) then BitVec.ofNat 8 (b.1 / 2 ^ (8 * (at_ + k))) else r.1.extractLsb' (8 * (at_ + k)) 8
    let ready := fun (w : Wave) (ea n : Nat) => ea % n = 0 ∧ waveOkAfter f.waveLast w = true ∧ covered f ea n false = true ∧
      Stands s t f .load false ea n p ∧ lineSound s1 p.key = .ok ()
    (∀ (o : MEMo) (i : Instr) (n : Nat) (signed : Bool),
      (i, n, signed) ∈ [(.ldb o, 1, false), (.ldbs o, 1, true), (.ldh o, 2, false), (.ldhs o, 2, true), (.ldw o, 4, false),
        (.ldws o, 4, true), (.ldd o, 8, false)] →
      Issues s t f o.g → Usable f (sl o.d ++ sl o.s) →
      let ea := effAddr f o.s o.off n
      let land := fun (x : BitVec 1024) =>
        let v := x.extractLsb' (8 * at_) (8 * n)
        (f.setSlot o.d.toNat (if signed then v.signExtend 64 else v.setWidth 64)).pastMember o.wave
      (ready o.wave ea n → ¬whole n → ∃ x, mixed n x ∧ Becomes i s t r.2 (land x)) ∧
      (ready o.wave ea n → whole n → Becomes i s t s1 (land (BitVec.ofNat 1024 b.1))) ∧
      (ea % n ≠ 0 → Faults i s t f { code := .align, detail := vaDetail ea }) ∧
      (ea % n = 0 → waveOkAfter f.waveLast o.wave = true → covered f ea n false = false →
        Faults i s t f { code := .window, detail := vaDetail ea })) ∧
    (∀ (o : MEMVo), Issues s t f o.g → Usable f (octSlots o.d ++ sl o.s) → ready o.wave (effAddr f o.s o.off 64) 64 →
      let land := fun (x : BitVec 1024) => (f.setOctet o.d (x.extractLsb' (8 * at_) 512).toNat).pastMember o.wave
      (¬whole 64 → ∃ x, mixed 64 x ∧ Becomes (.ldv o) s t r.2 (land x)) ∧
      (whole 64 → Becomes (.ldv o) s t s1 (land (BitVec.ofNat 1024 b.1)))) ∧
    (stackOfKey p.key = t.stk → r = (BitVec.ofNat 1024 (memNat s1.mem (p.key / 128 * 128) 128), s1))

/-- R147, R149: a store that needs no spill (the firing holds the line, or fewer than 32 lines are held) and waits for none enters
the firing's bytes of its line in the tile's store buffer: those bytes are the stored value's, its other buffered bytes and every
other firing's stay, memory stays, and the firing moves on, on whichever device the line's home is.
Model's choices: log 21. -/
def Obligations.StoresEnterTheStoreBuffer : Prop :=
  ∀ (s : State) (t : TileId) (f : Firing) (p : Place),
    let s1 := notePlace s p
    let o := p.key % 128
    let line := p.key - o
    let stores := fun (i : Instr) (w : Wave) (ea n v : Nat) =>
      ea % n = 0 → waveOkAfter f.waveLast w = true → covered f ea n true = true →
      locate s (accessOf s t f .store true ea) = .ok p → o + n ≤ 128 → needsSpill s t f.id line = false → accepted s f = true →
      ∃ s2 : State, Becomes i s t s2 (f.pastMember w) ∧ s2.mem = s1.mem ∧ (∀ t', tileKey t' ≠ tileKey t → s2.tile t' = s.tile t') ∧
        (∀ k, k < 128 →
          let old := ownBytes s t f.id line
          let new := ownBytes s2 t f.id line
          new.2.testBit k = (old.2.testBit k || (decide (o ≤ k) && decide (k < o + n))) ∧
          (o ≤ k → k < o + n → new.1 / 2 ^ (8 * k) % 256 = v / 2 ^ (8 * (k - o)) % 256) ∧
          (¬(o ≤ k ∧ k < o + n) → old.2.testBit k = true → new.1 / 2 ^ (8 * k) % 256 = old.1 / 2 ^ (8 * k) % 256)) ∧
        (∀ fid key, (fid, key) ≠ (f.id, line) → ownBytes s2 t fid key = ownBytes s t fid key)
    (∀ (o : MEMo), Issues s t f o.g → Usable f (sl o.d ++ sl o.s) →
      let v := (f.slot o.d.toNat).toNat
      stores (.stb o) o.wave (effAddr f o.s o.off 1) 1 v ∧ stores (.sth o) o.wave (effAddr f o.s o.off 2) 2 v ∧
      stores (.stw o) o.wave (effAddr f o.s o.off 4) 4 v ∧ stores (.std o) o.wave (effAddr f o.s o.off 8) 8 v) ∧
    (∀ (o : MEMVo), Issues s t f o.g → Usable f (octSlots o.d ++ sl o.s) →
      stores (.stv o) o.wave (effAddr f o.s o.off 64) 64 (f.octet o.d)) ∧
    (∀ (o : LINEo), Issues s t f o.g → Usable f (sl o.s) → stores (.stz o) o.wave (effAddr f o.s o.off 128) 128 0)

/-- R152 to R155: an open of a window whose rectangle lies on this device is granted where no other holder's registration meets it
and the table has the entries: the registration enters the table, and the window is the firing's. Against another holder it is
RACE, and a window number in use is ILLEGAL. R158: WQRY reads what the firing's windows and the table say of an address, or bit 63
alone where it does not translate. -/
def Obligations.OpensRegisterAndQueriesRead : Prop :=
  ∀ (s : State) (t : TileId) (f : Firing), (∀ (o : WOPENo) (wr : Bool),
    Issues s t f o.g → Usable f [o.s.toNat, o.s.toNat + 1, o.s.toNat + 2, o.s.toNat + 3] →
    let i : Instr := if wr then .wopenw o else .wopenr o
    let n := o.win.toNat
    let v := fun k => (f.slot (o.s.toNat + k)).toNat
    let r : Rect := { base := v 0, rowb := v 1, pitch := v 2, rows := v 3 }
    let s1 : State := { s with nextId := s.nextId + 1 }
    ((tabFind f.wins n).isSome = true → Faults i s t f { code := .illegal }) ∧
    ((tabFind f.wins n).isNone = true → f.closing.any (fun c => c.1 == n) = false → rectOk r = false →
      Faults i s t f { code := .window, detail := vaDetail r.base }) ∧
    (∀ k rg uses, (tabFind f.wins n).isNone = true → f.closing.any (fun c => c.1 == n) = false → rectOk r = true →
      claim s1 (accessOf s1 t f .range wr r.base) (.firing t f.id) false s.nextId [r] { code := .window, detail := vaDetail r.base }
        = .ok (.here k rg uses) →
      (∀ l, launchOf s1 f = some l → l.record = false ∧ l.replay = false) →
      (firstConflict s1 k rg = none → regsFit s1 [(k, rg)] = true →
        Becomes i s t (rdcDropClaim (enterRegs s1 [(k, rg)] uses) t.stk (s1.ctxOf f) (.here k rg uses))
          (grantWindow f n { w := wr, base := BitVec.ofNat 64 r.base, rowb := r.rowb, pitch := r.pitch, rows := r.rows
                             wid := s.nextId, stk := k, remote := false, key := 0 }).past) ∧
      (∀ x, firstConflict s1 k rg = some x →
        exec i s = .next (takeFault s1 t f (raceInfo (areaBase rg.area) (s1.ctxOf f) x))))) ∧
    (∀ (q : DS), Issues s t f q.g → Usable f (sl q.d ++ sl q.s) →
      let va := (f.slot q.s.toNat).toNat
      (∀ e, locate s (accessOf s t f .load false va) = .error e →
        Becomes (.wqry q) s t s (f.setSlot q.d.toNat (BitVec.ofNat 64 (2 ^ 63))).past) ∧
      (∀ p, locate s (accessOf s t f .load false va) = .ok (.here p) → Becomes (.wqry q) s t s (f.setSlot q.d.toNat
        (BitVec.ofNat 64 (ownWindows f va + othersAt s p.key (.firing t f.id) * 512))).past))

/-- R150, R156: WCLOSE takes the window from the firing and commits it, WCLOSEA every window; an open one is required. Where the
firing has buffered one line, at a home of this device whose bus works, within the window, its bytes are then in memory, every
other byte of memory is as before, and the buffer holds the line no more.
Model's choices: log 27. -/
def Obligations.ClosesPublishBufferedBytes : Prop :=
  ∀ (s : State) (t : TileId) (f : Firing),
    (∀ (o : WINo), Issues s t f o.g → tabFind f.wins o.win.toNat = none → Faults (.wclose o) s t f { code := .illegal }) ∧
    (∀ (o : WINo) (w : Window), Issues s t f o.g → tabFind f.wins o.win.toNat = some w → w.remote = false →
      ∃ (s2 : State) (f2 : Firing), Becomes (.wclose o) s t s2 f2.past ∧ f2.wins = tabDel f.wins o.win.toNat ∧ f2.committed = true ∧
        f2.slots = f.slots ∧
        (∀ e, (s.tile t).store.filter (fun e => e.owner == f.id) = [e] → isAway e.key = false → busFailed s e.key = false →
          e.mask.toNat ≠ 0 → (∀ k, k < 128 → e.mask.getLsbD k = true → w.rect.covers (e.line + k) = true) →
          Memory.wf s.mem = true →
          (∀ a, s2.byte a = if e.key ≤ a ∧ a < e.key + 128 ∧ e.mask.getLsbD (a - e.key) = true
            then e.data.extractLsb' (8 * (a - e.key)) 8 else s.byte a) ∧
          ownBytes s2 t f.id e.key = (0, 0))) ∧
    (∀ (g : BitVec 4), Issues s t f g →
      ∃ (s2 : State) (f2 : Firing), Becomes (.wclosea g) s t s2 f2.past ∧ f2.slots = f.slots ∧
        (tabAbove 0 f.wins = true → f2.wins = []) ∧ f2.closing.length = f.closing.length + f.wins.length)

/-! Synchronisation (R159 to R167) -/

/-- R145, R159, R161: LDA and LDX read their bytes at the home, zero- or sign-extended, LDX leaving a reservation on the granule of
8 bytes; STL writes them there, and no other byte. Wider acquires drop the copies of other stacks' lines.
Model's choices: log 20. -/
def Obligations.SyncAccessesReachTheHome : Prop :=
  ∀ (s : State) (t : TileId) (f : Firing) (o : SYNCo) (p : XPage),
    Issues s t f o.g → Usable f (sl o.d ++ sl o.s) →
    let n := sizeBytes o.size
    let ea := effAddr f o.s o.off n
    let s1 := noteUse s p
    let bare := fun (k : AccKind) (w : Bool) => ea % n = 0 ∧ Stands s t f k w ea n p ∧ windowTouched s p.key = none ∧
      lineSound s p.key = .ok ()
    let v := BitVec.ofNat (8 * n) (memNat s1.mem p.key n)
    let land := f.setSlot o.d.toNat (if o.sg then v.signExtend 64 else v.setWidth 64)
    let drop := fun (s' : State) => if isAcq o.order then acqInvalidate s' t.stk (s'.ctxOf f) o.scope else s'
    (bare .load false → Becomes (.lda o) s t (drop s1) land.past ∧
      Becomes (.ldx o) s t (drop (setResv s1 (.firing t f.id) (p.key / 8 * 8)))
        { land with resv := some { va := BitVec.ofNat 64 ea, size := n, granule := some (p.key / 8 * 8) } }.past) ∧
    (bare .store true → (isRel o.order = true → relReady s t f = true) → busFailed s p.key = false → Memory.wf s.mem = true →
      ∃ s2 : State, Becomes (.stl o) s t s2 { f with committed := true }.past ∧
        ∀ a, s2.byte a = if p.key ≤ a ∧ a < p.key + n then (f.slot o.d.toNat).extractLsb' (8 * (a - p.key)) 8 else s1.byte a) ∧
    (ea % n ≠ 0 → Faults (.lda o) s t f { code := .align, detail := vaDetail ea } ∧
      Faults (.ldx o) s t f { code := .align, detail := vaDetail ea } ∧
      Faults (.stl o) s t f { code := .align, detail := vaDetail ea }) ∧
    (∀ x, ea % n = 0 → Stands s t f .load false ea n p → windowTouched s p.key = some x →
      Faults (.lda o) s t f (raceInfo ea (s.ctxOf f) x) ∧ Faults (.ldx o) s t f (raceInfo ea (s.ctxOf f) x))

/-- R161: STX stores where the firing holds a reservation on the granule and the address and size of its LDX, answers 0 and gives the
reservation up; else it stores nothing and answers 1. -/
def Obligations.StoreConditionalNeedsItsReservation : Prop :=
  ∀ (s : State) (t : TileId) (f : Firing) (o : ATOMo) (p : XPage),
    Issues s t f o.g → Usable f (sl o.d ++ sl o.s ++ sl o.t) →
    let n := sizeBytes o.size
    let ea := effAddr f o.s o.off n
    ea % n = 0 → Stands s t f .atomic true ea n p → windowTouched s p.key = none → lineSound s p.key = .ok () →
    (isRel o.order = true → relReady s t f = true) →
    let same := f.resv.any (fun r => decide (r.va.toNat = ea) && decide (r.size = n))
    let me := Holder.firing t f.id
    (same = true → hasResv s me (p.key / 8 * 8) = true → hasResv (noteUse s p) me (p.key / 8 * 8) = true → busFailed s p.key = false →
      Memory.wf s.mem = true →
      ∃ s2 : State, Becomes (.stx o) s t s2 { (f.setSlot o.t.toNat 0) with resv := none, committed := true }.past ∧
        hasResv s2 me (p.key / 8 * 8) = false ∧
        ∀ a, s2.byte a = if p.key ≤ a ∧ a < p.key + n then (f.slot o.d.toNat).extractLsb' (8 * (a - p.key)) 8
          else (noteUse s p).byte a) ∧
    ((same = false ∨ hasResv s me (p.key / 8 * 8) = false) →
      ∃ s2 : State, Becomes (.stx o) s t s2 { (f.setSlot o.t.toNat 1) with resv := none }.past ∧ s2.mem = s.mem)

/-- R164, R165: an atomic reads its bytes at the home, writes what its form makes of them, slot T and, for ACAS, slot D, and lands
the old value in slot D; no other byte of memory changes.
Model's choices: log 20. -/
def Obligations.AtomicsCombineAtTheHome : Prop :=
  ∀ (s s1 : State) (t : TileId) (f : Firing) (o : ATOMo) (p : XPage),
    Issues s t f o.g → Usable f (sl o.d ++ sl o.s ++ sl o.t) →
    let n := sizeBytes o.size
    let ea := effAddr f o.s o.off n
    ea % n = 0 → Stands s t f .atomic true ea n p → windowTouched s p.key = none → lineSound s p.key = .ok () →
    (isRel o.order = true → relReady s t f = true) → f.resend = none → atomicTurn s t f ea = .ok (.inl s1) →
    busFailed s1 p.key = false →
    Memory.wf s1.mem = true →
    let old := BitVec.ofNat (8 * n) (memNat (noteUse s1 p).mem p.key n)
    let x := (f.slot o.t.toNat).setWidth (8 * n)
    let c := (f.slot o.d.toNat).setWidth (8 * n)
    let does := fun (i : Instr) (new : BitVec (8 * n)) =>
      ∃ s2 : State, Becomes i s t s2
          { (f.setSlot o.d.toNat (if o.sg then old.signExtend 64 else old.setWidth 64)) with committed := true }.past ∧
        ∀ a, s2.byte a = if p.key ≤ a ∧ a < p.key + n then new.extractLsb' (8 * (a - p.key)) 8 else (noteUse s1 p).byte a
    does (.aadd o) (old + x) ∧ does (.aand o) (old &&& x) ∧ does (.aor o) (old ||| x) ∧ does (.axor o) (old ^^^ x) ∧
    does (.amin o) (if o.sg then (if x.slt old then x else old) else (if x.ult old then x else old)) ∧
    does (.amax o) (if o.sg then (if old.slt x then x else old) else (if old.ult x then x else old)) ∧
    does (.axchg o) x ∧ does (.acas o) (if old = c then x else old)

/-- R160, R166: a fence with nothing of its firing outstanding moves on, and one with ACQ drops the copies of other stacks' lines
first; a release waits for the closes and requests of its firing, FENCEE with ACQ for its engine commands. -/
def Obligations.FencesWaitForWhatTheyOrder : Prop :=
  ∀ (s : State) (t : TileId) (f : Firing) (o : FENo), Issues s t f o.g →
    let after := if o.acq then acqInvalidate s t.stk (s.ctxOf f) o.scope else s
    let idle := enginesIdle (s.tile t) f.id
    ((o.rel = true → relReady s t f = true) → Becomes (.fence o) s t after f.past) ∧
    ((o.rel = true → relReady s t f = true) → (o.acq = true → idle = true) → Becomes (.fencee o) s t after f.past) ∧
    ((o.rel = true → relReady s t f = true) → (o.acq = true → idle = true) →
      (o.rel = true → cmdsPending (s.tile t) f.id = false) → Becomes (.gfence o) s t after f.past) ∧
    (o.rel = true → relReady s t f = false → Holds (.fence o) s t f ∧ Holds (.fencee o) s t f ∧ Holds (.gfence o) s t f) ∧
    (o.acq = true → (o.rel = true → relReady s t f = true) → idle = false → Holds (.fencee o) s t f ∧ Holds (.gfence o) s t f)

/-- R167: PFLUSH and PCLEAN leave a line of DRAM written back, every access reading as before; PINV drops the firing's own buffered
line, and what the cache held of it is, or is not (the choice is free), lost; PPREF, of any address, changes no memory, and of a
line outside the firing's windows it does nothing.
Model's choices: log 28. -/
def Obligations.LineFormsKeepOrDropTheCachedLine : Prop :=
  ∀ (s : State) (t : TileId) (f : Firing) (o : LINEo) (p : XPage), Issues s t f o.g → Usable f (sl o.s) →
    let ea := effAddr f o.s o.off 128
    waveOkAfter f.waveLast o.wave = true →
    let wb := fun (i : Instr) => covered f ea 128 false = true → Stands s t f .load false ea 128 p →
      ∃ s2 : State, Becomes i s t s2 (f.pastMember o.wave) ∧ s2.mem = (noteUse s p).mem ∧
        ∀ line, tabFind (s2.stack (stackOfKey p.key)).dirty line =
          if line = p.key then none else tabFind ((noteUse s p).stack (stackOfKey p.key)).dirty line
    (f.wins.any (fun w => w.2.rect.touches (ea / 128 * 128)) = false → Becomes (.ppref o) s t s (f.pastMember o.wave)) ∧
    (∃ s2 : State, Becomes (.ppref o) s t s2 (f.pastMember o.wave) ∧ s2.mem = s.mem) ∧
    (ea % 128 = 0 → isScratch p.key = false → p.key % 128 = 0 →
    (tabAbove 0 ((noteUse s p).stack (stackOfKey p.key)).dirty = true → wb (.pflush o) ∧ wb (.pclean o)) ∧
    (covered f ea 128 true = true → Stands s t f .store true ea 128 p →
      ∃ s2 : State, Becomes (.pinv o) s t s2 ({ f with committed := true }.pastMember o.wave) ∧ ownBytes s2 t f.id p.key = (0, 0) ∧
        (s2.mem = (noteUse s p).mem ∨ ∃ d, tabFind ((noteUse s p).stack (stackOfKey p.key)).dirty p.key = some d ∧
          s2.mem = maskPut (noteUse s p).mem p.key d.toNat (2 ^ 128 - 1) 128)))

/-! Token forms (R182 to R190) -/

/-- R182 to R184: SEND and SENDV hold a token of the firing's context and tag for an output port until the firing retires, its
payload the low BYTES bytes of the octet; one more than the port's rate is TOKEN. SENDD holds a token for the MERGE of the tile that
its route tag names. -/
def Obligations.SendFormsHoldTheirTokens : Prop :=
  ∀ (s : State) (t : TileId) (f : Firing),
    let room := fun (p : BitVec 3) => heldOn f p.toNat < hdrOutRate ((s.tile t).header f.node) p.toNat
    let built := fun (k : Token) (port : BitVec 3) (q : BitVec 7) (n : Nat) (last stv : Bool) (st : BitVec 3) (pri : BitVec 2) =>
      k.kind = 0 ∧ k.ctx = BitVec.ofNat 10 (s.ctxOf f) ∧ k.tag = f.tag ∧ k.last = last ∧ k.pri = pri ∧ k.bytes.toNat = n ∧
      k.payload.toNat = f.octet q % 2 ^ (8 * n) ∧
      (k.stv, k.steer) = (if stv then (true, st) else tabGet (false, 0) f.steer port.toNat)
    (∀ (o : SENDo), Issues s t f o.g → Usable f (octSlots o.q) → outPortOk o.port s t f = true → priOk o.pri t (s.tile t) = true →
      o.bytes.toNat ≤ 64 →
      (room o.port → ∃ k, Leaves (.send o) s t { f with out := f.out ++ [.tok o.port.toNat k] } ∧
        built k o.port o.q o.bytes.toNat o.last o.stv o.steer o.pri) ∧
      (¬room o.port → Faults (.send o) s t f { code := .token, detail := subDetail 10 o.port.toNat })) ∧
    (∀ (o : SENDVo), Issues s t f o.g → Usable f (octSlots o.q ++ sl o.t) → outPortOk o.port s t f = true →
      priOk o.pri t (s.tile t) = true → (f.slot o.t.toNat).toNat % 128 ≤ 64 →
      (room o.port → ∃ k, Leaves (.sendv o) s t { f with out := f.out ++ [.tok o.port.toNat k] } ∧
        built k o.port o.q ((f.slot o.t.toNat).toNat % 128) o.last o.stv o.steer o.pri) ∧
      (¬room o.port → Faults (.sendv o) s t f { code := .token, detail := subDetail 10 o.port.toNat })) ∧
    (∀ (o : SENDDo), Issues s t f o.g → Usable f (octSlots o.q ++ sl o.t) →
      let r := f.slot o.t.toNat
      r.extractLsb' 6 10 = 10 → priOk (r.extractLsb' 0 2) t (s.tile t) = true → o.bytes.toNat ≤ 64 →
      ∃ k, Leaves (.sendd o) s t { f with out := f.out ++ [.direct k] } ∧
        k.dev = r.extractLsb' 27 12 ∧ k.stk = r.extractLsb' 25 2 ∧ k.tx = r.extractLsb' 20 5 ∧ k.ty = r.extractLsb' 16 4 ∧
        k.node = 10 ∧ k.port = r.extractLsb' 2 4 ∧ k.pri = r.extractLsb' 0 2 ∧ k.ctx = BitVec.ofNat 10 (s.ctxOf f) ∧
        k.tag = f.tag ∧ k.bytes = o.bytes ∧ k.payload.toNat = f.octet o.q % 2 ^ (8 * o.bytes.toNat))

/-- R186: RECV takes the oldest committed token of its port that has the firing's tag, its payload to octet Q with the low header
word in the last slot; without one it stalls, and after a LAST of that port it is TOKEN. -/
def Obligations.RecvTakesTheOldestTokenOfItsTag : Prop :=
  (∀ (s : State) (t : TileId) (f : Firing) (o : RECVo) (e : Edge), Issues s t f o.g → Usable f (octSlots o.q) →
    inPortOk o.port s t f = true → tabFind (s.tile t).edges (portKey f.node o.port.toNat) = some e →
    (tookLast f o.port.toNat = false → ∀ k l, takeTagged f.tag e.fifo = some (k, l) →
      Becomes (.recv o) s t (progress (takeFifo s t (portKey f.node o.port.toNat) e l) (some f.inst))
        { (f.setOctet o.q k.payload.toNat).setSlot (8 * o.q.toNat + 7) (BitVec.ofNat 64 k.header) with
          recvd := f.recvd ++ [(o.port.toNat, k)] }.advance) ∧
    (tookLast f o.port.toNat = false → takeTagged f.tag e.fifo = none →
      Becomes (.recv o) s t s { f with st := .stalled, wait := .recv o.q o.port.toNat }) ∧
    (tookLast f o.port.toNat = true → Faults (.recv o) s t f { code := .token, detail := subDetail 11 o.port.toNat })) ∧
  (∀ (tag : BitVec 32) (l r : List FTok) (k : Token), takeTagged tag l = some (k, r) ↔
    ∃ a q b, l = a ++ q :: b ∧ r = a ++ b ∧ q.tok = k ∧ k.tag = tag ∧ ∀ x ∈ a, x.tok.tag ≠ tag)

/-- R185, R187 to R189: REQ asks for the positions that are neither at hand nor on their way, STEERT sets its port's steering
register, RECONF is held to retire, and TEN, TDIS, TPSET, TPCLR and TQRY set, clear and read the tag bits of their own node and of
no other. -/
def Obligations.RequestSteeringAndTagForms : Prop :=
  ∀ (s : State) (t : TileId) (f : Firing),
    (∀ (o : PORT9) (e : Edge), Issues s t f o.g → inPortOk o.port s t f = true →
      tabFind (s.tile t).edges (portKey f.node o.port.toNat) = some e → e.pull = true →
      let at_ := e.fifo.length + (e.asked - e.arrived)
      (o.n.toNat ≤ at_ → Leaves (.req o) s t f) ∧
      (at_ < o.n.toNat → Becomes (.req o) s t (askMore s t (portKey f.node o.port.toNat) (o.n.toNat - at_)
        (BitVec.ofNat 2 (hdrPri ((s.tile t).header f.node))) (s.ctxOf f)) f.advance)) ∧
    (∀ (o : STEERTo), Issues s t f o.g → outPortOk o.port s t f = true →
      Leaves (.steert o) s t { f with steer := tabSet f.steer o.port.toNat (o.stv, if o.stv then o.steer else 0) }) ∧
    (∀ (o : PORT9), Issues s t f o.g → outPortOk o.port s t f = true →
      Leaves (.reconf o) s t { f with out := f.out ++ [.reconf o.port.toNat o.n.toNat] }) ∧
    (∀ (o : M16), Issues s t f o.g → tabAbove 0 (s.tile t).tagE = true → tabAbove 0 (s.tile t).tagP = true →
      let bits := fun (i : Instr) (en pend : BitVec 16) => ∃ s2 : State, Becomes i s t s2 f.advance ∧
        (∀ n, (s2.tile t).tagEn n = if n = f.node then en else (s.tile t).tagEn n) ∧
        (∀ n, (s2.tile t).tagPend n = if n = f.node then pend else (s.tile t).tagPend n) ∧
        (s2.tile t).firings = (s.tile t).firings ∧ s2.mem = s.mem
      let e := (s.tile t).tagEn f.node
      let p := (s.tile t).tagPend f.node
      bits (.ten o) (e ||| o.m) p ∧ bits (.tdis o) (e &&& ~~~o.m) p ∧ bits (.tpset o) e (p ||| o.m) ∧
      bits (.tpclr o) e (p &&& ~~~o.m)) ∧
    (∀ (o : OneD), Issues s t f o.g → Usable f (sl o.d) →
      Leaves (.tqry o) s t (f.setSlot o.d.toNat
        (((s.tile t).tagEn f.node ++ (s.tile t).tagPend f.node : BitVec 32).setWidth 64)))

/-! Operand memory, the matrix engine, copies and lookup cells (R191 to R217) -/

/-- R178, R179: a command whose ranges lie in its firing's windows, nothing of them in its store buffer, goes on at once with no
registration; one that has waited for its ranges, its spills accepted, goes on with them. -/
def Obligations.RangesOfACommandAreGranted : Prop :=
  ∀ (s : State) (t : TileId) (f : Firing) (l : List Range),
    (∀ e ∈ (s.tile t).store, e.owner = f.id → liesIn s t f l e = false) →
    (∀ r a, f.granted = some (r, a) → accepted s f = true → f.unreached = none → Granted s t f l s { f with granted := none } r a) ∧
    (f.granted = none → (∀ r ∈ l, inside f r.w r.area = true) → (∀ k, k < 4 → wtUsed (s.stack k) ≤ 4096) →
      Granted s t f l s { f with unreached := none } [] [])

/-- R191 to R196: OCLAIM claims a free slot and is OMSLOT on a claimed one, ORELEASE is held to retire, OLOAD starts a fill, OSTORE
writes the slot's planes to the tile of its descriptor, OZERO makes planes of zeros, OSTAT tells a slot's state.
Model's choices: log 40. -/
def Obligations.OperandMemoryForms : Prop :=
  ∀ (s : State) (t : TileId) (f : Firing),
    (∀ (o : OMo), Issues s t f o.g →
      let m := (s.tile t).slotOf o.o.toNat
      (m.claimed = false →
        Becomes (.oclaim o) s t (s.setOm t o.o.toNat { m with claimed := true, firid := firidOf f, owner := some f.id }) f.past) ∧
      (m.claimed = true → Faults (.oclaim o) s t f { code := .omslot, detail := omDetail o.o.toNat m.nplanes 0 }) ∧
      (m.claimed = true → Becomes (.orelease o) s t s { f with out := f.out ++ [Held.orel o.o.toNat] }.past) ∧
      (m.claimed = false → Faults (.orelease o) s t f { code := .omslot, detail := omDetail o.o.toNat m.nplanes 0 })) ∧
    (∀ (o : OLOADo) (d : Desc) (s' : State) (f' : Firing) (regs : List (Nat × Nat)) (away : List AwayReg), Issues s t f o.g →
      Usable f (octSlots o.q ++ sl o.t) → planeDesc f o.q = .ok d →
      let n := o.o.toNat
      let m := (s.tile t).slotOf n
      let tr := ((f.slot o.t.toNat).extractLsb' 0 32).toNat
      let tc := ((f.slot o.t.toNat).extractLsb' 32 32).toNat
      let rs : List Range := [{ w := false, area := d.tileArea tr tc }]
      m.claimed = true → m.filling = false → slotRead (s.tile t) n = false → Granted s t f rs s' f' regs away →
      let s2 := attached s' t f' (.oload n d tr tc o.wake.toNat o.bit.toNat) o.acq false o.scope rs regs away
      Becomes (.oload o) s t (s2.setOm t n
        { (s2.tile t).slotOf n with filling := true, nplanes := 0, planes := [], ws := 0, wu := 0, got := 0 }) f'.past) ∧
    (∀ (o : OSTOREo) (d : Desc) (s' s5 : State) (f' : Firing) (regs : List (Nat × Nat)) (away : List AwayReg) (c : Cmd),
      Issues s t f o.g → Usable f (octSlots o.q ++ sl o.t) → planeDesc f o.q = .ok d →
      let n := o.o.toNat
      let m := (s.tile t).slotOf n
      let tr := ((f.slot o.t.toNat).extractLsb' 0 32).toNat
      let tc := ((f.slot o.t.toNat).extractLsb' 32 32).toNat
      let rs : List Range := [{ w := true, area := d.tileArea tr tc }]
      let k := (s'.tile t).nextCmd
      let planes := (List.range m.nplanes).flatMap (fun p => bytesOf 1024 (m.plane p))
      m.claimed = true → m.filling = false → m.nplanes = d.planes →
      (o.rel = true → relReady s t f = true ∧ enginesIdle (s.tile t) f.id = true) → Granted s t f rs s' f' regs away →
      let r := attach s' t { f' with committed := true } (.ostore n d tr tc) false o.rel o.scope rs regs away
      storePlanes t k d tr tc planes d.planes (r.2.setCmd t { r.1 with snap := some planes }) = .ok s5 →
      s5.cmd? t k = some c → c.acks = 0 → c.missed = false →
      let s6 := forget (endCmd s5 t c .done) t c
      Becomes (.ostore o) s t s6 { f' with committed := true, failed := (s6.firing? t f'.id).bind (fun g => g.failed) }.past) ∧
    (∀ (o : OZEROo), Issues s t f o.g →
      let n := o.o.toNat
      let m := (s.tile t).slotOf n
      m.claimed = true → m.filling = false → slotRead (s.tile t) n = false → (tabFind (s.tile t).edges (portKey 16 n)).isNone = true →
      Becomes (.ozero o) s t (s.setOm t n { m with nplanes := o.p1.toNat + 1, planes := [], ws := 1, wu := 1 }) f.past) ∧
    (∀ (o : OSTATo), Issues s t f o.g → Usable f (sl o.d) →
      ∃ v : Word, Becomes (.ostat o) s t s (f.setSlot o.d.toNat v).past ∧
        let m := (s.tile t).slotOf o.o.toNat
        (m.nplanes < 64 → v.getLsbD 6 = m.filling ∧ v.getLsbD 7 = m.claimed ∧ (v.extractLsb' 0 6).toNat = m.nplanes))

/-- R14 to R16, R197 to R202: MPAIR sets PPR, MCLR zeroes a readable bank with its OV, ABRT and POISON bits, MMA, once the engine is
free, takes up the product of two claimed slots that hold the planes it reads, and waits at issue while it is occupied, MDRAIN
queues rows of a bank for a bound route, MSTAT reads PPR and the bank bits, and
MWAIT goes on when no MMA or drain of its banks is outstanding.
Model's choices: log 43, 44. -/
def Obligations.MatrixEngineForms : Prop :=
  ∀ (s : State) (t : TileId) (f : Firing),
    let x := s.tile t
    (∀ (o : MPAIRo), Issues s t f o.g → Leaves (.mpair o) s t { f with ppr := o.v }) ∧
    (∀ (o : ACCo), Issues s t f o.g → readable x o.acc.toNat = true →
      ∃ m : Me, Becomes (.mclr o) s t
          (s.setTile t { x with me := m, firings := x.firings.map (fun g => { g with banks := g.banks &&& ~~~(bankBit o.acc.toNat) }) })
          { f with banks := f.banks &&& ~~~(bankBit o.acc.toNat) }.advance ∧
        (∀ b k, k < 4096 → tabAbove 0 x.me.acc = true →
          tabGet 0 m.acc (b * 4096 + k) = if b = o.acc.toNat then 0 else tabGet 0 x.me.acc (b * 4096 + k)) ∧
        (∀ b, b < 4 → m.ov.getLsbD b = (x.me.ov.getLsbD b && decide (b ≠ o.acc.toNat)) ∧
          m.abrt.getLsbD b = (x.me.abrt.getLsbD b && decide (b ≠ o.acc.toNat)) ∧
          m.poison.getLsbD b = (x.me.poison.getLsbD b && decide (b ≠ o.acc.toNat))) ∧ m.queue = x.me.queue ∧ m.drains = x.me.drains) ∧
    (∀ (o : MMAo), Issues s t f o.g → throttleOpen s t = true →
      let a := x.slotOf o.oa.toNat
      let b := x.slotOf o.ob.toNat
      a.claimed = true → b.claimed = true →
      let pa := (f.ppr.extractLsb' 0 4).toNat + 1
      let pb := (f.ppr.extractLsb' 4 4).toNat + 1
      let job : MmaJob := { owner := f.id, acc := o.acc.toNat, oa := o.oa.toNat, ob := o.ob.toNat, a := a, b := b, ppr := f.ppr
                            stamp := x.nextCmd }
      ((a.filling = true ∨ b.filling = true ∨ x.me.queue ≠ []) → Holds (.mma o) s t f) ∧
      (a.filling = false → b.filling = false → x.me.queue = [] →
        (pa ≤ a.nplanes → pb ≤ b.nplanes → Becomes (.mma o) s t (s.setMe t { x.me with queue := [job] })
          { f with banks := f.banks ||| bankBit o.acc.toNat }.advance) ∧
        (a.nplanes < pa → Faults (.mma o) s t f { code := .opplane, detail := omDetail o.oa.toNat a.nplanes pa }) ∧
        (pa ≤ a.nplanes → b.nplanes < pb → Faults (.mma o) s t f { code := .opplane, detail := omDetail o.ob.toNat b.nplanes pb }))) ∧
    (∀ (o : MDRAINo), Issues s t f o.g → readable x o.acc.toNat = true →
      ((tabFind x.outs (portKey 16 o.route.toNat)).isSome = true → x.me.poison.getLsbD o.acc.toNat = false →
        ∃ d : Drain, Becomes (.mdrain o) s t (s.setMe t { x.me with drains := x.me.drains ++ [d] }) { f with committed := true }.advance ∧
          d.bank = o.acc.toNat ∧ d.route = o.route.toNat ∧ d.tag = f.tag ∧ d.last = o.last ∧
          d.lanes.length = 8 * (o.rows1.toNat + 1) ∧
          ∀ i j, i ≤ o.rows1.toNat → j < 64 → ((d.lanes.getD (8 * i + j / 8) 0).extractLsb' (64 * (j % 8)) 64) =
            BitVec.ofInt 64 (tabGet 0 x.me.acc (o.acc.toNat * 4096 + 64 * i + j))) ∧
      ((tabFind x.outs (portKey 16 o.route.toNat)).isNone = true →
        Faults (.mdrain o) s t f { code := .engine, detail := subDetail 3 o.route.toNat })) ∧
    (∀ (o : OneD), Issues s t f o.g → Usable f (sl o.d) → x.me.queue = [] → x.me.owing = [] →
      Leaves (.mstat o) s t (f.setSlot o.d.toNat
        ((x.me.poison ++ x.me.abrt ++ x.me.ov ++ (0 : BitVec 1) ++ f.ppr : BitVec 24).setWidth 64))) ∧
    (∀ (o : MWAITo), Issues s t f o.g → x.me.owing = [] →
      (mwaitMet x o.m = true → Leaves (.mwait o) s t f) ∧
      (mwaitMet x o.m = false → Becomes (.mwait o) s t s { f with st := .stalled, wait := .mwait o.m }))

/-- R203 to R207: a copy whose block, descriptors and ranges are in order attaches its command, whose identifier it lands in slot D,
and commits its firing; CPY and CPYR take their ranges from the block, the other forms from the two descriptors it names.
R210, R211: CWAIT goes on when the copies it waits for have completed and stalls while one has not, and CQRY lands the state of a
copy, all ones where the firing has no such copy.
Model's choices: log 39. -/
def Obligations.CopyFormsAttachWaitAndTell : Prop :=
  (∀ (s : State) (t : TileId) (f : Firing) (o : CPYo) (s' : State) (f' : Firing) (regs : List (Nat × Nat)) (away : List AwayReg),
      Issues s t f o.g → Usable f (sl o.d ++ octSlots o.q) → throttleOpen s t = true → copyRoom (s.tile t) f = true →
      let b := readBlock (f.octet o.q)
      let starts := fun (i : Instr) (k : CmdKind) =>
        ∃ s2 : State, Becomes i s t s2 { (f'.setSlot o.d.toNat (BitVec.ofNat 64 ((s'.tile t).nextCmd % 2 ^ 32))) with committed := true }.past ∧
          (∃ c, s2.cmd? t (s'.tile t).nextCmd = some c ∧ c.kind = k ∧ c.owner = f'.id ∧ c.st = .queued ∧ c.acq = o.acq ∧ c.rel = o.rel ∧
            c.evid = b.evid ∧ c.toNode = (b.flg == 1) ∧ c.ranges = regs) ∧ s2.mem = s'.mem
      (∀ c ∈ (s'.tile t).cmds, c.id < (s'.tile t).nextCmd) →
      (blockOk .cpy b = .ok () → (b.src + b.len ≤ b.dst ∨ b.dst + b.len ≤ b.src) → ownerAway s (s.ctxOf f) b.src = false →
        Granted s t f [⟨false, lineArea b.src b.len⟩, ⟨true, lineArea b.dst b.len⟩] s' f' regs away →
        starts (.cpyr o) (.cpyr b.src b.dst b.len) ∧
        (ownerAway s (s.ctxOf f) b.dst = false → starts (.cpy o) (.cpy b.src b.dst b.len))) ∧
      (∀ (v w : Nat) (s1 s2 : State), b.src % 64 = 0 → b.dst % 64 = 0 → readAtHome s t f b.src = .ok (.got v s1) →
        readAtHome s1 t f b.dst = .ok (.got w s2) → descOk v = true → descOk w = true →
        let x := readDesc v
        let y := readDesc w
        let form := fun (k : CopyForm) (i : Instr) => blockOk k b = .ok () → formOk k b x y = true →
          Granted s2 t f (copyWork k b x y).2 s' f' regs away → starts i (copyWork k b x y).1
        form .cpyp (.cpyp o) ∧ form .cpyt (.cpyt o) ∧ form .gath (.gath o) ∧ form .scat (.scat o))) ∧
  (∀ (s : State) (t : TileId) (f : Firing),
      (∀ (o : CWAITo), Issues s t f o.g → Usable f (if o.all then [] else sl o.s) →
        let mine := (s.tile t).cmds.filter (fun c => decide (c.owner = f.id) && c.isCopy &&
          (o.all || decide (c.id = (f.slot o.s.toNat).toNat)))
        ((∀ c ∈ mine, c.st = .done) → Becomes (.cwait o) s t s f.past) ∧
        ((∀ c ∈ mine, c.st ≠ .failed) → (∃ c ∈ mine, c.st ≠ .done) → ∃ w, Becomes (.cwait o) s t s { f with st := .stalled, wait := w, waveLast := none }) ∧
        (∀ c e, mine = [c] → c.st = .failed → c.fault = some e → Faults (.cwait o) s t f e)) ∧
      (∀ (o : DS), Issues s t f o.g → Usable f (sl o.d ++ sl o.s) →
        let mine := (s.tile t).cmds.filter (fun c => decide (c.owner = f.id) && c.isCopy && decide (c.id = (f.slot o.s.toNat).toNat))
        (mine = [] → Becomes (.cqry o) s t s (f.setSlot o.d.toNat (BitVec.allOnes 64)).past) ∧
        (∀ c l, mine = c :: l → c.fault = none → ∃ v : Word, Becomes (.cqry o) s t s (f.setSlot o.d.toNat v).past ∧
          (v.extractLsb' 0 8).toNat = c.st.num ∧ (v.extractLsb' 8 24).toNat = c.chunk % 2 ^ 24 ∧ v.extractLsb' 32 32 = 0)))

/-- R212 to R217, R280: LCTX, LBIND of a claimed slot, its clear form and LEVAL join the queue of the block, LEVAL to stand until its
evaluation can meet no more fault of its own; LTLOAD and LWIRE attach their loads, LWAIT goes on when none of its contexts is
loading. At the head of the queue, with no evaluation running, LCTX names the context, LBIND binds its slot to its signal or clears
all bindings, and an evaluation begins with the context and bindings then in force.
Model's choices: log 45. -/
def Obligations.LookupCellForms : Prop :=
  ∀ (s : State) (t : TileId) (f : Firing),
    let x := s.tile t
    let joins := fun (q : LcbForm) => s.setLcb t { x.lcb with queue := x.lcb.queue ++ [q] }
    (∀ (o : LCTXo), Issues s t f o.g → Becomes (.lctx o) s t (joins (.ctx o.c)) f.advance) ∧
    (∀ (o : LBINDo), Issues s t f o.g →
      ((x.slotOf o.o.toNat).claimed = true → Becomes (.lbind o) s t (joins (.bind o.sig.toNat o.o.toNat)) f.advance) ∧
      ((x.slotOf o.o.toNat).claimed = false → ∃ d, Faults (.lbind o) s t f { code := .omslot, detail := d })) ∧
    (∀ (g : BitVec 4), Issues s t f g → Becomes (.lbindClear g) s t (joins .unbind) f.advance) ∧
    (∀ (o : LEVALo), Issues s t f o.g → Usable f (octSlots o.q) → throttleOpen s t = true →
      ∃ j : LevalJob, Becomes (.leval o) s t (joins (.eval j)) { f with st := .stalled, wait := .leval } ∧
        j.owner = f.id ∧ j.q = o.q ∧ j.n = o.n1.toNat + 1 ∧ j.sig = o.sig.toNat ∧ j.begun = none ∧ j.bound = false) ∧
    (x.halting = false → x.atHalt = false → x.lcb.job = none → ∀ q l, x.lcb.queue = q :: l →
      let heads := fun (b : Lcb) => exec (.levalLayer t) s = .next (s.setLcb t { b with queue := l })
      (∀ c, q = .ctx c → heads { x.lcb with ac := c }) ∧ (∀ k n, q = .bind k n → heads { x.lcb with binds := tabSet x.lcb.binds k n }) ∧
      (q = .unbind → heads { x.lcb with binds := [] }) ∧
      (∀ j, q = .eval j → j.begun = none → heads { x.lcb with job := some { j with begun := some (x.lcb.ac, x.lcb.binds) } })) ∧
    (∀ (o : LTLo) (s' : State) (f' : Firing) (regs : List (Nat × Nat)) (away : List AwayReg), Issues s t f o.g → Usable f (sl o.s) →
      let a := (f.slot o.s.toNat).toNat
      let loads := fun (i : Instr) (k : CmdKind) (n : Nat) => a % 64 = 0 → Granted s t f [⟨false, lineArea a n⟩] s' f' regs away →
        Becomes i s t (attached s' t f' k o.acq false o.scope [⟨false, lineArea a n⟩] regs away) f'.advance
      loads (.ltload o) (.ltload o.c.toNat a) 8192 ∧ loads (.lwire o) (.lwire o.c.toNat a) 16384 ∧
      (a % 64 ≠ 0 → Faults (.ltload o) s t f { code := .align, detail := vaDetail a } ∧
        Faults (.lwire o) s t f { code := .align, detail := vaDetail a })) ∧
    (∀ (o : LWAITo), Issues s t f o.g →
      ((∀ c, c < 8 → o.m.getLsbD c = true → loadingCtx x c = false) → Leaves (.lwait o) s t f) ∧
      ((∃ c, c < 8 ∧ o.m.getLsbD c = true ∧ loadingCtx x c = true) →
        Becomes (.lwait o) s t s { f with st := .stalled, wait := .lwait o.m }))

/-! Planes, special registers, traps and the control region (R111 to R119, R169 to R173, R329, R330) -/

/-- R169 to R173: BPOST and COLL hand a message to a bound plane that is up and wait for its delivery, BWAIT lands the counter or
GSEQ once its target is met and stalls before, BSEQ reads GSEQ, a counter or the next index.
Model's choices: log 63. -/
def Obligations.PlaneFormsPostAndWait : Prop :=
  ∀ (s : State) (t : TileId) (f : Firing),
    let c := s.ctxOf f
    let quiet := fun (rel : Bool) => (rel = true → relReady s t f = true) ∧ replaying s f.inst = false
    (∀ (o : BPOSTo), Issues s t f o.g → Usable f (sl o.d ++ octSlots o.q) → bindV (s.binding c o.plane.toNat) = true →
      (s.plane o.plane.toNat).up = true → quiet o.rel →
      let m := { s.flitOf o.plane.toNat 0 (bindGid (s.binding c o.plane.toNat)) (BitVec.ofNat 512 (f.octet o.q)) with key := o.key }
      let r := handOver s o.plane.toNat m
      Becomes (.bpost o) s t r.2 { f with
        committed := true
        pend := f.pend ++ [({ src := .post o.plane.toNat r.1, d := o.d.toNat, n := 1, how := .plane } : Pend)] }.past) ∧
    (∀ (o : BPOSTo), Issues s t f o.g → Usable f (sl o.d ++ octSlots o.q) → bindV (s.binding c o.plane.toNat) = false →
      ∃ d, Faults (.bpost o) s t f { code := .engine, detail := d }) ∧
    (∀ (o : BWAITo), Issues s t f o.g → Usable f (sl o.d ++ sl o.s) → (o.gseq = true ∨ bindV (s.binding c o.plane.toNat) = true) →
      (s.plane o.plane.toNat).up = true →
      let target := f.slot o.s.toNat
      let k := s.kc c o.plane.toNat o.key.toNat
      let lands := fun (v : Word) => Becomes (.bwait o) s t (planeAcquire s t f o.acq) (f.setSlot o.d.toNat v).past
      (o.gseq = true → target.ule (s.plane o.plane.toNat).gseq = true → lands (s.plane o.plane.toNat).gseq) ∧
      (o.gseq = false → (k - target.setWidth 32).msb = false → lands (k.setWidth 64)) ∧
      ((if o.gseq then (s.plane o.plane.toNat).gseq.ult target else (k - target.setWidth 32).msb) = true →
        Becomes (.bwait o) s t s { f with st := .stalled, waveLast := none
                                          wait := .bwait o.d o.plane.toNat o.key.toNat o.gseq o.acq target })) ∧
    (∀ (o : BSEQo), Issues s t f o.g → Usable f (sl o.d) →
      Becomes (.bseq o) s t (planeAcquire s t f o.acq) (f.setSlot o.d.toNat
        (if o.sel = 0 then (s.plane o.plane.toNat).gseq
         else if o.sel = 1 then (s.kc c o.plane.toNat o.key.toNat).setWidth 64
         else (tabGet 0 (s.ctx c).cidx o.plane.toNat).setWidth 64)).past) ∧
    (∀ (o : COLLo), Issues s t f o.g → Usable f (octSlots o.d ++ octSlots o.s ++ sl o.t) →
      bindV (s.binding c o.plane.toNat) = true → (s.plane o.plane.toNat).up = true → quiet o.rel →
      let n := (f.slot o.t.toNat).toNat
      1 ≤ n → n ≤ 64 → liveColls (s.ctx c) o.plane.toNat < 8 →
      let i := tabGet 0 (s.ctx c).cidx o.plane.toNat
      ∃ (s1 : State) (m : PFlit),
        Becomes (.coll o) s t (handOver s1 o.plane.toNat m).2
          { f with committed := true, st := .stalled, wait := .coll o.d o.plane.toNat i.toNat o.acq, waveLast := none } ∧
        tabGet 0 (s1.ctx c).cidx o.plane.toNat = i + 1 ∧ m.mtype = 1 ∧ m.cidx = i ∧ m.n.toNat = n ∧ m.op = o.op ∧
        m.payload.toNat = f.octet o.s % 2 ^ 512)

/-- R111, R112, R226: SRD lands the special register it names, in the control region also those from 0x80 up, which are ILLEGAL
elsewhere; SWR sets FPF. -/
def Obligations.SpecialRegisterFormsReadTheirTable : Prop :=
  ∀ (s : State) (t : TileId) (f : Firing) (i : Inst), s.inst? f.inst = some i →
    (∀ (o : SRDo), Issues s t f o.g → Usable f (sl o.d) →
      let reads := fun (n : Nat) (v : Word) => o.idx.toNat = n → Leaves (.srd o) s t (f.setSlot o.d.toNat v)
      let nat := fun (n v : Nat) => reads n (BitVec.ofNat 64 v)
      reads 0x00 (f.tag.setWidth 64) ∧ nat 0x01 i.ctx ∧ nat 0x02 f.node ∧ nat 0x03 t.x ∧ nat 0x04 t.y ∧ nat 0x05 t.stk ∧
      reads 0x06 ((s.devid.setWidth 12).setWidth 64) ∧ nat 0x07 i.part ∧
      (∀ n, n < 8 → nat (0x08 + n) (levelCoord i f.tag.toNat n)) ∧ reads 0x10 i.argp ∧ reads 0x11 (s.ctx i.ctx).evq.base ∧
      reads 0x12 (f.fpf.setWidth 64) ∧
      (∀ n, n < 4 → (∀ l, tabFind f.loops n = some l → nat (0x14 + n) (l.bound * 2 ^ 32 + l.index)) ∧
        (tabFind f.loops n = none → nat (0x14 + n) 0)) ∧
      (∀ n, n < 8 → reads (0x18 + n) (s.plane n).gseq) ∧ reads 0x20 (psinfo s t f) ∧ reads 0x21 (firidOf f) ∧
      (isControl t = true → nat 0x80 s.fwver.toNat ∧ nat 0x81 i.resid) ∧
      (isControl t = false → 0x80 ≤ o.idx.toNat → Faults (.srd o) s t f { code := .illegal })) ∧
    (∀ (o : SWRo), Issues s t f o.g → Usable f (sl o.s) → o.idx.toNat < 0x80 →
      Leaves (.swr o) s t { f with fpf := (f.slot o.s.toNat).setWidth 4 })

/-- R113 to R116, R241, R405: TRAP takes its fault and leaves the firing SUSPENDED at the word after it, BRK takes its fault at
itself and, under debug control, halts its tile instead, EVPOST holds its record to retire, CYC lands the cycle counter of its stack,
LAUNCH reads its record at issue and holds it with a new launch number.
Model's choices: log 17. -/
def Obligations.TrapEventCycleAndLaunchForms : Prop :=
  ∀ (s : State) (t : TileId) (f : Firing),
    (∀ (o : M16), Issues s t f o.g →
      (∃ g, (takeFault s t f { code := .trap, detail := o.m.toNat }).firing? t f.id = some g ∧ g.st = .suspended ∧ g.pc = f.pc ∧
        exec (.trap o) s = .next ((takeFault s t f { code := .trap, detail := o.m.toNat }).setFiring t g.advance)) ∧
      ((s.tile t).dbg.brken = false → Faults (.brk o) s t f { code := .brk, detail := o.m.toNat }) ∧
      ((s.tile t).dbg.brken = true → ∃ (s2 : State) (g : Firing), exec (.brk o) s = .next s2 ∧ s2.firing? t f.id = some g ∧
        g.st = .suspended ∧ g.pc = f.pc ∧ (s2.tile t).dbg.halt = true)) ∧
    (∀ (o : OneQ), Issues s t f o.g → Usable f (octSlots o.q) →
      Leaves (.evpost o) s t { f with out := f.out ++ [Held.event (BitVec.ofNat 512 (f.octet o.q))] }) ∧
    (∀ (o : OneD), Issues s t f o.g → Usable f (sl o.d) →
      Leaves (.cyc o) s t (f.setSlot o.d.toNat (BitVec.ofNat 64 (s.stack t.stk).cyc))) ∧
    (∀ (o : DS), Issues s t f o.g → Usable f (sl o.d ++ sl o.s) →
      let va := (f.slot o.s.toNat).toNat
      (va % 64 ≠ 0 → Faults (.launch o) s t f { code := .align, detail := vaDetail va }) ∧
      (va % 64 = 0 → covered f va 256 false = false → Faults (.launch o) s t f { code := .window, detail := vaDetail va }) ∧
      (∀ b s1, va % 64 = 0 → covered f va 256 false = true → plainRead t f 4 s va 256 [] = .ok (.got b s1) →
        let c := s1.ctxOf f
        let id := (s1.ctx c).nextLid
        Becomes (.launch o) s t (s1.setCtx c { s1.ctx c with nextLid := id + 1 })
          { f.setSlot o.d.toNat (BitVec.ofNat 64 (id % 2 ^ 32)) with out := f.out ++ [Held.launch (id % 2 ^ 32) b] }.advance))

/-- R117, R118: in the control column CFGLD and CFGSV read the 64 bytes of their request at the physical address on their stack and
land a status, 6 where the request breaks a rule and 4 where its shape is not cached (nothing changed); QPOP lands the oldest record
of the queue it names, MMRD a management register, 0 where none has the address, and MMWR writes one. Elsewhere each is ILLEGAL.
Model's choices: log 118, 114. -/
def Obligations.ConfigurationQueueAndRegisterForms : Prop :=
  ∀ (s : State) (t : TileId) (f : Firing),
    (∀ (o : DS), Issues s t f o.g → isControl t = true → Usable f (sl o.d ++ sl o.s) →
      let a := (f.slot o.s.toNat).toNat
      let b := memBytes s.mem (dramKey t.stk a) 64
      let q := readCfgReq b
      let lands := fun (i : Instr) (v : Nat) (s2 : State) => Becomes i s t s2 (f.setSlot o.d.toNat (BitVec.ofNat 64 v)).advance
      (a % 64 ≠ 0 → Faults (.cfgld o) s t f { code := .align, detail := vaDetail a } ∧
        Faults (.cfgsv o) s t f { code := .align, detail := vaDetail a }) ∧
      (a % 64 = 0 → (∀ v s2, cfgLoad s b f.fetched = .done v s2 → lands (.cfgld o) v s2) ∧
        (∀ s2, cfgLoad s b f.fetched = .pull s2 → Becomes (.cfgld o) s t s2 f) ∧ (cfgLoad s b f.fetched = .wait → Holds (.cfgld o) s t f) ∧ lands (.cfgsv o) (cfgSave s t f.id b).1 (cfgSave s t f.id b).2 ∧
        (cfgReqOk b q = false → lands (.cfgld o) 6 s ∧ lands (.cfgsv o) 6 s) ∧
        (cfgReqOk b q = true → (∀ c ∈ tabGet [] s.cache q.stk, c.key ≠ q.key) → lands (.cfgld o) 4 s ∧ lands (.cfgsv o) 4 s)) ∧
      lands (.mmrd o) (mregRead s ((f.slot o.s.toNat).setWidth 32).toNat).toNat s) ∧
    (∀ (o : QPOPo), Issues s t f o.g → isControl t = true → Usable f (octSlots o.q ++ sl o.s) →
      ∀ b s2, popSelected s t.stk ((f.slot o.s.toNat).setWidth 16).toNat f.fetched = .got b s2 →
        Becomes (.qpop o) s t s2 (f.setOctet o.q (wordOfBytes b)).advance) ∧
    (∀ (o : MMWRo), Issues s t f o.g → isControl t = true → Usable f (sl o.s ++ sl o.t) →
      let s2 := mregWrite s ((f.slot o.s.toNat).setWidth 32).toNat (f.slot o.t.toNat)
      Becomes (.mmwr o) s t s2 ((s2.firing? t f.id).getD f).advance) ∧
    (∀ (o : DS), Issues s t f o.g → isControl t = false →
      Faults (.cfgld o) s t f { code := .illegal } ∧ Faults (.cfgsv o) s t f { code := .illegal } ∧
      Faults (.mmrd o) s t f { code := .illegal }) ∧
    mregRead s 0x38 = s.devid.setWidth 64 ∧ mregRead s 0x30 = s.templim.setWidth 64 ∧ mregRead s 0x60 = 0

/-- R119: CTXCTL in the control column, by the operation in T[3:0], on the context in S[9:0]: QUERY tells free, idle, running or halted,
ENABLE and DISABLE set the context's enable and answer 0, HALT answers 0 at once for a context that is unbound or halted and else
later, RESET refuses a context that is not halted with 1 and leaves a halted one as at reset, RESTORE refuses one that is unbound or
has launches with 3; an operation above 5 answers 2.
Model's choices: log 119. -/
def Obligations.ContextControlForms : Prop :=
  ∀ (s : State) (t : TileId) (f : Firing) (o : DST), Issues s t f o.g → isControl t = true → Usable f (sl o.d ++ (sl o.s ++ sl o.t)) →
    let c := ((f.slot o.s.toNat).setWidth 10).toNat
    let op := ((f.slot o.t.toNat).setWidth 4).toNat
    let lands := fun (i : Instr) (v : Word) (s2 : State) => Becomes i s t s2 (f.setSlot o.d.toNat v).advance
    let later := fun (i : Instr) (s2 : State) (r : Nat) => Becomes i s t s2
      { f with pend := f.pend ++ [({ src := .system r, d := o.d.toNat, n := 1, how := .zext 8 } : Pend)] }.advance
    (op = 0 →
      ((s.ctx c).part = none → lands (.ctxctlQuery o) 0 s) ∧
      ((s.ctx c).part ≠ none → (s.ctx c).halted = true → lands (.ctxctlQuery o) 3 s) ∧
      ((s.ctx c).part ≠ none → (s.ctx c).halted = false → (∃ l ∈ s.launches, l.ctx = c ∧ l.st = .running) → lands (.ctxctlQuery o) 2 s) ∧
      ((s.ctx c).part ≠ none → (s.ctx c).halted = false → (∀ l ∈ s.launches, l.ctx ≠ c) → lands (.ctxctlQuery o) 1 s)) ∧
    (op = 1 → ∃ s2 : State, lands (.ctxctlEnable o) 0 s2 ∧ s2 = ctxEnable s c) ∧
    (op = 2 → lands (.ctxctlDisable o) 0 (s.setCtx c { s.ctx c with enabled := false })) ∧
    (op = 3 → ((s.ctx c).part = none ∨ (s.ctx c).halted = true → lands (.ctxctlHalt o) 0 s) ∧
      ((s.ctx c).part ≠ none → (s.ctx c).halted = false → later (.ctxctlHalt o) (ctxHalt s c).2 (haltReq c))) ∧
    (op = 4 → ((s.ctx c).halted = false → lands (.ctxctlReset o) 1 s) ∧
      ((s.ctx c).halted = true → ∃ s2 : State, lands (.ctxctlReset o) 0 s2 ∧ s2.ctx c = {} ∧ ∀ l ∈ s2.launches, l.ctx ≠ c)) ∧
    (op = 5 → (f.slot o.t.toNat).extractLsb' 48 16 = 0 → (f.slot o.t.toNat).extractLsb' 4 12 = 0 →
      ((s.ctx c).part = none ∨ (∃ l ∈ s.launches, l.ctx = c) → lands (.ctxctlRestore o) 3 s) ∧
      (∀ v s2, ctxRestore s t.stk c (f.slot o.t.toNat) = (some v, s2) → lands (.ctxctlRestore o) (BitVec.ofNat 64 v) s2) ∧
      (∀ s2, ctxRestore s t.stk c (f.slot o.t.toNat) = (none, s2) → later (.ctxctlRestore o) s2 (restoreReq c))) ∧
    (6 ≤ op → lands (.ctxctlQuery o) 2 s)

/-- R329, R330: PRTCTL in the control column takes a command of 64 bytes: one whose fields break a rule is refused with 3, one on a
partition that does not exist with 5; CREATE makes the partition with its columns, ranges, planes and links, DESTROY removes one
with no bound context, PARAM sets the parameters that are not 0, BIND binds a free context, RESIZE starts and answers when nothing
touches the columns it gives up.
Model's choices: log 120. -/
def Obligations.PartitionControlForms : Prop :=
  ∀ (s : State) (t : TileId) (f : Firing) (o : DS), Issues s t f o.g → isControl t = true → Usable f (sl o.d ++ sl o.s) →
    let a := (f.slot o.s.toNat).toNat
    let b := memBytes s.mem (dramKey t.stk a) 64
    let q := readPrtCmd b
    let p := s.part q.part
    let lands := fun (i : Instr) (v : Word) (s2 : State) => Becomes i s t s2 (f.setSlot o.d.toNat v).advance
    a % 64 = 0 →
    (prtCmdOk b q = false → lands (.prtctlCreate o) 3 s ∧ lands (.prtctlResize o) 3 s ∧ lands (.prtctlDestroy o) 3 s ∧
      lands (.prtctlParam o) 3 s ∧ lands (.prtctlBind o) 3 s) ∧
    (prtCmdOk b q = true →
      (q.opc = 1 → p.exist = true → lands (.prtctlCreate o) 5 s) ∧
      (q.opc = 1 → p.exist = false → prtConflict s q = true → lands (.prtctlCreate o) 2 s) ∧
      (q.opc = 1 → p.exist = false → prtConflict s q = false → s.devid.getLsbD 12 = true →
        ∃ s2 : State, lands (.prtctlCreate o) 0 s2 ∧
          let p2 := s2.part q.part
          p2.exist = true ∧ p2.cols = q.cols ∧ p2.dram = q.dram ∧ p2.planes = q.planes ∧ p2.links = q.links ∧
          p2.bypb = (if q.bypb = 0 then 8 else q.bypb) ∧ p2.colthr = (if q.colthr = 0 then 16 else q.colthr) ∧
          p2.qdef = (if q.qdef = 0 then 1024 else q.qdef)) ∧
      (q.opc = 2 → p.exist = false → lands (.prtctlResize o) 5 s) ∧
      (q.opc = 2 → p.exist = true → p.resizing = none → prtConflict s q = false →
        (∀ l ∈ s.launches, s.partOfCtx l.ctx ≠ q.part) →
        ∃ s2 : State, Becomes (.prtctlResize o) s t s2
            { f with pend := f.pend ++ [({ src := .system (resizeReq q.part), d := o.d.toNat, n := 1, how := .zext 8 } : Pend)] }.advance ∧
          s2 = (prtResize s t f.id b q).2) ∧
      (q.opc = 3 → p.exist = false → lands (.prtctlDestroy o) 5 s) ∧
      (q.opc = 3 → p.exist = true → p.resizing = none → (∃ x ∈ s.ctxs, x.2.part = some q.part) → lands (.prtctlDestroy o) 4 s) ∧
      (q.opc = 3 → p.exist = true → p.resizing = none → (∀ x ∈ s.ctxs, x.2.part ≠ some q.part) →
        lands (.prtctlDestroy o) 0 (s.setPart q.part {})) ∧
      (q.opc = 4 → p.exist = false → lands (.prtctlParam o) 5 s) ∧
      (q.opc = 4 → p.exist = true → p.resizing = none → ∃ s2 : State, lands (.prtctlParam o) 0 s2 ∧
        (s2.part q.part).qdef = (if q.qdef = 0 then p.qdef else q.qdef) ∧ (s2.part q.part).cols = p.cols) ∧
      (q.opc = 5 → p.exist = true → p.resizing = none → (s.ctx q.ctx).part = none →
        lands (.prtctlBind o) 0 (s.setCtx q.ctx { s.ctx q.ctx with part := some q.part })) ∧
      (q.opc = 5 → ((s.ctx q.ctx).part ≠ none ∨ p.exist = false) → lands (.prtctlBind o) 5 s))

/-! Issue, decoding, faults and invariants (R49 to R53, R68, R238 to R241) -/

/-- R50, R53, R233: when the choice of the step is a firing and the word at its program counter decodes to a form, the step is the
meaning of that form in the state where the firing is the one that issues, then what follows every word (its progress noted, cycles
passed, no word issuing); CTXCTL and PRTCTL run the operation that their operands name.
Model's choices: log 2, 3, 12. -/
def Obligations.StepRunsTheDecodedInstruction : Prop :=
  ∀ (s : State) (t : TileId) (f : Firing) (c : CodeWord) (w : Fetched), choose s = some (.word t f) → f.failed = none → s.errs = [] →
    tabFind (s.tile t).code f.pc = some c → c.header = false → decodeWord c.word = .ok w →
    let s1 := issuing t f s
    let g : Firing := { f with st := .running }
    (∀ s2, execFetched t g w s1 = .next s2 → step s = .next (settle (.word t f) (afterIssue t f.id f.inst s2))) ∧
    (∀ i, w = .form i → execFetched t g w s1 = exec i s1) ∧
    (s.firing? t f.id = some f → ∀ b, f.guard b = true → Issues s1 t g b)

/-- R49, R63, R68: for every well-formed form, with every operand at every value its fields admit, the decoder reads the encoded word
as that form (CTXCTL and PRTCTL as the word whose operand selects the operation). -/
def Obligations.DecodingUndoesEncoding : Prop :=
  ∀ (i : Instr) (w : Word), i.wf = true → encode i = some w →
    decodeWord w = .ok (match i with
      | .ctxctlQuery o => .ctxctl o | .ctxctlEnable o => .ctxctl o | .ctxctlDisable o => .ctxctl o
      | .ctxctlHalt o => .ctxctl o | .ctxctlReset o => .ctxctl o | .ctxctlRestore o => .ctxctl o
      | .prtctlCreate o => .prtctl o | .prtctlResize o => .prtctl o | .prtctlDestroy o => .prtctl o
      | .prtctlParam o => .prtctl o | .prtctlBind o => .prtctl o
      | i => .form i)

/-- R53, R68: a word that the decoder accepts is the encoding of what it reads, so that no reserved bit is set in it and no other
word reads alike, and its guard is not 1000; a word of an OP without a row is refused. -/
def Obligations.AcceptedWordsAreTheirEncoding : Prop :=
  (∀ (w : Word) (x : Fetched), decodeWord w = .ok x → x.raw?.map Raw.pack = some w ∧ w.extractLsb' 49 4 ≠ 8) ∧
  (∀ (w : Word), (w.extractLsb' 56 7).toNat ∈ [0x0B, 0x0C, 0x0F, 0x16, 0x17, 0x1C, 0x1F, 0x26, 0x27, 0x2F, 0x35, 0x37, 0x3A, 0x7F] →
    decodeWord w = .error .noRow)

/-- R12, R286, R332, R336, R343, R350, R359, R397, R398, R405, R419 to R421: what reset leaves. Every management register reads 0 but
POWERCAP 3000, PWRSTAT with K 16 and its three low bits 0, TEMPWIN 20, TEMPLIM 95, PARTPRM with REMTO 24000 and WDLOG 20, and a
firing starts with PPR 0. No part of the boot sequence has run, and every byte of memory reads zero (R290).
Model's choices: log 7, 151. -/
def Obligations.ResetLeavesTheStatedValues : Prop :=
  (∀ (a : Nat) (r : MReg), mregOf a = some r →
    match r with
    | .powercap => mregRead State.reset a = 3000
    | .pwrstat => (mregRead State.reset a).extractLsb' 0 8 = 0x80
    | .tempwin _ => mregRead State.reset a = 20
    | .templim => mregRead State.reset a = 95
    | .partprm _ => mregRead State.reset a = BitVec.ofNat 64 (24000 * 2 ^ 32 + 20)
    | _ => mregRead State.reset a = 0) ∧
  State.reset.boot = .off ∧ (∀ a, State.reset.byte a = 0) ∧ Memory.wf State.reset.mem = true ∧ wordFiring.ppr = 0

/-- The invariants hold at reset. -/
def Obligations.ResetMeetsTheInvariants : Prop := Inv State.reset

/-- R53, R377: between any two steps no word is half issued, and no acknowledgement of a REPOINT that is due is kept back: every
step of every state that meets this keeps it. -/
def Obligations.EveryStepKeepsTheInvariants : Prop := ∀ (s s' : State), Inv s → step s = .next s' → Inv s'

/-- R238, R241, R403: a program fault leaves its firing SUSPENDED at the faulting word with its slots, predicates and windows as they
were and its reservation gone, memory as it was, and puts one record to the event queue of its context, or to the management queue
where that is not enabled: TYPE 1, CODE, PC and COURSE 1.
R238, R239: a fault that waits for its cause aborts a firing that has not committed: it has no frame, windows, registrations,
reservation, buffered lines or held tokens left, and keeps its inputs and output places; a committed one is SUSPENDED at the word. A
parity or residue fault aborts an uncommitted firing at most twice and requeues it; of a committed one it makes again, once, what met
it (the word, a command that failed in flight, or an evaluation), and then suspends. Memory stays as it was. -/
def Obligations.FaultsSuspendAbortOrRetry : Prop :=
  (∀ (s : State) (t : TileId) (f : Firing) (e : FInfo), s.firing? t f.id = some f → classOf e = .program → e.hv = none → e.pull = none →
      e.poison = false →
      let s2 := takeFault s t f e
      let q : QSel := if (s.queue (.ev (s.ctxOf f))).en then .ev (s.ctxOf f) else .mg
      (∃ g, s2.firing? t f.id = some g ∧ g.st = .suspended ∧ g.pc = f.pc ∧ g.slots = f.slots ∧ g.preds = f.preds ∧ g.wins = f.wins ∧
        g.frame = f.frame ∧ g.resv = none ∧ g.out = f.out) ∧
      s2.mem = s.mem ∧
      (∃ b, (s2.queue q).waiting = (s.queue q).waiting ++ [b] ∧ b.length = 64 ∧ leField b 0 1 = 1 ∧
        leField b 1 1 = e.code.num ∧ leField b 0x30 2 = f.pc % 2 ^ 16 ∧ leField b 0x38 1 = 1)) ∧
  (∀ (s : State) (t : TileId) (f : Firing) (e : FInfo), s.firing? t f.id = some f → e.poison = false →
      let s2 := takeFault s t f e
      let aborted := fun (n : Nat) => (∃ g, s2.firing? t f.id = some g ∧ g.st = .aborted ∧ g.frame = 0 ∧ g.slots = [] ∧ g.wins = [] ∧
          g.out = [] ∧ g.resv = none ∧ g.committed = false ∧ g.inputs = f.inputs ∧ g.reserved = f.reserved ∧ g.retries = n) ∧
        (∀ b ∈ (s2.tile t).store, b.owner ≠ f.id) ∧ (∀ k, ∀ r ∈ (s2.stack k).regs, r.holder ≠ .firing t f.id)
      let suspended := ∃ g, s2.firing? t f.id = some g ∧ g.st = .suspended ∧ g.pc = f.pc ∧ g.slots = f.slots ∧ g.wins = f.wins
      s2.mem = s.mem ∧
      (classOf e = .waits → (f.committed = false → aborted f.retries) ∧ (f.committed = true → suspended)) ∧
      (classOf e = .retries →
        (f.committed = false → f.retries < 2 → aborted (f.retries + 1) ∧ .requeue t f.id ∈ s2.acts) ∧
        (f.committed = false → 2 ≤ f.retries → suspended) ∧
        (f.committed = true → triedAgain (s.tile t) f e = false →
          (∃ g, s2.firing? t f.id = some g ∧ g.st = f.st ∧ g.pc = f.pc ∧ g.slots = f.slots ∧ g.resv = none ∧
            ((∀ c ∈ (s.tile t).cmds, c.owner = f.id → c.id ≠ e.cmd) → failedEval (s.tile t) f.id = none → g.retried = true)) ∧
          (∀ c, (s.tile t).cmds.find? (fun c => decide (c.id = e.cmd) && decide (c.owner = f.id)) = some c →
            ∃ d ∈ (s2.tile t).cmds, d.id = c.id ∧ d.st ≠ .failed ∧ d.fault = none ∧ d.retried = true)) ∧
        (f.committed = true → triedAgain (s.tile t) f e = true → suspended)))

/-- R52, R53: a word that names a slot beyond its frame takes SLOT with the first such number, and one whose slot has a write to come
waits and changes nothing: for the forms of three and two slots, of one slot and of octets named here.
R53, R62, R65: a word of any form whose guard is off moves on and changes nothing but its wave; what remains of it is the check of
its port or register number (ILLEGAL) and of its wave (WAVE). -/
def Obligations.GuardsAndSlotsComeFirst : Prop :=
  (∀ (s : State) (t : TileId) (f : Firing),
      let named := fun (i : Instr) (g : BitVec 4) (l : List Nat) => Issues s t f g →
        (∀ a d b, l = a ++ d :: b → (∀ x ∈ a, x < f.frame) → f.frame ≤ d → Faults i s t f { code := .slot, detail := d }) ∧
        ((∀ x ∈ l, x < f.frame) → (∃ x ∈ l, f.isPending x = true) → Holds i s t f)
      (∀ (o : HR3), named (.add o) o.g (sl o.d ++ sl o.s ++ sl o.t) ∧ named (.mad o) o.g (sl o.d ++ sl o.s ++ sl o.t) ∧
        named (.divu o) o.g (sl o.d ++ sl o.s ++ sl o.t)) ∧
      (∀ (o : HR2), named (.mov o) o.g (sl o.d ++ sl o.s)) ∧ (∀ (o : HK), named (.addi o) o.g (sl o.d ++ sl o.s)) ∧
      (∀ (o : HI), named (.li o) o.g (sl o.d)) ∧ (∀ (o : F3), named (.ffma o) o.g (sl o.d ++ sl o.s ++ sl o.t)) ∧
      (∀ (o : V3), named (.vmad o) o.g (octSlots o.d ++ octSlots o.s ++ octSlots o.t)) ∧
      (∀ (o : MEMo), named (.ldd o) o.g (sl o.d ++ sl o.s) ∧ named (.std o) o.g (sl o.d ++ sl o.s)) ∧
      (∀ (o : ATOMo), named (.aadd o) o.g (sl o.d ++ sl o.s ++ sl o.t)) ∧ (∀ (o : OneD), named (.cyc o) o.g (sl o.d))) ∧
  (∀ (i : Instr) (r : Raw) (s : State) (t : TileId) (f : Firing), i.raw? = some r → s.cur = some (t, f.id) → s.firing? t f.id = some f →
      f.guard r.g = false →
      (∃ w, exec i s = .next (s.setFiring t { f with waveLast := w }.advance)) ∨
      (∃ d, exec i s = .next (takeFault s t f { code := .wave, detail := d })) ∨ exec i s = .next (takeFault s t f { code := .illegal }))

/-- No form of an OP below 0x28 changes a byte of memory, a plane, a link or a management register, whether it
completes, waits or faults. -/
def Obligations.FormsBelowTheMemoryFormsLeaveMemory : Prop :=
  ∀ (i : Instr) (r : Raw) (s s' : State), i.raw? = some r → r.op.toNat < 0x28 → exec i s = .next s' →
    s'.mem = s.mem ∧ s'.planes = s.planes ∧ s'.links = s.links ∧ s'.buses = s.buses ∧ s'.devid = s.devid ∧ s'.powercap = s.powercap ∧ s'.templim = s.templim

/-- The worked encodings of R49, R55 and R63, each word as the spec prints it: six words and what they decode to, and the three small
changes that raise ILLEGAL at decode. -/
def Obligations.WorkedEncodingsDecode : Prop :=
  decodeWord 0x8004018020100000#64 = .ok (.form (.add { a := true, g := 2, d := 3, s := 1, t := 2, w := .w64 })) ∧
  decodeWord 0xA880050080206108#64 = .ok (.form (.ldw { g := 0, d := 10, s := 4, off := 4, wave := { seq := 3, pred := 2, succ := 4 } })) ∧
  decodeWord 0x901200001FFFFFFB#64 = .ok (.form (.br { g := 9, off := -5 })) ∧
  decodeWord 0x2000100200C18000#64 = .ok (.form (.vadd { g := 0, d := 4, s := 2, t := 3, ty := .int16, sat := true })) ∧
  decodeWord 0xAC000280C03D7801#64 = .ok (.form (.aadd
    { g := 0, d := 5, s := 6, t := 7, scope := .device, order := .ar, size := .d, sg := false, off := 1 })) ∧
  decodeWord 0x9380000000000000#64 = .ok (.form (.nop { g := 0, wave := none })) ∧
  (∃ e, decodeWord 0x2880050080206108#64 = .error e) ∧
  (∃ e, decodeWord 0x2000100200C98000#64 = .error e) ∧
  (∃ e, decodeWord 0xAC000280C03D8801#64 = .error e)

/-! Steps of memory, engines, firings, tokens and nodes (R151 to R157, R191 to R218, R226 to R275, R343 to R347) -/

/-- R151, R153 to R156, R300, R304, R422: the answer of a load lands and its firing goes on; a waiting open is granted where nothing
conflicts and the table has the entries, fails with RACE, which a recorded launch logs, where another holder's registration meets it,
and with WINFULL at its limit;
a granted one gives the firing its window; the last acknowledgement of a close completes it, and its registration leaves the table;
a home performs a store of its bytes and no other.
Model's choices: log 27. -/
def Obligations.MemoryStepsAnswerGrantAndClose : Prop :=
  ∀ (s : State) (t : TileId) (stk fid rid cid : Nat),
    (∀ (f : Firing) (p : Pend) (data : BitVec 512), s.firing? t fid = some f → f.pend = [p] → p.src = .remote rid → p.mask = 0 →
      (∀ n, p.how = .zext n → n ≤ 8 → exec (.loadReturn t fid rid data) s =
        .next (s.setFiring t ({ f with pend := [], wait := .none }.setSlot p.d (BitVec.ofNat 64 (data.toNat % 2 ^ (8 * n)))).advance)) ∧
      (p.how = .octet → exec (.loadReturn t fid rid data) s =
        .next (s.setFiring t ({ f with pend := [], wait := .none }.setSlotsNat p.d data.toNat 8).advance))) ∧
    (∀ (w : WtReq) (k : Nat) (r : Reg), (s.stack stk).waits = [w] → w.decided = false → w.winner = none → w.regs = [(k, r)] →
      (firstConflict s k r = none → regsFit s [(k, r)] = true →
        ∃ s2 : State, exec (.wtOpenRequest stk) s = .next s2 ∧ r ∈ (s2.stack k).regs ∧ .windowGrant stk w.rid ∈ s2.acts) ∧
      (∀ o s1, firstConflict s k r = some o →
        (match w.logged s 0 with
          | some (i, src, obj) => raceDecided s i src obj (holderValue o.holder)
          | none => some s) = some s1 →
        exec (.wtOpenRequest stk) s = .next (failOpen s1 stk w (raceInfo (areaBase r.area) r.ctx o) (holderValue o.holder))) ∧
      (w.rid = rid → ∃ e, e.code = .winfull ∧ exec (.winfullTimeout stk rid) s = .next (failOpen s stk w e 0))) ∧
    (∀ (w : WtReq) (k : Nat) (r : Reg) (b : Rect) (f : Firing) (win : Nat), (s.stack stk).waits = [w] → w.rid = rid → w.decided = true →
      w.regs = [(k, r)] → r.area = [b] → w.who = .window t fid win → s.firing? t fid = some f → f.loops = [] →
      ∃ (s2 : State) (g : Firing), exec (.windowGrant stk rid) s = .next s2 ∧ s2.firing? t fid = some g ∧ g.wait = .none ∧
        g.pc = f.pc + 1 ∧ (s2.stack stk).waits = [] ∧
        tabFind g.wins win = some { w := r.w, base := BitVec.ofNat 64 b.base, rowb := b.rowb, pitch := b.pitch, rows := b.rows
                                    wid := r.wid, stk := k, remote := false, key := 0 }) ∧
    (∀ (c : CloseRec), s.closes = [c] → c.cid = cid →
      (1 < c.acks → exec (.closeAck cid) s = .next { s with closes := [{ c with acks := c.acks - 1 }] }) ∧
      (c.acks ≤ 1 → c.notice = none → exec (.closeAck cid) s =
        .next (State.later { s with closes := [{ c with acks := c.acks - 1 }] } (.closeComplete cid))) ∧
      (∃ s2 : State, exec (.closeComplete cid) s = .next s2 ∧ s2.closes = [] ∧ (∀ r ∈ (s2.stack c.stk).regs, r.wid ≠ c.wid) ∧
        ∀ f, s.firing? c.t c.fid = some f → ∃ g, s2.firing? c.t c.fid = some g ∧ ∀ p ∈ g.closing, p.2 ≠ cid)) ∧
    (∀ (r : HomeReq), r.kind = .store → r.addr % 128 + r.size ≤ 128 → 1 ≤ r.size → busFailed s r.addr = false → Memory.wf s.mem = true →
      ∃ s2 : State, exec (.homePerform r) s = .next s2 ∧
        ∀ a, s2.byte a = if r.addr ≤ a ∧ a < r.addr + r.size then r.val.extractLsb' (8 * (a - r.addr)) 8 else s.byte a)

/-- R343, R346, R347, R373: a load, a sync access or an atomic of a place at another device sends one request that names the owner,
the context and the offset there, and its firing stands at it, its slots and memory as before; a request of another device is refused
unless the peer list of the context it names admits its source, and performed once: a repeated one is answered as before; an answer
reaches the load that waits for it and no other; a request without an answer within REMTO fails with FABRIC; a redirected one goes to
the new owner under its identifier, the lines of its page gone from the data caches.
Model's choices: log 48, 49. -/
def Obligations.RequestsBetweenDevicesAreServedOnce : Prop :=
  ∀ (s : State),
    (∀ (t : TileId) (f : Firing) (dev stk c off : Nat),
      let key := awayKey dev stk c off
      let line := key - key % 128
      let away := fun (k : AccKind) (w : Bool) (ea n : Nat) => ea % n = 0 ∧ routed s t.stk dev = true ∧
        locate s (accessOf s t f k w ea) = .ok (.away dev stk c off)
      let asks := fun (s1 : State) (i : Instr) (k : HomeKind) (off' : Nat) => ∃ s2 g rid, Becomes i s t s2 g ∧ g.pc = f.pc ∧
        g.slots = f.slots ∧ g.wait = .remote rid ∧ s2.mem = s1.mem ∧
        ∃ q ∈ s2.remote, q.rid = rid ∧ q.dev = dev ∧ q.dstk = stk ∧ q.rctx = c ∧ q.off = off' ∧ q.req.kind = k
      let reads := fun (i : Instr) (w : Wave) (ea n : Nat) => waveOkAfter f.waveLast w = true → covered f ea n false = true →
        away .load false ea n → (ownBytes s t f.id line).2 / 2 ^ (key % 128) % 2 ^ n ≠ 2 ^ n - 1 →
        rdcFind s t.stk (s.ctxOf f) line = none → asks s i .load (off - off % 128)
      (∀ (o : MEMo) (i : Instr) (n : Nat), (i, n) ∈ [(.ldb o, 1), (.ldbs o, 1), (.ldh o, 2), (.ldhs o, 2), (.ldw o, 4), (.ldws o, 4),
          (.ldd o, 8)] → Issues s t f o.g → Usable f (sl o.d ++ sl o.s) → reads i o.wave (effAddr f o.s o.off n) n) ∧
      (∀ (o : MEMVo), Issues s t f o.g → Usable f (octSlots o.d ++ sl o.s) → reads (.ldv o) o.wave (effAddr f o.s o.off 64) 64) ∧
      (∀ (o : SYNCo), Issues s t f o.g → Usable f (sl o.d ++ sl o.s) →
        let n := sizeBytes o.size
        let ea := effAddr f o.s o.off n
        (away .load false ea n → asks s (.lda o) .load off ∧ asks s (.ldx o) .ldx off) ∧
        (away .store true ea n → (isRel o.order = true → relReady s t f = true) → asks s (.stl o) .store off)) ∧
      (∀ (o : ATOMo) (s1 : State), Issues s t f o.g → Usable f (sl o.d ++ sl o.s ++ sl o.t) →
        let n := sizeBytes o.size
        let ea := effAddr f o.s o.off n
        away .atomic true ea n → (isRel o.order = true → relReady s t f = true) →
        (f.resv.any (fun r => decide (r.va.toNat = ea) && decide (r.size = n)) = true → asks s (.stx o) .stx off) ∧
        (f.resend = none → atomicTurn s t f ea = .ok (.inl s1) →
          asks s1 (.aadd o) .aadd off ∧ asks s1 (.aand o) .aand off ∧ asks s1 (.aor o) .aor off ∧ asks s1 (.axor o) .axor off ∧
          asks s1 (.amin o) .amin off ∧ asks s1 (.amax o) .amax off ∧ asks s1 (.axchg o) .axchg off ∧ asks s1 (.acas o) .acas off))) ∧
    (∀ (r : RemReq), r.req.kind = .load → r.isOpen = false →
      (isPeer s r.rctx 30 r.srcDev r.srcCtx = false → s.wasReset = false →
        exec (.remoteRequest r) s = .next (s.send (.answer r.srcDev r.srcStk r.rid (.fault FCode.owner.num 0 0 0)))) ∧
      (isPeer s r.rctx 30 r.srcDev r.srcCtx = false → s.wasReset = true →
        exec (.remoteRequest r) s = .next (s.send (.answer r.srcDev r.srcStk r.rid .isReset))) ∧
      (∀ p, isPeer s r.rctx 30 r.srcDev r.srcCtx = true → ownerXlate s r.stk r.rctx r.off false r.va 0 = .ok p →
        windowTouched (noteUse s p) p.key = none → lineSound (noteUse s p) p.key = .ok () →
        exec (.remoteRequest r) s = .next ((noteUse s p).send (.answer r.srcDev r.srcStk r.rid
          (.data (BitVec.ofNat 1024 (memNat (noteUse s p).mem p.key r.req.size))))))) ∧
    (∀ (r : RemReq) (a : RemAns), isPeer s r.rctx 30 r.srcDev r.srcCtx = true → r.req.kind ∈ [.store, .aadd, .axchg, .acas, .stx] →
      r.isOpen = false → servedBefore (s.stack r.stk) r = some a →
      exec (.remoteRequest r) s = .next (s.send (.answer r.srcDev r.srcStk r.rid a))) ∧
    (∀ (rid : Nat) (a : RemAns), (∀ q ∈ s.remote, q.rid ≠ rid) → exec (.remoteResponse rid a) s = .next s ∧
      exec (.remtoExpiry rid) s = .next s ∧ (∀ d k c, exec (.redirect rid d k c) s = .next s)) ∧
    (∀ (r : RemOut) (t : TileId) (fid : Nat) (v : BitVec 1024), s.remote = [r] → r.who = .load t fid → r.req.kind = .load →
      r.isOpen = false →
      (r.sent = true → ∃ s2 : State, exec (.remoteResponse r.rid (.data v)) s = .next s2 ∧ s2.remote = [] ∧
        .loadReturn t fid r.rid (BitVec.ofNat 512 (v.toNat / 2 ^ (8 * (r.va % 128)))) ∈ s2.acts ∧ s2.mem = s.mem) ∧
      (∀ f, s.firing? t fid = some f → f.wait = .remote r.rid → r.due ≠ 0 → r.due ≤ s.cyc r.stk →
        ∃ s1 e g, e.code = .fabric ∧ g.pc = f.pc ∧ g.slots = f.slots ∧ g.committed = f.committed ∧ s1.remote = [] ∧ s1.mem = s.mem ∧
          exec (.remtoExpiry r.rid) s = .next (pumpRemote (takeFault s1 t g e))) ∧
      (s.cyc r.stk < r.due → exec (.remtoExpiry r.rid) s = .next s)) ∧
    (∀ (r : RemOut) (d k c : Nat), s.remote = [r] →
      let s1 := dropAwayPage (dropAwayPage s r.key) (outKey r)
      exec (.redirect r.rid d k c) s = .next (State.send { s1 with remote := [{ r with dev := d, dstk := k, rctx := c }] }
        (.request { r with dev := d, dstk := k, rctx := c })))

/-- R14, R17, R20, R192, R199, R208, R209, R214, R242, R276 to R281, R309: the steps of the engines. 64 bytes of a plane that arrive enter
their slot, masked beyond the tensor's bounds, and the last ones end the fill; an MMA adds to each accumulator the weighted sum over plane
pairs of the bits that both operands have, saturated at 48 bits, OV telling of it; a copy writes its next chunk, which counts once all its
writes are acknowledged, and posts its completion after the last; a load of tables or wiring replaces its context's; a layer gives every evaluated
cell's signal the table bits that its six inputs select, all read before the layer; the last layer's result lands; a failed command
reaches its firing; a token of a stream enters the slot of its ME port.
Model's choices: log 43, 44, 38. -/
def Obligations.EngineStepsMoveTheirCommands : Prop :=
  ∀ (s : State) (t : TileId),
    (∀ (c : Cmd) (o : Nat) (d : Desc) (tr tc wake bit : Nat) (b : List Byte) (s1 : State), s.cmd? t c.id = some c →
      c.kind = .oload o d tr tc wake bit → c.pending = true → c.acq = false →
      pathBusy s t c (ownPath s t c (fillAddr d tr tc c.chunk)) = false →
      readPlane s t c d tr tc (d.plo + c.chunk / 16) (64 * (c.chunk % 16)) 64 = .got b s1 →
      let old := (s1.tile t).slotOf o
      let m : OmSlot := { old with
        planes := tabPut 0 old.planes (c.chunk / 16)
          (BitVec.ofNat 8192 (old.plane (c.chunk / 16) + wordOfBytes b * 2 ^ (512 * (c.chunk % 16)))) }
      (c.chunk + 1 < 16 * d.planes → exec (.omfillReceive t c.id c.chunk) s =
        .next (progress ((s1.setOm t o m).setCmd t { c with st := .running, chunk := c.chunk + 1 }) (some c.inst))) ∧
      (16 * d.planes ≤ c.chunk + 1 → exec (.omfillReceive t c.id c.chunk) s =
        .next (forget (endCmd (wakeNode (s1.setOm t o (m.complete d.planes)) t c wake bit) t c .done) t c) ∧
        (m.complete d.planes).filling = false ∧ (m.complete d.planes).nplanes = d.planes) ∧
      (∀ i x, x < 8 → d.dim128 ≤ 128 * tc + 8 * (i % 16) + x → (b.getD i 0).getLsbD x = false)) ∧
    (∀ (j : MmaJob) (rest : List MmaJob), (s.tile t).me.queue = j :: rest → s.errs = [] → tabAbove 0 (s.tile t).me.acc = true →
      let pa := trimmed (pprPa j.ppr) (j.ppr.getLsbD 8) (j.ppr.getLsbD 10) j.a
      let pb := trimmed (pprPb j.ppr) (j.ppr.getLsbD 9) (j.ppr.getLsbD 10) j.b
      let row := fun (m : OmSlot) (p i : Nat) => (tabGet 0 m.planes p).extractLsb' (128 * i) 128
      let weight := fun (sg : Bool) (n p : Nat) => if sg ∧ p + 1 = n then -((2 : Int) ^ p) else (2 : Int) ^ p
      let sum := fun (i k : Nat) => ((List.range pa).flatMap (fun p => (List.range pb).map (fun q =>
        weight (j.ppr.getLsbD 8) pa p * weight (j.ppr.getLsbD 9) pb q *
          ((List.range 128).countP (fun x => (row j.a p i &&& row j.b q k).getLsbD x) : Int)))).sum
      let old := fun (i k : Nat) => tabGet 0 (s.tile t).me.acc (4096 * j.acc + 64 * i + k)
      ∃ s2 : State, exec (.mmaComplete t) s = .next s2 ∧ (s2.tile t).me.queue = rest ∧ s2.mem = s.mem ∧
        (∀ i k, i < 64 → k < 64 → tabGet 0 (s2.tile t).me.acc (4096 * j.acc + 64 * i + k) =
          satInt (old i k + sum i k) (-(2 ^ 47 - 1)) (2 ^ 47 - 1)) ∧
        ((s2.tile t).me.ov = if ∃ i < 64, ∃ k < 64, (2 : Int) ^ 47 - 1 < |old i k + sum i k| then
          (s.tile t).me.ov ||| BitVec.ofNat 4 (2 ^ j.acc) else (s.tile t).me.ov)) ∧
    (∀ (c : Cmd), s.cmd? t c.id = some c → c.isCopy = true → c.pending = true → c.acks = 0 →
      exec (.copyDone t c.id) s = .next (postDone (endCmd s t c .done) t c 0) ∧
      (acqMet (s.tile t) c = true → relMet s t c = true → c.acq = false → (∀ x y, c.kind = .cpyt x y → c.snap ≠ none) →
        (c.sent = none → (chunksOf c.kind)[c.chunk]? = none → exec (.copyChunk t c.id) s = .next (s.later (.copyDone t c.id))) ∧
        (∀ ps ws s1 s2 c2, c.sent = none → (chunksOf c.kind)[c.chunk]? = some ps → fetchChunk t c ps s [] = .inr (ws, s1) →
          let n := (ws.map (fun w => w.2.length)).sum
          writeAll t c.id ws (s1.setCmd t { c with st := .running, sent := some n }) = .ok s2 → s2.cmd? t c.id = some c2 →
          exec (.copyChunk t c.id) s = .next (if c2.acks = 0 then chunkDone s2 t c2 n else progress s2 (some c2.inst))) ∧
        (∀ n, c.sent = some n → c.missed = false → exec (.copyChunk t c.id) s =
          .next (progress (s.setCmd t { c with chunk := c.chunk + 1, written := c.written + n, sent := none, twice := false })
            (some c.inst))))) ∧
    (∀ (c : Cmd) (k a : Nat) (b : List Byte) (s1 : State), (s.tile t).cmds = [c] → c.pending = true → c.acq = false →
      usesCtx (s.tile t) k c.id = false →
      (c.kind = .ltload k a → cmdRead s t c a 8192 = .got b s1 → exec (.lcbLoadComplete t c.id) s =
        .next (forget (endCmd (s1.setTile t { s1.tile t with lcb := { (s1.tile t).lcb with
          tables := putTables k b.toArray 1024 (s1.tile t).lcb.tables } }) t c .done) t c)) ∧
      (c.kind = .lwire k a → cmdRead s t c a 16384 = .got b s1 → exec (.lcbLoadComplete t c.id) s =
        .next (forget (endCmd (s1.setTile t { s1.tile t with lcb := { (s1.tile t).lcb with
          wiring := putWiring k b.toArray 1024 (s1.tile t).lcb.wiring
          invalid := if wiringBad b.toArray then (s1.tile t).lcb.invalid ||| BitVec.ofNat 8 (2 ^ k)
                     else (s1.tile t).lcb.invalid &&& ~~~BitVec.ofNat 8 (2 ^ k) } }) t c .done) t c))) ∧
    (∀ (j : LevalJob), (s.tile t).lcb.job = some j → s.errs = [] → tabAbove 0 (s.tile t).lcb.plane = true → j.bound = true →
      j.failed = false → j.settled = true → (s.tile t).halting = false → (s.tile t).atHalt = false →
      let l := (s.tile t).lcb
      let c := ((j.ac l.ac).toNat + j.next) % 8
      loadBefore (s.tile t) c j.stamp = false → l.invalid.getLsbD c = false →
      let wire := fun m => tabGet 0 l.wiring (1024 * c + m)
      let out := fun m => ((wire m).extractLsb' 66 11).toNat
      ∃ s2 : State, exec (.levalLayer t) s = .next s2 ∧ s2.mem = s.mem ∧
        (j.next + 1 < j.n → (s2.tile t).lcb.job = some { j with next := j.next + 1 }) ∧
        (j.n ≤ j.next + 1 → (s2.tile t).lcb.job = none ∧ (j.orphan = false → ∀ f, s.firing? t j.owner = some f →
          tabAbove 0 f.slots = true → ∃ g, s2.firing? t j.owner = some g ∧
            ∀ m < 8, g.slot (8 * j.q.toNat + m) = tabGet 0 (s2.tile t).lcb.plane (j.sig + m))) ∧
        (∀ n, (∀ m < 1024, (wire m).getLsbD 77 = true → out m ≠ n) → tabGet 0 (s2.tile t).lcb.plane n = tabGet 0 l.plane n) ∧
        (∀ m < 1024, (wire m).getLsbD 77 = true → (∀ m' < 1024, (wire m').getLsbD 77 = true → out m' = out m → m' = m) →
          ∀ i < 64, (tabGet 0 (s2.tile t).lcb.plane (out m)).getLsbD i =
            (tabGet 0 l.tables (1024 * c + m)).getLsbD
              (((List.range 6).map (fun k => if (tabGet 0 l.plane ((wire m).extractLsb' (11 * k) 11).toNat).getLsbD i then 2 ^ k else 0)).sum))) ∧
    (∀ (c : Cmd) (n : Nat), s.cmd? t c.id = some c → c.pending = true →
      exec (.commandFailure t c.id n) s = .next (failCmd s t c { code := codeOf n })) ∧
    (∀ (p : Nat) (k : Token) (o : Nat), headTok s t 16 p = some k → k.skip = 0 →
      let m := (s.tile t).slotOf p
      m.claimed = true → m.filling = true → m.armed = some o → m.got + 1 < 16 * m.nplanes → k.last = false →
      ∃ s2 : State, exec (.mePortFill t p) s = .next s2 ∧ s2.mem = s.mem ∧ (s2.tile t).slotOf p =
        { m with got := m.got + 1
                 planes := tabPut 0 m.planes (m.got / 16)
                   (BitVec.ofNat 8192 ((tabGet 0 m.planes (m.got / 16)).toNat + k.payload.toNat * 2 ^ (512 * (m.got % 16)))) })

/-- R224, R227 to R231, R235, R236, R240, R241, R243, R274, R327: the life of a firing and of an instance. The firing rule, or a source
of an armed instance, makes a WAITING firing with its tokens; the grant gives the oldest one an entry, its frame and its first word; a
stalled one goes on when its wait has ended; a DRAINING one with nothing left is gone; an ABORTED one waits again as the youngest; a
SUSPENDED one goes on at the word where it stands, or is killed with its launch; an instance starts with its configuration-span state,
ends with its streams, and stops at its watchdog.
Model's choices: log 75, 76. -/
def Obligations.FiringsLiveFromRuleToRetire : Prop :=
  ∀ (s : State) (t : TileId) (node tag fid : Nat) (i : Inst),
    (∀ x' l, (s.tile t).inst = some i.id → (s.tile t).stopped = false → (s.tile t).isActor node = true →
      hdrNin ((s.tile t).header node) ≠ 0 → mayFire s t node (BitVec.ofNat 32 tag) = true →
      assignPorts node ((s.tile t).header node) (BitVec.ofNat 32 tag) (hdrNin ((s.tile t).header node)) 0 (s.tile t) [] = some (x', l) →
      exec (.firingRule t node tag) s = .next (enterWaiting s t node (BitVec.ofNat 32 tag) i.id x' l)) ∧
    (∀ q, (s.tile t).inst = some i.id → s.inst? i.id = some i → i.armed = true → i.halting = false → (s.tile t).stopped = false →
      (s.tile t).sources.find? (fun q => decide (q.1 = node) && decide (q.2.1 = BitVec.ofNat 32 tag)) = some q →
      (s.tile t).isActor node = true → hdrNout ((s.tile t).header node) ≠ 0 → mayFire s t node (BitVec.ofNat 32 tag) = true →
      exec (.sourceFire t node tag) s = .next (enterWaiting s t node (BitVec.ofNat 32 tag) i.id (s.tile t) [])) ∧
    (∀ f e, (s.tile t).firings.find? (fun f => decide (f.st = .waiting)) = some f → (s.tile t).stopped = false →
      freeEntry (s.tile t) = some e → granulesUsed (s.tile t) + hdrGranules ((s.tile t).header f.node) ≤ 512 →
      ∃ (s2 : State) (g : Firing), exec (.resourceGrant t) s = .next s2 ∧ s2.firing? t f.id = some g ∧ g.st = .ready ∧ g.entry = e ∧
        g.pc = ((tabGet 0 (s.tile t).nodes f.node).extractLsb' 0 12).toNat ∧ g.frame = 16 * hdrGranules ((s.tile t).header f.node) ∧
        g.fpf = 0 ∧ g.ppr = 0 ∧ g.tag = f.tag ∧ g.count = tabGet 0 (s.tile t).counts f.node + 1 ∧ g.age = s.nextAge ∧ s2.mem = s.mem) ∧
    (∀ f, s.firing? t fid = some f → f.st = .stalled → (s.tile t).stopped = false →
      (∀ m, f.wait = .tags m → (s.tile t).tagPend f.node &&& m ≠ 0 → exec (.stallWake t fid) s = .next (wokenAt s t f)) ∧
      (∀ m, f.wait = .tags m → (s.tile t).tagPend f.node &&& m = 0 → exec (.stallWake t fid) s = .next s) ∧
      (∀ d n key target, f.wait = .bwait d n key true false target → target.toNat ≤ (s.plane n).gseq.toNat →
        exec (.stallWake t fid) s = .next (wokenAt s t (f.setSlot d.toNat (s.plane n).gseq))) ∧
      (∀ id, f.wait = .cwait id → (∀ c ∈ cwaitSet (s.tile t) f id, c.st = .done) → exec (.stallWake t fid) s = .next (wokenAt s t f)) ∧
      (∀ m, f.wait = .lwait m → (∀ c < 8, m.getLsbD c = true → loadingCtx (s.tile t) c = false) →
        exec (.stallWake t fid) s = .next (wokenAt s t f))) ∧
    (∀ f g, s.firing? t fid = some f → f.st = .draining → (s.tile t).stopped = false → f.failed = none → owedBy (s.tile t) fid = none →
      workDone (s.tile t) f = true → f.wins = [] → (f.rstep < 4 → relReady s t f = true) →
      (f.rstep < 4 → hdrOrd ((s.tile t).header f.node) = true →
        ∀ h ∈ (s.tile t).firings, h.node = f.node → f.tag.toNat ≤ h.tag.toNat) →
      (if f.rstep < 4 then releaseTokens s t f else s).firing? t fid = some g → g.out = [] → g.exitStatus = none →
      ∃ s2 : State, exec (.retire t fid) s = .next s2 ∧ s2.firing? t fid = none ∧ .resourceGrant t ∈ s2.acts ∧
        ∀ e ∈ (s2.tile t).store, e.owner ≠ fid) ∧
    (∀ f, s.firing? t fid = some f → f.st = .aborted →
      ∃ (s2 : State) (g : Firing), exec (.requeue t fid) s = .next s2 ∧ g.st = .waiting ∧ g.id = f.id ∧ g.inputs = f.inputs ∧
        (s2.tile t).firings = (s.tile t).firings.filter (fun h => h.id != fid) ++ [g] ∧
        (s2.tile t).tagPend f.node = (s.tile t).tagPend f.node &&& ~~~(s.tile t).tagEn f.node) ∧
    (∀ f, s.firing? t fid = some f → f.st = .suspended →
      (f.wait = .none → (∀ p ∈ s.stks, ∀ r ∈ p.2.regs, r.holder = .firing t fid → r.area = [] ∨ r.pages ≠ []) →
        ∃ (s2 : State) (g : Firing), exec (.resume t fid) s = .next s2 ∧ s2.firing? t fid = some g ∧
          g.st = (if f.fromDrain then .draining else .ready) ∧ g.pc = f.pc ∧ g.slots = f.slots ∧ g.committed = f.committed ∧
          g.failed = none ∧ g.held = false ∧ s2.mem = s.mem ∧ ∀ c ∈ (s2.tile t).cmds, c.owner = fid → c.st ≠ .failed) ∧
      (∀ l, s.inst? f.inst = some i → s.launch? i.ctx i.lid = some l → exec (.kill t fid) s = .next (discardLaunch s l .killed))) ∧
    (s.inst? i.id = some i →
      (∀ c j, i.armed = false → i.saved = false → i.halting = false → (∀ u ∈ i.rect, (s.tile u).inst ≠ some i.id) →
        instCfg s i = some c →
        let s1 := cacheTouch (placeTiles s i c) i.stk c.key
        let s2 := (instNodes s1 i (fun x n => x.isMport n 0 || x.isMport n 1)).foldl (fun s q => mpInit q.1 q.2 s) s1
        s2.inst? i.id = some j →
        let s3 := match s2.launch? j.ctx j.lid with | some l => writeShapes s2 j l | none => s2
        let chans := instNodes s3 j (fun x n => x.isChan n && !(x.soOf n).bound)
        let owed := chans.length + (s3.remote.filter (fun r => r.who == .shapes i.id)).length
        exec (.instantiate i.id) s =
          .next (armInst ((s3.setInst { j with binding := owed }).laterAll (chans.map (fun q => Act.chanBind q.1 q.2))) i.id)) ∧
      (instEnded s i = true → exec (.endOfStream i.id) s = .next (leaveLaunch (dropInst s i) i .ok)) ∧
      (instEnded s i = false → exec (.endOfStream i.id) s = .next s ∧
        (i.armed = true → i.halting = false → i.saved = false → i.resident = false → i.dhold = false →
          (∀ f ∈ liveFirings s i, waitHolds f = false) → i.wd + 2 ^ (s.part i.part).wdlog.toNat ≤ s.cyc i.stk →
          exec (.watchdogExpiry i.id) s = .next (takeDeadlock s i)) ∧
        (s.cyc i.stk < i.wd + 2 ^ (s.part i.part).wdlog.toNat → exec (.watchdogExpiry i.id) s = .next s)))

/-- R38, R40, R41, R43 to R46, R48, R189, R229: the one token of a network without failed hops. It goes along X to its column, then along
Y to its row; at its tile it is accepted when its edge expects it and has a place, sets its port's P bit, and is malformed, without a
node, or held where there is no place; one that no route reaches is discarded with FABRIC. A request covers the positions of a pull edge
from the one it names; a change of depth takes effect on an edge with nothing on it.
Model's choices: log 146. -/
def Obligations.TokensReachTheirPorts : Prop :=
  ∀ (s : State) (t : TileId),
    (∀ (n : NetTok), s.net = [n] → exec (.tokenResend n.id) s = .next { s with net := [{ n with refused := false }] }) ∧
    (∀ (n : NetTok), s.net = [n] → n.refused = false → s.badHops = [] → s.errs = [] →
      (n.tok.dev.toNat = s.dev → n.tok.stk.toNat = n.at_.stk →
        (n.at_ = n.tok.tile → exec (.routeToken n.id) s = .next (s.later (.tokenReceive n.id))) ∧
        (∀ x, (n.at_.x < n.tok.tile.x ∧ x = n.at_.x + 1) ∨ (n.tok.tile.x < n.at_.x ∧ x + 1 = n.at_.x) →
          ∃ g, exec (.routeToken n.id) s =
            .next { s with grants := g, net := [{ n with at_ := { n.at_ with x := x }, tries := 0 }] }) ∧
        (∀ y, n.at_.x = n.tok.tile.x → (n.at_.y < n.tok.tile.y ∧ y = n.at_.y + 1) ∨ (n.tok.tile.y < n.at_.y ∧ y + 1 = n.at_.y) →
          ∃ g, exec (.routeToken n.id) s =
            .next { s with grants := g, net := [{ n with at_ := { n.at_ with y := y }, tries := 0 }] })) ∧
      (n.tok.dev.toNat ≠ s.dev → tabFind (s.stack n.at_.stk).routes n.tok.dev.toNat = none → ∃ e g, e.code = .fabric ∧
        exec (.routeToken n.id) s = .next (postNodeFault { s with net := [], grants := g } n.src n.tok.ctx.toNat e n.tok.node.toNat
          n.tok.tag.toNat .discarded))) ∧
    (∀ (n : NetTok) (i : Inst) (e : Edge), s.net = [n] → n.at_ = n.tok.tile → n.tok.tile = t → n.tok.dev.toNat = s.dev →
      n.refused = false → s.badHops = [] → s.errs = [] →
      (n.tok.malformed = true → (s.tile t).inst = none ∨ n.tok.kind = 1 ∨ n.tok.kind = 2 → ∃ g, exec (.tokenReceive n.id) s =
        .next (tokenRecord { s with net := [], grants := g } t n.tok 8 (n.tok.header % 2 ^ 64))) ∧
      ((s.tile t).inst = some i.id → s.inst? i.id = some i → i.ctx = n.tok.ctx.toNat → n.tok.malformed = false → n.tok.kind = 0 →
        (tabFind (s.tile t).edges (portKey n.tok.node.toNat n.tok.port.toNat) = none →
          ∃ g, exec (.tokenReceive n.id) s = .next (tokenRecord { s with net := [], grants := g } t n.tok 9 n.tok.node.toNat)) ∧
        (tabFind (s.tile t).edges (portKey n.tok.node.toNat n.tok.port.toNat) = some e → (s.tile t).isActor n.tok.node.toNat = true →
          n.direct = false → n.tok.skip = 0 → n.tok.seq = e.expect →
          (e.depth ≤ e.fifo.length → exec (.tokenReceive n.id) s = .next s) ∧
          (e.fifo.length < e.depth → e.early = [] → ∃ (s2 : State) (e2 : Edge) (q : FTok), exec (.tokenReceive n.id) s = .next s2 ∧
            s2.net = [] ∧ s2.mem = s.mem ∧ tabFind (s2.tile t).edges (portKey n.tok.node.toNat n.tok.port.toNat) = some e2 ∧
            e2.fifo = e.fifo ++ [q] ∧ q.tok = n.tok ∧ e2.expect = n.tok.seq + 1 ∧ e2.arrived = e.arrived + 1 ∧
            ((s2.tile t).tagPend n.tok.node.toNat).getLsbD n.tok.port.toNat = true)))) ∧
    (∀ (node port count : Nat) (o : OutEdge), tabFind (s.tile t).outs (portKey node port) = some o → o.waiting = [] → o.reqs = [] →
      exec (.reqToken t node port o.covered count) s = .next (s.setOut t (portKey node port) { o with covered := o.covered + count })) ∧
    (∀ (node port depth : Nat) (e : Edge), tabFind (s.tile t).edges (portKey node port) = some e → depth < e.depth →
      ∃ s2 : State, exec (.reconfCtrl t node port depth) s = .next s2 ∧ s2.mem = s.mem ∧
        (e.early = [] → e.fifo = [] → e.asked ≤ e.arrived →
          tabFind (s2.tile t).edges (portKey node port) = some { e with depth := depth, reconf := none }) ∧
        (e.fifo ≠ [] → tabFind (s2.tile t).edges (portKey node port) = some { e with reconf := some depth }))

/-- R265, R273, R352, R354, R405, R406: what control tokens and debug control do to tiles and instances: a page of an MPORT that uses its
old base no longer is latched again, after a probe where it lies at another device, and the stream that stalled on it goes on; the
watchdogs of joined instances are held and freed; a halted tile issues no more and reports its halt point when it is still; debug control
halts a tile, lets it go on, or lets one word issue; a node that is dead stops its launch.
Model's choices: log 100, 102, 101. -/
def Obligations.TilesHaltHoldAndRelatch : Prop :=
  ∀ (s : State) (t : TileId) (i : Inst),
    (∀ (node : Nat) (page : Word) (ret : BitVec 24), node = 13 ∨ node = 14 → (s.tile t).bound node = true → (s.tile t).inst = some i.id →
      let v := (s.tile t).soOf node
      let s1 := s.setSo t node { v with relatches := [(page, ret)] }
      v.relatches = [] →
      (mpBusy s v = true ∨ v.scan ≠ none ∨ v.probes ≠ [] → exec (.relatch t node page ret) s = .next s1) ∧
      (mpBusy s v = false → v.scan = none → v.probes = [] →
        (v.latches.find? (fun q => decide (q.va ≤ page.toNat) && decide (page.toNat < q.va + q.size)) = none →
          ∃ s2 : State, exec (.relatch t node page ret) s = .next s2 ∧ (s2.tile t).soOf node = v) ∧
        ∀ q, v.latches.find? (fun q => decide (q.va ≤ page.toNat) && decide (page.toNat < q.va + q.size)) = some q →
          let hull := mpHull ((s1.tile t).block node) (match s1.inst? i.id with | some j => j.ntags | none => 0)
          let b := (areaNext hull q.va).getD q.va
          let found := locate s1 { mpAccess s1 t i.id (decide (recSub ((s1.tile t).rec_ node) = 1)) page.toNat with va := b }
          let done := fun (l : Latch) => ∃ s2 : State, exec (.relatch t node page ret) s = .next s2 ∧ s2.mem = s.mem ∧
            (s2.tile t).soOf node = { v with
              latches := v.latches.filter (fun z => z.va != q.va) ++ [l]
              stall := match v.stall with | some a => if q.va ≤ a ∧ a < q.va + q.size then none else some a | none => none }
          (∀ e, found = .error e → done (latchOf s1 t b (.error e))) ∧
          (∀ g, found = .ok (.here g) → done (latchOf s1 t b (.ok g))) ∧
          (∀ d k c o, found = .ok (.away d k c o) → routed s1 t.stk d = true → ∃ (s2 : State) (rid : Nat),
            exec (.relatch t node page ret) s = .next s2 ∧ (s2.tile t).soOf node = { v with relatches := [(page, ret)], probes := [(rid, b)] }))) ∧
    (∃ l : List Inst, exec (.dhold i.id) s = .next { s with insts := l } ∧ (∀ j ∈ l, j.id = i.id → j.dhold = true) ∧
      l.map (fun j => j.id) = s.insts.map (fun j => j.id)) ∧
    (∃ l : List Inst, exec (.dfree i.id) s = .next { s with insts := l } ∧ (∀ j ∈ l, j.id = i.id → j.dhold = false) ∧
      (∀ j ∈ s.insts, ∀ k ∈ s.insts, k.id = i.id → j.dhold = true → (∀ h ∈ j.holds, h ∈ k.holds) →
        { j with holds := [], wd := s.cyc j.stk } ∈ l) ∧
      l.map (fun j => j.id) = s.insts.map (fun j => j.id)) ∧
    ((s.tile t).inst = some i.id → (s.tile t).resident = false → (s.tile t).halting = false →
      ∃ s2 : State, exec (.halt t) s = .next s2 ∧ (s2.tile t).halting = true ∧ (s2.tile t).stopped = true) ∧
    ((s.tile t).halting = true → (s.tile t).atHalt = false → (∀ f ∈ (s.tile t).firings, f.failed = none) →
      (tileStill s t = true → ∃ s2 : State, exec (.haltPoint t) s = .next s2 ∧ (s2.tile t).atHalt = true ∧ s2.mem = s.mem) ∧
      (tileStill s t = false → exec (.haltPoint t) s = .next s)) ∧
    ((s.tile t).dbg.halt = false → ∃ s2 : State, exec (.dbgctlHalt t) s = .next s2 ∧
      (s2.tile t).dbg = { (s.tile t).dbg with halt := true, halted := false } ∧ (s2.tile t).stopped = true) ∧
    ((s.tile t).dbg.halt = true →
      (s.trip = true → exec (.dbgctlResume t) s = .next s) ∧
      (s.trip = false → ∃ s2 : State, exec (.dbgctlResume t) s = .next s2 ∧
        (s2.tile t).dbg = { (s.tile t).dbg with halt := false, halted := false, step := false }) ∧
      ((s.tile t).dbg.halted = true → (∃ f ∈ (s.tile t).firings, f.st = .ready) → ∃ s2 : State, exec (.dbgctlStep t) s = .next s2 ∧
        (s2.tile t).dbg = { (s.tile t).dbg with step := true, halted := false })) ∧
    (∀ node, (s.tile t).inst = some i.id → s.inst? i.id = some i → ((s.tile t).soOf node).dead = true →
      exec (.soResidueFault t node) s = .next (preempt s i.ctx i.lid (some .residue)))

/-- R248 to R255, R260, R261, R270 to R272: the stream operators that compute. CONV sends each element in the output's format, the exact
value saturated and, with SKIP, an all-zero position not at all; ADDE the sums of pairs, ACC stores its tile, row subtraction the
differences; MULE the products; MAXE the running maxima and the factors; FUNC the function of every element; REDU folds rows and
columns; TRAN holds a tile until it is complete; EXDC decodes blocks and encodes positions.
Model's choices: log 84, 85, 86, 97, 98. -/
def Obligations.ComputingNodesSendTheirResults : Prop :=
  ∀ (s : State) (t : TileId) (n : Nat), Takes s t n →
    let x := s.tile t
    let v := x.soOf n
    let p := x.block n
    (∀ (k : Token), n < 2 → headAt s t n 0 = some (.tok k) → v.serves (.tok k) = true → canEmit s t n 0 1 = true →
      canEmit s t n 1 1 = true → canEmit s t n statPort 1 = true →
      (tabFind x.edges (portKey n 1) = none ∨ recSub (x.rec_ n) ≠ 1) → (tokLanes (pIfmt p) k).length * codeBits (pOfmt p) / 8 ≤ 64 →
      let elem := fun y => if recSub (x.rec_ n) = 1 then (convElem true (pIfmt p) (pOfmt p) (pKsc p) 0x3F800000 (pKbias p) y).out
        else (codeEnc (pOfmt p) (codeVal (pIfmt p) y)).1
      let es := (tokLanes (pIfmt p) k).map elem
      let out := packLanes (codeBits (pOfmt p)) es
      ∃ w : SoState,
        (pSken p = false ∨ k.last = true ∨ out ≠ 0 → Steps (.convToken t n) s t (sendOut (s.took t n [0] w) t n 0
          (soTok s t k.tag (pOfmt p) out (es.length * codeBits (pOfmt p) / 8) k.last))) ∧
        (pSken p = true → k.last = false → out = 0 →
          Steps (.convToken t n) s t (skipOut (s.took t n [0] w) t n 0 k.tag (pOfmt p) (es.length * codeBits (pOfmt p) / 8)))) ∧
    (∀ (k j : Token), n = 2 ∨ n = 3 → recSub (x.rec_ n) = 0 → headAt s t n 0 = some (.tok k) → headAt s t n 1 = some (.tok j) →
      canEmit s t n 0 1 = true →
      (pairBad k j = true → exec (.addeToken t n) s = .next (dropPair s t n v k j (pOfmt p))) ∧
      (pairBad k j = false → ∃ w : SoState,
        let l := ((tokLanes (pOfmt p) k).zip (tokLanes (pOfmt p) j)).map (fun q => (laneOp (pOfmt p) .add q.1 q.2).1)
        Steps (.addeToken t n) s t (sendOut (s.took t n [0, 1] w) t n 0
          (soTok s t k.tag (pOfmt p) (packLanes (codeBits (pOfmt p)) l) (l.length * codeBits (pOfmt p) / 8) (k.last || j.last))))) ∧
    (∀ (k : Token), n = 2 ∨ n = 3 → headAt s t n 0 = some (.tok k) → v.serves (.tok k) = true →
      (recSub (x.rec_ n) = 1 → tabFind x.edges (portKey n 1) = none → tabFind v.sizes (v.pos % tileLen p) = none → k.last = false →
        ∃ w : SoState, Steps (.addeToken t n) s t (s.took t n [0] w) ∧ w.outq = [] ∧ w.pos = v.pos + 1 ∧
          tabFind w.store (v.pos % tileLen p) = some k.payload ∧ tabFind w.sizes (v.pos % tileLen p) = some k.bytes.toNat) ∧
      (recSub (x.rec_ n) = 3 → canEmit s t n 0 1 = true → (v.pos % tileLen p = 0 → vecCount (pTrows p) ≤ v.vecs.length) →
        ∃ w : SoState, let l := (tokLanes (pOfmt p) k).map (fun a => (rowOp (pOfmt p) .sub a
            (v.rowLane (rowOf p v.pos) (rowOf p v.pos % 8))).1)
          Steps (.addeToken t n) s t (sendOut (s.took t n [0] w) t n 0 (soTok s t k.tag (pOfmt p)
            (packLanes (codeBits (pOfmt p)) l) (l.length * codeBits (pOfmt p) / 8) k.last)))) ∧
    (∀ (k j : Token), n = 4 → recSub (x.rec_ n) = 0 → headAt s t n 0 = some (.tok k) → headAt s t n 1 = some (.tok j) →
      canEmit s t n 0 1 = true → pairBad k j = false → ∃ w : SoState,
        let l := ((tokLanes (pOfmt p) k).zip (tokLanes (pOfmt p) j)).map (fun q => (laneOp (pOfmt p) .mul q.1 q.2).1)
        Steps (.muleToken t n) s t (sendOut (s.took t n [0, 1] w) t n 0
          (soTok s t k.tag (pOfmt p) (packLanes (codeBits (pOfmt p)) l) (l.length * codeBits (pOfmt p) / 8) (k.last || j.last)))) ∧
    (∀ (k : Token), headAt s t n 0 = some (.tok k) → v.serves (.tok k) = true → canEmit s t n 0 1 = true →
      (n = 4 → recSub (x.rec_ n) = 2 → (v.pos % tileLen p = 0 → vecCount (pTrows p) ≤ v.vecs.length) → ∃ w : SoState,
        let l := (tokLanes (pOfmt p) k).map (fun a => (rowOp (pOfmt p) .mul a (v.rowLane (rowOf p v.pos) (rowOf p v.pos % 8))).1)
        Steps (.muleToken t n) s t (sendOut (s.took t n [0] w) t n 0
          (soTok s t k.tag (pOfmt p) (packLanes (codeBits (pOfmt p)) l) (l.length * codeBits (pOfmt p) / 8) k.last))) ∧
      (n = 5 → canEmit s t n 1 1 = true → k.bytes = 64 → k.last = false → ∃ w : SoState,
        let base := 8 * (v.pos % Nat.max 1 (vecCount (pTrows p)))
        let row := fun i => maxLane (tabGet negInf32 v.rowmax (base + i)).toNat (k.payload.toNat / 2 ^ (32 * i) % 2 ^ 32)
        let o := soTok s t k.tag 6 (packLanes 32 ((List.range 8).map (fun i => (row i).1) ++ (List.range 8).map (fun i => (row i).2.1))) 64 false
        w.pos = v.pos + 1 ∧ Steps (.maxeToken t n) s t (sendOut (sendOut (s.took t n [0] w) t n 0 o) t n 1 o)) ∧
      (n = 6 → ∃ w : SoState,
        let l := (tokLanes (pOfmt p) k).map (fun a => (funcOp (recSub (x.rec_ n)) ((fmtOfCode (pOfmt p)).getD fmtFP32) a).1)
        Steps (.funcToken t n) s t (sendOut (s.took t n [0] w) t n 0
          (soTok s t k.tag (pOfmt p) (packLanes (codeBits (pOfmt p)) l) (l.length * codeBits (pOfmt p) / 8) k.last))) ∧
      (n = 11 → (recSub (x.rec_ n) < 2 → Steps (.reduToken t n) s t (reduRows t n s v p (decide (recSub (x.rec_ n) = 1)) (.tok k))) ∧
        (2 ≤ recSub (x.rec_ n) → Steps (.reduToken t n) s t (reduCols t n s v p (decide (recSub (x.rec_ n) = 3)) (.tok k)))) ∧
      (n = 12 → k.last = false → v.pos % tileLen p + 1 ≠ tileLen p → ∃ w : SoState, Steps (.tranToken t n) s t (s.took t n [0] w) ∧
        w.outq = [] ∧ w.pos = v.pos + 1 ∧ (k.payload ≠ 0 → tabFind w.store (v.pos % tileLen p) = some k.payload)) ∧
      (n = 12 → v.pos % tileLen p + 1 = tileLen p ∨ k.last = true → ∃ (w u : SoState), Steps (.tranToken t n) s t (s.took t n [0] w) ∧
        w.store = [] ∧ w.outq = tranTile s t (recSub (x.rec_ n)) u p k.tag k.last ∧
        (k.payload ≠ 0 → tabFind u.store (v.pos % tileLen p) = some k.payload)) ∧
      (n = 15 → recSub (x.rec_ n) ≠ 0 → ∃ w : SoState, Steps (.exdcToken t n) s t (s.took t n [0] w) ∧
        (k.last = false → w.bytes.length < 64 ∧ (w.outq.flatMap (fun q => bytesOf q.2.bytes.toNat q.2.payload.toNat)) ++ w.bytes =
          v.bytes ++ ec8Encode (laneList 8 64 k.payload.toNat)))) ∧
    (n = 15 → recSub (x.rec_ n) = 0 → v.blocks.length < 128 →
      (∀ c m, ec8Decode v.bytes = .block c m →
        Steps (.exdcToken t n) s t (s.setSo t n { v with bytes := v.bytes.drop m, blocks := v.blocks ++ [c] })) ∧
      (∀ k, ec8Decode v.bytes = .more → v.ended = [] → v.discard = false → headAt s t n 0 = some (.tok k) → v.serves (.tok k) = true →
        canEmit s t n 0 1 = true → canEmit s t n 1 1 = true → Steps (.exdcToken t n) s t (s.took t n [0] { v with
          cur := some k.tag, finished := false, bytes := v.bytes ++ bytesOf k.bytes.toNat k.payload.toNat
          ended := if k.last then [0] else [] })))

/-- R256 to R259, R262 to R266, R344: the stream operators that route and that reach memory. STEER sends a token by its steering bits,
FORK to every output, MERGE from the port whose turn it is, CHAN to another context once it is bound; an MPORT reads or writes the
bytes of its position's address, its token leaving after the access, at another device once that is acknowledged, and the completion of
a stream is posted with its positions.
R264, R344: the token of a finished access leaves an MPORT; a CHAN asks the far context's peer list, and with the last answer its
instance is armed.
Model's choices: log 88, 89, 99. -/
def Obligations.RoutingNodesPortsAndChannels : Prop :=
  (∀ (s : State) (t : TileId) (n : Nat) (i : Inst), Takes s t n → (s.tile t).inst = some i.id → s.inst? i.id = some i →
      let x := s.tile t
      let v := x.soOf n
      let p := x.block n
      (∀ k, headTok s t n 0 = some k →
        (n = 7 → recSub (x.rec_ n) ≠ 1 →
          let port := if k.stv then k.steer.toNat else pC p
          let s1 := (popTok s t n 0).setSo t n { v with sel := if k.last then none else v.sel, finished := k.last }
          passRoom s t n port k = true →
            (outBound s1 t (portKey n port) = true → Steps (.steerToken t n) s t (passOn s1 t n port k)) ∧
            (outBound s1 t (portKey n port) = false → ∃ e, e.code = .token ∧
              Steps (.steerToken t n) s t (postNodeFault s1 t k.ctx.toNat e n k.tag.toNat .discarded))) ∧
        (n = 8 ∨ n = 9 → (∀ o < 4, passRoom s t n o k = true) → Steps (.forkToken t n) s t
          (passOn (passOn (passOn (passOn ((popTok s t n 0).setSo t n { v with finished := k.last }) t n 0 k) t n 1 k) t n 2 k) t n 3 k)) ∧
        (x.isChan n = true →
          (v.bound = true → ∃ m : Token, m.payload = k.payload ∧ m.tag = k.tag ∧ m.seq = k.seq ∧ m.skip = k.skip ∧ m.last = k.last ∧
            m.fmt = k.fmt ∧ m.bytes = k.bytes ∧ m.kind = k.kind ∧ m.ctx = BitVec.ofNat 10 (pFctx p) ∧
            m.dev = BitVec.ofNat 12 (bitsNat (pRoute p) 38 27) ∧ m.node = BitVec.ofNat 10 (bitsNat (pRoute p) 15 6) ∧
            Steps (.chanToken t n) s t (inject ((popTok s t n 0).setSo t n { v with finished := k.last }) t m false)) ∧
          (v.bound = false → v.discard = false → ∃ e, e.code = .perm ∧ Steps (.chanToken t n) s t (postNodeFault
            ((popTok s t n 0).setSo t n { v with finished := k.last, discard := true }) t k.ctx.toNat e n k.tag.toNat .discarded)) ∧
          (v.bound = false → v.discard = true →
            Steps (.chanToken t n) s t ((popTok s t n 0).setSo t n { v with finished := k.last })))) ∧
      (∀ port k s1, n = 10 → recSub (x.rec_ n) = 0 → replaying s i.id = false → mergeFirst x n (pC p) = some port →
        headTok s t n port = some k → passRoom s t n 0 k = true →
        record s i.id { kind := 1, src := srcField { tile := t, entry := none, ctx := 0 }, obj := mergeObj n x, val := port } [] = some s1 →
        exec (.mergeToken t n) s = .next (mergeFrom t n s1 v port)) ∧
      (∀ k, n = 10 → recSub (x.rec_ n) ≠ 0 → canEmit s t n 0 1 = true → v.ended = [] → k.last = false →
        headAt s t n (v.merged % Nat.max 1 (pC p)) = some (.tok k) → ∃ w : SoState, w.merged = v.merged + 1 ∧
          Steps (.mergeToken t n) s t (sendOut (s.took t n [v.merged % Nat.max 1 (pC p)] w) t n 0 k)) ∧
      (v.dones = [] → mpReady v = true → v.wrote = false → canEmit s t n 0 1 = true →
        (x.isMport n 0 = true → i.armed = true → i.halting = false → v.mtag < i.ntags → v.mpos < mpCount p →
          mpAddr p v.mpos v.mtag % mpAlign (pC p) = 0 → ∀ ps b,
          mpPieces s (mpAccess s t i.id false (mpAddr p v.mpos v.mtag)) v.latches 4 (mpAddr p v.mpos v.mtag) (pC p) [] = .ok ps →
          mpRead s v ps [] [] = .ok (b, []) → ∃ w : SoState,
            w.outq = [(0, soTok (ps.foldl (fun s q => notePlace s q.2.1) s) t (BitVec.ofNat 32 v.mtag) (pOfmt p) (wordOfBytes b) (pC p)
              (decide (v.mpos + 1 = mpCount p)))] ∧
            (v.mpos + 1 < mpCount p → w.mpos = v.mpos + 1 ∧ w.mtag = v.mtag) ∧ (mpCount p = v.mpos + 1 → w.mpos = 0 ∧ w.mtag = v.mtag + 1) ∧
            Steps (.mportRead t n) s t ((ps.foldl (fun s q => notePlace s q.2.1) s).setSo t n w)) ∧
        (x.isMport n 1 = true → ∀ k ps, headAt s t n 0 = some (.tok k) → v.serves (.tok k) = true → k.bytes.toNat ≤ pC p →
          mpAddr p v.pos k.tag.toNat % mpAlign (pC p) = 0 →
          mpPieces s (mpAccess s t i.id true (mpAddr p v.pos k.tag.toNat)) v.latches 4 (mpAddr p v.pos k.tag.toNat) (pC p) [] = .ok ps →
          (∀ q ∈ ps, ∀ a b c d, q.2.1 = .away a b c d → routed s t.stk a = true) →
          ∀ s1, mpWrite t n i.ctx ps s (bytesOf (pC p) k.payload.toNat) = (s1, true) → exec (.mportWrite t n) s =
            .next (if ((s1.tile t).soOf n).wrote then progress s1 x.inst else mpPassed s1 t n p (.tok k) true true true))) ∧
      (n = 13 ∨ n = 14 → v.inflight = [] → ∀ tag k l s1, v.dones = (tag, k) :: l →
        s1 = progress (s.setSo t n { v with dones := l }) (some i.id) → pCdst p = 0 →
        exec (.streamDone t n) s = .next (s1.post (.ev i.ctx) (recHeader s 5 0 { tile := t, entry := none, ctx := i.ctx } + fld 8 2 n +
          fld 0x0C 4 tag.toNat + fld 0x10 8 k + fld 0x18 8 (s.cyc t.stk))))) ∧
  (∀ (s : State) (t : TileId) (n : Nat) (i : Inst), (s.tile t).inst = some i.id → s.inst? i.id = some i →
      let x := s.tile t
      (x.isMport n 1 = true → ∀ k, soRuns s t n = true → (x.soOf n).inflight = [] → (x.soOf n).outq = [] → (x.soOf n).wrote = true →
        (x.soOf n).stall = none → headAt s t n 0 = some (.tok k) → canEmit s t n 0 1 = true →
        exec (.mportAccessDone t n) s = .next (mpPassed s t n (x.block n) (.tok k) true true true)) ∧
      (∀ port k l, x.isMport n 0 = true ∨ x.isMport n 1 = true → soRuns s t n = true → (x.soOf n).inflight = [] →
        (x.soOf n).outq = (port, k) :: l → canEmit s t n port 1 = true →
        Steps (.mportAccessDone t n) s t (sendOut (s.setSo t n { x.soOf n with outq := l }) t n port k)) ∧
      (x.isChan n = true → i.binding ≠ 0 → (∀ r ∈ s.remote, r.who ≠ .chan t n) →
        (bitsNat (pRoute (x.block n)) 38 27 = s.dev → exec (.chanBind t n) s =
          .next (chanBound t n (isPeer s (pFctx (x.block n)) 29 s.dev i.ctx) s)) ∧
        (bitsNat (pRoute (x.block n)) 38 27 ≠ s.dev → routed s t.stk (bitsNat (pRoute (x.block n)) 38 27) = false →
          exec (.chanBind t n) s = .next (chanBound t n false s)) ∧
        (bitsNat (pRoute (x.block n)) 38 27 ≠ s.dev → routed s t.stk (bitsNat (pRoute (x.block n)) 38 27) = true →
          ∃ s2 : State, exec (.chanBind t n) s = .next s2 ∧
            .chanBind (bitsNat (pRoute (x.block n)) 38 27) (pFctx (x.block n)) i.ctx ∈ s2.outbox ∧ ∃ r ∈ s2.remote, r.who = .chan t n)) ∧
      (∀ (r : RemOut) (ok : Bool), s.remote = [r] → r.who = .chan t n → 0 < i.binding → ∃ s2 : State,
        exec (.chanBindAnswer t n ok) s = .next s2 ∧ s2.remote = [] ∧ ((s2.tile t).soOf n).bound = ok ∧
        (1 < i.binding → ∃ j, s2.inst? i.id = some j ∧ j.binding = i.binding - 1)))


/-- R315 to R317, R320, R322, R324, R325, R328, R330, R359, R366, R416, R420: launches. The host's record enters its queue under the next
launch id, completes at once when it is refused, is turned away at the transport, or waits there while its queue is full; the head of a
queue becomes eligible, its image
read, when its dependences have completed OK, and completes DEPFAIL where one has failed; Utund checks the image's hash and places its
shape; a pass admits the only candidate where it fits; an expired quantum saves the launch only where another wants its place; a
halted launch is saved, an admitted one is rebuilt at its place, and goes on, RUNNING, once nothing that it registered is still to be
answered; a resize completes when nothing touches the removed columns.
Model's choices: log 72, 103. -/
def Obligations.LaunchesQueuePlaceRunAndRest : Prop :=
  ∀ (s : State) (ctx lid : Nat),
    (∀ b, s.boot = .running → s.devid.getLsbD 12 = true → (s.ctx ctx).part.isSome = true →
      ((s.ctx ctx).evq.en = false → exec (.hostLaunch ctx b) s = .next (s.send (.host ctx 1 []))) ∧
      ((s.ctx ctx).evq.en = true → (s.ctx ctx).inbox = [] → recordOk b = true → 64 ≤ queueLen s ctx (byteAt b 3) →
        exec (.hostLaunch ctx b) s = .next (s.setCtx ctx { s.ctx ctx with inbox := [b] })) ∧
      ((s.ctx ctx).evq.en = true → (s.ctx ctx).inbox = [] → (∀ l ∈ s.launches, l.ctx = ctx → l.record = false) →
        let s1 := s.setCtx ctx { s.ctx ctx with nextLid := (s.ctx ctx).nextLid + 1, inbox := [b] }
        let id := (s.ctx ctx).nextLid % 2 ^ 32
        let entered := fun (s2 : State) => s2.setCtx ctx { s2.ctx ctx with inbox := [] }
        (recordOk b = true → queueLen s ctx (byteAt b 3) < 64 →
          exec (.hostLaunch ctx b) s = .next (entered (submitLaunch s1 ctx id b))) ∧
        (recordOk b = false →
          exec (.hostLaunch ctx b) s = .next (entered (postCompletion s1 ctx id (readLaunch ctx id b).cevid 0 none .lrec))))) ∧
    (∀ q l, (s.ctx ctx).inbox = [] → (tabGet [] (s.ctx ctx).queues q).head? = some lid → s.launch? ctx lid = some l → l.st = .queued →
      l.devp = none →
      (depState (s.ctx ctx) l.deps = .failed → exec (.launchEligible ctx q) s = .next (completeLaunch s l .depfail)) ∧
      (depState (s.ctx ctx) l.deps = .waiting → exec (.launchEligible ctx q) s = .next s) ∧
      (depState (s.ctx ctx) l.deps = .met → (s.ctx ctx).enabled = false → exec (.launchEligible ctx q) s = .next s) ∧
      (depState (s.ctx ctx) l.deps = .met → (s.ctx ctx).enabled = true → ∀ b s1,
        let l1 := { l with age := some (l.age.getD (s.cyc 0)) }
        launchRead (s.setLaunch l1) l1 l.imgp l.imglen = .got b s1 → exec (.launchEligible ctx q) s =
          .next (State.later (s1.setLaunch { l1 with st := .eligible, lines := [], asked := [] }) (.utundPlace lid ctx b)))) ∧
    (∀ img l, s.launch? ctx lid = some l → l.st = .eligible → l.placed = none →
      ((sha512 img).take 32 ≠ l.ghash → exec (.utundPlace lid ctx img) s = .next (completeLaunch s l .hash)) ∧
      ((sha512 img).take 32 = l.ghash →
        (∀ e, utund img l.levels = .error e → exec (.utundPlace lid ctx img) s = .next (completeLaunch s l e)) ∧
        (∀ w h tiles, utund img l.levels = .ok (w, h, tiles) → planeLevelsOk s l = true → ∃ c : PlacedCfg,
          c.w = w ∧ c.h = h ∧ c.tiles = tiles ∧ c.hash = l.ghash ∧ exec (.utundPlace lid ctx img) s =
            .next (State.later (s.setLaunch { l with placed := some c, image := img }) .arbitrationPass)))) ∧
    (∀ p P l c places, let s0 : State := { s with acts := s.acts.filter (fun a => a != .arbitrationPass) }
      s.parts = [(p, P)] → p < 16 → P.exist = true → s.launches = [l] → candidates s0 p = [l] → l.st = .eligible → l.placed = some c →
      l.cfg = c.key → c.key ≠ [] → l.reserved = [] → l.chosen = [] → stacksOf s0 p (asksOf s0 l c.w c.h) ≠ [] →
      asksOf s0 l c.w c.h ≠ [] → fitLaunch s0 p l (stacksOf s0 p (asksOf s0 l c.w c.h)) = some places →
      exec .arbitrationPass s = .next (admitLaunch s0 p l places)) ∧
    (∀ stk l i q, s.launch? ctx lid = some l → l.st = .running → s.timers = [] → quantumOf s l = some q →
      (launchInsts s l).filter (fun i => decide (i.stk = stk) && i.armed && !i.saved && !i.halting) = [i] → s.inst? i.id = some i →
      i.dhold = false → l.ctx = ctx → l.lid = lid → instEnded s i = false → i.qstart + q ≤ (s.stack stk).cyc →
      (quantumWanted s i.part stk l.cls = true → exec (.quantumExpiry lid ctx stk) s = .next (preempt s ctx lid none)) ∧
      (quantumWanted s i.part stk l.cls = false → ∃ s2 : State, exec (.quantumExpiry lid ctx stk) s = .next s2 ∧ s2.launches = s.launches ∧
        s2.timers = [{ stk := stk, due := (s.stack stk).cyc + q, act := .quantumExpiry lid ctx stk }])) ∧
    (∀ l a, (s.ctx ctx).halting = false → s.launch? ctx lid = some l → l.st = .halting → launchHalted s l = true →
      let is_ := (launchInsts s l).filter (fun i => !i.saved)
      let stk := is_.foldl (fun m i => Nat.min m i.stk) 3
      let part := s.partOfCtx ctx
      let d := imageData s ctx part stk [l.nowSaved] (is_.map (snapshot s)) none
      let place := carvPlace s part stk (imageBytes d).length
      is_ ≠ [] →
        (place = some a → exec (.imageSave ctx lid) s =
          .next (State.later ((writeImage s stk a ctx lid d is_ (is_.map (fun i => i.id))).setLaunch l.nowSaved) .arbitrationPass)) ∧
        (place = none → exec (.imageSave ctx lid) s = .next (partRecord s part stk ctx 1 lid))) ∧
    (∀ l, lid ≠ 0 → s.launch? ctx lid = some l → l.st = .admitted →
      let is_ := (launchInsts s l).filter (fun i => i.saved)
      let found := is_.filterMap (fun i => (savedOf s i).map (fun q => (i, q)))
      let free := found.foldl (fun s p => unparkRegs s p.1) s
      let claims := found.flatMap (fun p => winClaims free p.2.2 p.1)
      let built := found.foldl (fun s p => rebuild s p.2.1 p.2.2 (p.1.back s p.2.2)) free
      let back := s.insts.filter (fun i => decide (i.ctx = ctx) && decide (i.lid = lid) && i.comesBack s)
      (is_ ≠ [] → found.length = is_.length → restorePulls claims = [] → restoreBlocked free claims = false →
        exec (.restore ctx lid) s = .next (restoreGo ctx lid (retrySaves (retryOpens (dropImages built))))) ∧
      (is_ ≠ [] → found.length = is_.length → restoreBlocked free claims = true →
        restorePulls (found.flatMap (fun p => winClaims (unparkRegs s p.1) p.2.2 p.1)) = [] →
        exec (.restore ctx lid) s = .next s) ∧
      (is_ = [] → back ≠ [] → (∀ i ∈ back, opensOut s i = false) →
        ∀ l1, (back.foldl goOn s).launch? ctx lid = some l1 → (∀ i ∈ launchInsts (back.foldl goOn s) l1, i.armed = true) →
          ∃ s2 : State, exec (.restore ctx lid) s = .next s2 ∧ s2.launch? ctx lid = some { l1 with st := .running })) ∧
    (∀ part t fid n cols, (s.part part).resizing = some (t, fid, n, cols) → leavers s part cols = [] →
      ∃ s2 : State, exec (.resizeComplete part) s = .next s2 ∧ .arbitrationPass ∈ s2.acts ∧
        (s2.part part).cols = cols ∧ (s2.part part).resizing = none) ∧
    (∀ part t fid n cols, (s.part part).resizing = some (t, fid, n, cols) → leavers s part cols ≠ [] →
      exec (.resizeComplete part) s = .next s)

/-- R340, R371 to R377, R379: pages and peers that move. A pulled page leaves with its bytes, and its leaf names where it went; a
source that has been reset answers so, and an access to a page whose source no route reaches is FABRIC with CAUSE 6;
an arriving page's bytes stand in the frame and its leaf maps it; a REPOINT makes the OMAP entries that name the source name the
destination, and is acknowledged; the last acknowledgement ends it, at the source with its stubs; without one it is sent again, three
times in all, and then reported. An invalidation drops the steps it covers; once no registration holds the page it sends RELATCH to every
MPORT that has latched it, and completes when all of them have answered.
Model's choices: log 56, 58. -/
def Obligations.PagesMoveAndPeersFollow : Prop :=
  ∀ (s : State) (stk part gpa : Nat), Memory.wf s.mem = true →
    (∀ l rid ddev dstk dctx, stage2 s.mem stk (tabGet 0 (s.part part).s2root stk).toNat gpa = .ok l → l.size = 65536 →
      let k := dramKey stk l.base
      ∃ s2 : State, exec (.pagePull stk part gpa ⟨ddev, rid⟩ dstk dctx) s = .next s2 ∧
        (.page ddev dstk dctx stk part (gpa / 65536 * 65536) (cellsIn s.mem k 65536) (pageRegs (s.stack stk) k)) ∈ s2.outbox ∧
        (∃ x ∈ s2.stubs, x.stk = stk ∧ x.part = part ∧ x.gpa = gpa / 65536 * 65536 ∧ x.ddev = ddev ∧ x.dstk = dstk ∧ x.dctx = dctx) ∧
        (l.at_ % 8 = 0 → busFailed s l.at_ = false →
          memNat s2.mem l.at_ 8 = 2 ^ 7 + ddev % 4096 * 2 ^ 16 + dstk % 4 * 2 ^ 28)) ∧
    (∀ e rid ddev dstk dctx, stage2 s.mem stk (tabGet 0 (s.part part).s2root stk).toNat gpa = .error e →
      exec (.pagePull stk part gpa ⟨ddev, rid⟩ dstk dctx) s = .next (if s.wasReset then s.send (.answer ddev dstk rid .isReset) else s)) ∧
    (∀ e d k ctx off w va kind, ownerXlate s stk ctx off w va kind = .error e → e.pull = some (stk, part, gpa, d, k) → d ≠ s.dev →
      tabFind (s.stack stk).routes d = none → ∃ x, agentXlate s stk ctx off w va kind = .error x ∧ x.code = .fabric ∧ x.detail / 2 ^ 128 % 256 = 6) ∧
    (∀ leaf bytes at_, let root := (tabGet 0 (s.part part).s2root stk).toNat
      root.testBit 0 = true → absentAt s.mem stk (gpa / 65536 * 65536) 3 (entryAddr root) = some at_ → s.pulls = [] →
      wtUsed (s.stack stk) ≤ 4096 →
      movedCtx s part = none → at_ % 8 = 0 → busFailed s at_ = false →
      let k := dramKey stk (entryAddr leaf)
      ∃ s2 : State, exec (.pageInstall stk part gpa leaf bytes []) s = .next s2 ∧
        memNat s2.mem at_ 8 = entryAddr leaf + leaf % 16 / 4 * 4 + 3 ∧
        ∀ a < 65536, k + a < at_ ∨ at_ + 8 ≤ k + a →
          s2.byte (k + a) = ((bytes.reverse.find? (fun b => decide (b.1 = a))).map (fun b => b.2)).getD 0) ∧
    (∀ (r : Repoint), ∃ s2 : State, exec (.repoint .message r) s = .next s2 ∧ s2.mem = s.mem ∧ r ∈ (s2.plane 8).packs ∧
      ∀ c, (s2.ctx c).omap = (s.ctx c).omap.map (fun e => (e.1,
        if e.2.getLsbD 31 ∧ (e.2.extractLsb' 16 12).toNat = r.sdev ∧ (e.2.extractLsb' 14 2).toNat = r.sstk ∧ (e.2.extractLsb' 0 10).toNat = r.sctx then
          BitVec.ofNat 32 (2 ^ 31 + r.ddev % 4096 * 2 ^ 16 + r.dstk % 4 * 2 ^ 14 + r.dctx % 1024) else e.2))) ∧
    (∀ n pos (r : Repoint), exec (.repoint (.plane n pos) r) s = .next (receiveMessage s n.toNat
      { s.flitOf n.toNat 5 0 (BitVec.ofNat 512 (repointBits r)) with src := BitVec.ofNat 12 r.ddev, pos := pos })) ∧
    (∀ q peer, s.repoints = [q] →
      (peer ∈ q.peers → (∃ d ∈ q.peers, d ≠ peer) → exec (.pack peer q.ctx) s =
        .next { s with repoints := [{ q with peers := q.peers.filter (fun d => d != peer) }] }) ∧
      (q.peers = [peer] → q.msg.sdev ≠ s.dev → exec (.pack peer q.ctx) s = .next { s with repoints := [] }) ∧
      (q.peers = [peer] → q.msg.sdev = s.dev → ∃ s2 : State, exec (.pack peer q.ctx) s = .next s2 ∧ s2.repoints = [] ∧
        ∀ x ∈ s2.stubs, x.ddev = q.msg.ddev → x.dctx = q.msg.dctx → x.stk ≠ q.msg.sstk) ∧
      (q.msg.ddev = s.dev → peer ∈ q.peers →
        (q.sends < 3 → let s1 : State := { s with repoints := [{ q with sends := q.sends + 1 }] }
          exec (.repointTimeout peer q.ctx) s = .next ((sendRepoint s1 q.plane peer q.msg).at_ q.msg.dstk
            (s1.cyc q.msg.dstk + (s1.part (s1.partOfCtx q.ctx)).remto.toNat)
            (.repointTimeout peer q.ctx))) ∧
        (q.sends = 3 → let s1 : State := { s with repoints := [{ q with sends := 4 }] }
          exec (.repointTimeout peer q.ctx) s = .next (partRecord s1 (s1.partOfCtx q.ctx) q.msg.dstk q.ctx 5 q.ctx)))) ∧
    (∀ v : Word, let w := v &&& 0xEFFDFFFFFFFF000F#64
      ((s.stack stk).mtlbinv ≠ 0 → exec (.mtlbinv stk v) s = .next s) ∧
      ((s.stack stk).mtlbinv = 0 → w.toNat / 2 ^ 62 = 1 ∨ w.toNat / 2 ^ 62 = 2 → ∃ s2 : State, exec (.mtlbinv stk v) s = .next s2 ∧
        s2.mem = s.mem ∧ (s2.stack stk).mtlbinv = w ∧ .mtlbinvComplete stk ∈ s2.acts ∧
        (s2.stack stk).mtlb = (s.stack stk).mtlb.filter (fun e => !invHits s w.toNat e))) ∧
    ((s.stack stk).mtlbinv ≠ 0 → let x := s.stack stk
      let done := exec (.mtlbinvComplete stk) s = .next (s.setStack stk { x with mtlbinv := 0, invLen := 65536, invMports := [] })
      (x.invMports = [] → invHeld s stk = true → exec (.mtlbinvComplete stk) s = .next s) ∧
      (x.invMports = [] → invHeld s stk = false → invLatches s stk = [] → done) ∧
      (x.invMports = [] → invHeld s stk = false → invLatches s stk ≠ [] → ∃ s2 : State, exec (.mtlbinvComplete stk) s = .next s2 ∧
        s2.mem = s.mem ∧ (s2.stack stk).mtlbinv = x.mtlbinv ∧ (s2.stack stk).invMports = invLatches s stk ∧
        ∀ q ∈ invLatches s stk, .relatch q.1 q.2.1 (BitVec.ofNat 64 q.2.2) 0 ∈ s2.acts) ∧
      (x.invMports ≠ [] → x.invMports.any (owesRelatch s) = true → exec (.mtlbinvComplete stk) s = .next s) ∧
      (x.invMports ≠ [] → x.invMports.any (owesRelatch s) = false → done))

/-- R169, R172, R348 to R350, R393 to R395: deliveries and grants of a plane. The next message of the sequence raises GSEQ and takes its
effect: a USER message raises KC of every binding of its group, a contribution enters its index's accumulator, a GROUP changes the
group, a JOIN and a LEAVE the ring, and a member that is told to leave has left; one already delivered changes nothing, one beyond the
next is held behind the gap. The holder sends what is queued and then the grant; a grant that nobody answers is sent again; a gap that
stays open for REMTO makes the member leave.
Model's choices: log 59, 61. -/
def Obligations.PlanesDeliverInSequence : Prop :=
  ∀ (s : State) (n : Nat) (f : PFlit), let p := s.plane n
    let d := f.payload.toNat % 2 ^ 16
    (p.up = true → (∀ l ∈ s.launches, l.record = false ∧ l.replay = false) → tabAbove 0 s.ctxs = true →
      (f.pos.toNat ≤ p.gseq.toNat → ∃ s2 : State, exec (.userDelivery n f) s = .next s2 ∧ s2.ctxs = s.ctxs ∧ (s2.plane n).gseq = p.gseq) ∧
      (p.pendingDel = [] → p.gapLast = none → p.gseq.toNat + 1 < f.pos.toNat → ∃ s2 : State, exec (.userDelivery n f) s = .next s2 ∧
        s2.ctxs = s.ctxs ∧ (s2.plane n).gseq = p.gseq ∧ (s2.plane n).gapLast = some (f.pos.toNat - 1) ∧
        { f with mtype := 0 } ∈ (s2.plane n).pendingDel) ∧
      (p.pendingDel = [] → p.gapLast = none → f.pos.toNat = p.gseq.toNat + 1 →
        (∃ s2 : State, exec (.userDelivery n f) s = .next s2 ∧ (s2.plane n).gseq = f.pos ∧
          (∀ c ∈ boundCtxs s n f.gid.toNat, s2.kc c n f.key.toNat = s.kc c n f.key.toNat + 1) ∧
          (∀ c, c ∉ boundCtxs s n f.gid.toNat → s2.ctx c = s.ctx c)) ∧
        (∃ s2 : State, exec (.collDelivery n f) s = .next s2 ∧ (s2.plane n).gseq = f.pos ∧
          ∀ c ∈ boundCtxs s n f.gid.toNat,
            (((s.ctx c).colls.find? (fun a => decide (a.plane = n) && decide (a.idx = f.cidx.toNat))) = none →
              ∃ a ∈ (s2.ctx c).colls, a.plane = n ∧ a.idx = f.cidx.toNat ∧ a.cnt = 1 ∧ a.acc = f.payload ∧ a.n = f.n.toNat ∧
                a.complete = decide (f.n.toNat = 1)) ∧
            (∀ a, ((s.ctx c).colls.find? (fun a => decide (a.plane = n) && decide (a.idx = f.cidx.toNat))) = some a → a.released = false →
              a.complete = false → a.failed = false → a.n = f.n.toNat → a.ty = ltyOf f.lty → a.op = f.op.toNat →
              ∃ b ∈ (s2.ctx c).colls, b.plane = n ∧ b.idx = f.cidx.toNat ∧ b.cnt = a.cnt + 1 ∧ b.complete = decide (a.cnt + 1 = a.n) ∧
                b.acc = BitVec.ofNat 512 (combineLanes a.ty a.op a.acc.toNat f.payload.toNat).1)) ∧
        (∃ s2 : State, exec (.group n f) s = .next s2 ∧ (s2.plane n).gseq = f.pos ∧
          let g := (f.gid.toNat, f.src.toNat)
          (f.payload.getLsbD 15 = false → (s2.plane n).groups = if f.payload.getLsbD 0 then p.groups ++ [g] else p.groups.erase g) ∧
          (f.payload.getLsbD 15 = true → (s2.plane n).groups =
            (if f.payload.getLsbD 8 then p.groups.erase ((f.payload.extractLsb' 16 8).toNat, f.src.toNat) else p.groups) ++
              (if f.payload.getLsbD 0 then [g] else []))) ∧
        (∃ s2 : State, exec (.join n f) s = .next s2 ∧ (s2.plane n).gseq = f.pos ∧ (p.ring.length < 64 → d ∈ (s2.plane n).ring)) ∧
        (d ≠ s.dev → ∃ s2 : State, exec (.leave n f) s = .next s2 ∧ (s2.plane n).gseq = f.pos ∧
          (s2.plane n).ring = p.ring.filter (fun x => x != d)) ∧
        (d = s.dev → ∃ s2 : State, exec (.leave n f) s = .next s2 ∧ (s2.plane n).up = false))) ∧
    (p.up = false → d = s.dev → s.devid.getLsbD 12 = true → p.ring.length < 64 → ∃ s2 : State,
      exec (.join n f) s = .next s2 ∧ (s2.plane n).up = true ∧
      (s2.plane n).gseq = f.pos ∧ s.dev ∈ (s2.plane n).ring) ∧
    (exec (.repair n f) s = .next (s.setPlane n { p with
      passed := none, repairs := p.repairs ++ [(f.pos.toNat, f.payload.toNat % 2 ^ 64)] })) ∧
    (p.up = true → p.gseq = f.pos → p.holder = f.ring.toNat →
      let next := f.payload.toNat % 256
      (next ≠ ringIndex p s.dev → ∃ s2 : State, exec (.grant n f) s = .next s2 ∧ (s2.plane n).holder = next ∧
        (s2.plane n).passed = none ∧ s2.outbox = s.outbox) ∧
      (∀ m g, next = ringIndex p s.dev → p.queue = [(m, g)] → p.silent = [] → p.packs = [] → p.repairs = [] → p.gapLast = none →
        2 ≤ p.ring.length → ∃ (s2 : State) (h : PFlit), exec (.grant n f) s = .next s2 ∧ (s2.plane n).queue = [] ∧
          .planeFlit n (flitWord { g with pos := f.pos + 1 }) ∈ s2.outbox ∧ .planeFlit n (flitWord h) ∈ s2.outbox ∧ h.mtype = 2 ∧ h.pos = f.pos + 1 ∧
          h.payload = BitVec.ofNat 512 ((next + 1) % p.ring.length) ∧ (s2.plane n).holder = (next + 1) % p.ring.length)) ∧
    (p.passed = none → exec (.grantTimeout n) s = .next s) ∧
    (∀ last, p.passed = some last → p.up = true → p.resends < 3 → ∃ (s2 : State) (h : PFlit), exec (.grantTimeout n) s = .next s2 ∧
      .planeFlit n (flitWord h) ∈ s2.outbox ∧ h.mtype = 2 ∧ h.payload = BitVec.ofNat 512 p.holder ∧ (s2.plane n).resends = p.resends + 1) ∧
    (p.gapLast = none → exec (.planeStallTimeout n) s = .next s) ∧
    (p.gapLast ≠ none → (s.stack 0).cyc < p.gapSince + planeRemto s n → exec (.planeStallTimeout n) s = .next s) ∧
    (p.gapLast ≠ none → p.up = true → p.gapSince + planeRemto s n ≤ (s.stack 0).cyc →
      ∃ s2 : State, exec (.planeStallTimeout n) s = .next s2 ∧ (s2.plane n).up = false)

/-- R383, R385 to R389: a link carries flits in order. A flit with the next number and sound parity lands at the port tile and every 32nd is
acknowledged, else the acknowledgement waits for its timer; any other flit is discarded and the missing number asked for, and refusals of
one number in a row are counted to eight. An
acknowledgement frees what it covers; a NAK and a replay timeout send again from the number named; IDLE does nothing. A beat period of
a group of eight lanes is a flit, taken when every group has reached the period and kept until then; one of a smaller group adds its
lanes' data; a lane that has failed 16 in a row is erased.
Model's choices: log 125, 126. -/
def Obligations.LinksDeliverFlitsInOrder : Prop :=
  ∀ (s : State) (n : Nat), let l := s.link n
    exec (.idle n) s = .next s ∧
    (∀ k (f : BitVec 656), l.up = false → exec (.linkFlit n k f) s = .next s) ∧
    (∀ k (f : BitVec 656), l.up = true → flitSound f = true → k = l.rxNext → k < 65535 → ∃ s2 : State, exec (.linkFlit n k f) s = .next s2 ∧
      (s2.link n).rxNext = (k + 1) % 65535 ∧ s2.mem = s.mem ∧
      (∃ q ∈ s2.net, q.tok = tokenOfFlit f.toNat ∧ q.at_ = exitAt l.stk (4 + n) ∧ .routeToken q.id ∈ s2.acts) ∧
      (31 ≤ l.rxSince → s2.outbox = s.outbox ++ [.control n 2 k 0 l.rxEpoch]) ∧
      (l.rxSince = 0 → s2.outbox = s.outbox ∧ { stk := l.stk, due := s.cyc l.stk + 75, act := .ackTimer n } ∈ s2.timers)) ∧
    (∀ k (f : BitVec 656), l.up = true → flitSound f = false ∨ k ≠ l.rxNext → ∃ s2 : State, exec (.linkFlit n k f) s = .next s2 ∧
      s2.net = s.net ∧ (s2.link n).rxNext = l.rxNext ∧
      (k ≠ l.rxNext → (s2.link n).rxRefused = l.rxRefused) ∧
      (k = l.rxNext → l.restripe = none → l.nakFrom = none → (s2.link n).rxRefused = if l.rxRefused < 7 then l.rxRefused + 1 else 0) ∧
      (l.rxRefused < 7 → l.restripe = none → l.nakFrom ≠ some l.rxNext → s2.outbox = s.outbox ++ [.control n 3 l.rxNext 0 l.rxEpoch])) ∧
    (l.rxSince = 0 → exec (.ackTimer n) s = .next s) ∧
    (0 < l.rxSince → ∃ s2 : State, exec (.ackTimer n) s = .next s2 ∧ (s2.link n).rxSince = 0 ∧
      s2.outbox = s.outbox ++ [.control n 2 ((l.rxNext + 65534) % 65535) 0 l.rxEpoch]) ∧
    (∀ k, (∀ p ∈ l.replay, p.1 ≠ k) → exec (.ack n k) s = .next s) ∧
    (∀ a k g b, l.replay = a ++ (k, g) :: b → (∀ p ∈ a, p.1 ≠ k) →
      (l.txQueue = [] → ∃ s2 : State, exec (.ack n k) s = .next s2 ∧ (s2.link n).replay = b ∧ s2.outbox = s.outbox) ∧
      (l.txStop = false → ∃ s2 : State, exec (.nak n k) s = .next s2 ∧ s2.link n = l ∧
        s2.outbox = s.outbox ++ ((k, g) :: b).map (fun p => .flit n p.1 p.2) ∧
        { stk := l.stk, due := s.cyc l.stk + 1500, act := .replayTimeout n } ∈ s2.timers)) ∧
    (l.up = false → exec (.replayTimeout n) s = .next s) ∧
    (l.up = true → l.txStop = false → ∃ s2 : State, exec (.replayTimeout n) s = .next s2 ∧ s2.link n = l ∧
      s2.outbox = s.outbox ++ l.replay.map (fun p => .flit n p.1 p.2)) ∧
    (∀ grp beats, (groupsOf l.rxMap)[grp]? = none → exec (.laneBeat n grp beats) s = .next s) ∧
    (∀ grp g, l.up = true → (groupsOf l.rxMap)[grp]? = some g → tabGet (0, 0, 0) l.rxBits grp = (0, 0, 0) → g.length = 8 → l.deskew = [] →
      ∀ bs : List (BitVec 104), bs.length = 8 → (∀ i ∈ g, l.rxErased.getLsbD i = false) → (∀ b ∈ bs, beatSound b = true) →
        let w := laneBeat.wordsOf (bs.dropLast.map (fun b => b.toNat % 2 ^ 96))
        let beats := tabSet l.beatNo grp (tabGet 0 l.beatNo grp + 1)
        w / 2 ^ 656 < 65535 → ∃ bits crc, tabGet (0, 0, 0) bits grp = (0, 0, 0) ∧ (∀ i ∈ g, tabGet 0 crc i = 0) ∧
          ((∀ j < (groupsOf l.rxMap).length, j ≠ grp → tabGet 0 l.beatNo grp < tabGet 0 l.beatNo j) →
            exec (.laneBeat n grp (bs.map some)) s =
              exec (.linkFlit n (w / 2 ^ 656) (BitVec.ofNat 656 w)) (s.setLink n { l with rxBits := bits, crc := crc, beatNo := beats })) ∧
          (∀ j < (groupsOf l.rxMap).length, j ≠ grp → tabGet 0 l.beatNo j ≤ tabGet 0 l.beatNo grp →
            exec (.laneBeat n grp (bs.map some)) s = .next (s.setLink n { l with
              rxBits := bits, crc := crc, beatNo := beats, deskew := [(tabGet 0 l.beatNo grp + 1, some w)] }))) ∧
    (∀ grp g, l.up = true → (groupsOf l.rxMap)[grp]? = some g → l.deskew = [] → let e := tabGet (0, 0, 0) l.rxBits grp
      e.1 + 96 * (g.length - 1) < 672 →
      (∀ bs : List (BitVec 104), bs.length = g.length → (∀ i ∈ g, l.rxErased.getLsbD i = false) → (∀ b ∈ bs, beatSound b = true) →
        ∃ s2 : State, exec (.laneBeat n grp (bs.map some)) s = .next s2 ∧ s2.net = s.net ∧ s2.outbox = s.outbox ∧
          tabGet (0, 0, 0) (s2.link n).rxBits grp = (e.1 + 96 * (g.length - 1),
            e.2.1 + laneBeat.wordsOf (bs.dropLast.map (fun b => b.toNat % 2 ^ 96)) * 2 ^ e.1, e.2.2)) ∧
      (∀ i r b, g = i :: r → i ∉ r → i < 16 → (∀ j ∈ r, tabGet 0 l.crc j < 16) → beatSound b = false → 15 ≤ tabGet 0 l.crc i →
        l.rxErased.getLsbD i = false → l.rxMap.getLsbD i = true → l.restripe = none →
        twoLost l.rxMap (l.rxErased ||| BitVec.ofNat 16 (2 ^ i)) = false →
        ∃ s2 : State, exec (.laneBeat n grp (some b :: r.map (fun _ => none))) s = .next s2 ∧
          (s2.link n).rxErased = l.rxErased ||| BitVec.ofNat 16 (2 ^ i) ∧
          s2.outbox = s.outbox ++ [.control n 4 0 ((l.rxErased ||| BitVec.ofNat 16 (2 ^ i)) &&& l.rxMap) l.rxEpoch]))

/-- R389 to R392, R395, R410, R411, R421: lanes go and come. A lost lane is reported to the sender; one of a group is filled by parity,
two start a restripe on the lanes left, fewer than two take the direction down. The sender stops, answers the map and starts again at
the receiver's NAK, which follows 1.80 µs after the erasure; a map unanswered for 2 µs takes the link down. Parking, unparking and
recovery propose maps of their own, taken up at the flit that the answer names. A second lost lane of a plane's receiver, or of its
transmitter, makes the member leave. Training brings a link up on all its lanes,
and leaves it down where both ends have one number.
Model's choices: log 123, 127, 128, 129, 130. -/
def Obligations.LanesAreLostMappedAndTrained : Prop :=
  ∀ (s : State) (n : Nat) (lanes : BitVec 16), let l := s.link n
    let c := s.cyc l.stk
    (n < 2 ^ 15 → l.up = true → let new := lanes &&& l.rxMap &&& ~~~l.rxErased
      let er := l.rxErased ||| new
      let m := l.rxMap &&& ~~~er &&& ~~~l.rxParked
      (new = 0 → exec (.lossOfLight n lanes) s = .next s) ∧
      (new ≠ 0 → l.restripe = none → twoLost l.rxMap er = false ∨ 2 ≤ laneCount m → ∃ s2 : State,
        exec (.lossOfLight n lanes) s = .next s2 ∧ (s2.link n).rxErased = er ∧
        .control n 4 0 (er &&& l.rxMap) l.rxEpoch ∈ s2.outbox ∧
        (twoLost l.rxMap er = false → (s2.link n).restripe = none ∧ (s2.link n).up = true) ∧
        (twoLost l.rxMap er = true → (s2.link n).restripe = some (c, m, false) ∧ .control n 5 0 m (l.rxEpoch + 1) ∈ s2.outbox)) ∧
      (new ≠ 0 → l.restripe = none → twoLost l.rxMap er = true → laneCount m < 2 → (∀ r ∈ s.remote, r.due = 0) → ∃ s2 : State,
        exec (.lossOfLight n lanes) s = .next s2 ∧ (s2.link n).up = false)) ∧
    (∀ k < 8, (s.plane k).up = true →
      (laneCount (BitVec.ofNat 16 (lanes.toNat % 256)) = 2 →
        ((s.plane k).lanesLost = 0 → ∃ s2 : State, exec (.lossOfLight (2 ^ 15 + k) lanes) s = .next s2 ∧ (s2.plane k).up = false) ∧
        ((s.plane k).txLost = 0 → ∃ s2 : State, exec (.lossOfLight (2 ^ 15 + 2 ^ 14 + k) lanes) s = .next s2 ∧ (s2.plane k).up = false)) ∧
      (laneCount (BitVec.ofNat 16 (lanes.toNat % 256)) = 1 → (s.plane k).txLost = 0 → ∃ s2 : State,
        exec (.lossOfLight (2 ^ 15 + 2 ^ 14 + k) lanes) s = .next s2 ∧ (s2.plane k).up = true)) ∧
    (l.up = false → exec (.loss n lanes) s = .next s) ∧
    (l.up = true → 2 ≤ laneCount (l.txMap &&& ~~~lanes) → ∃ s2 : State, exec (.loss n lanes) s = .next s2 ∧
      (s2.link n).txStop = (l.txStop || twoLost l.txMap lanes) ∧ (s2.link n).up = true ∧ s2.outbox = s.outbox) ∧
    (l.up = true → laneCount (l.txMap &&& ~~~lanes) < 2 → (∀ r ∈ s.remote, r.due = 0) → ∃ s2 : State, exec (.loss n lanes) s = .next s2 ∧
      (s2.link n).up = false) ∧
    (exec (.map n lanes l.txEpoch) s = .next s) ∧
    (∀ e, e ≠ l.txEpoch → ∃ s2 : State, exec (.map n lanes e) s = .next s2 ∧ (s2.link n).txMap = lanes ∧ (s2.link n).txStop = true ∧
      s2.outbox = s.outbox ++ [.control n 6 l.txNext lanes e]) ∧
    (∀ k lost a g b, l.txStop = true → l.mapped = true → l.txLoss = some lost → l.txQueue = [] → l.replay = a ++ (k, g) :: b → (∀ p ∈ a, p.1 ≠ k) →
      ∃ s2 : State, exec (.nak n k) s = .next s2 ∧ (s2.link n).txStop = false ∧ s2.outbox = s.outbox ++ ((k, g) :: b).map (fun p => .flit n p.1 p.2)) ∧
    (l.restripe = none → (∀ k e, exec (.mapack n lanes ⟨e, k⟩) s = .next s) ∧ exec (.linkDown n) s = .next s ∧
      (l.txStop = false → exec (.restripeResume n) s = .next s)) ∧
    (∀ c0 k, l.restripe = some (c0, lanes, false) →
      (l.planned = none → c < c0 + 2700 → exec (.mapack n lanes ⟨l.rxEpoch, k⟩) s =
        .next (s.setLink n { l with restripe := some (c0, lanes, true) })) ∧
      (l.planned = none → c0 + 2700 ≤ c → ∃ s2 : State, exec (.mapack n lanes ⟨l.rxEpoch, k⟩) s = .next s2 ∧ (s2.link n).rxMap = lanes ∧
        (s2.link n).restripe = none ∧ .control n 3 l.rxNext 0 l.rxEpoch ∈ s2.outbox) ∧
      (l.planned ≠ none → ahead l.rxNext k < 32768 → ∃ s2 : State, exec (.mapack n lanes ⟨l.rxEpoch, k⟩) s = .next s2 ∧ (s2.link n).rxMap = lanes ∧
        (s2.link n).restripe = none ∧ (s2.link n).up = true) ∧
      (l.planned ≠ none → 32768 ≤ ahead l.rxNext k → exec (.mapack n lanes ⟨l.rxEpoch, k⟩) s =
        .next (s.setLink n { l with restripe := some (c0, lanes, true), mapAt := k })) ∧
      (l.up = true → c0 + 3000 ≤ c → (∀ r ∈ s.remote, r.due = 0) → ∃ s2 : State, exec (.linkDown n) s = .next s2 ∧ (s2.link n).up = false)) ∧
    (∀ c0, l.restripe = some (c0, lanes, true) → l.planned = none → l.txStop = false → c0 + 2700 ≤ c → ∃ s2 : State,
      exec (.restripeResume n) s = .next s2 ∧ (s2.link n).rxMap = lanes ∧ (s2.link n).restripe = none ∧
        .control n 3 l.rxNext 0 l.rxEpoch ∈ s2.outbox) ∧
    (l.restripe = none → l.txStop = true → l.txLoss = none → l.txQueue = [] → exec (.restripeResume n) s =
      .next (s.setLink n { l with txStop := false, mapped := false })) ∧
    (l.up = true → l.restripe = none →
      (let m := liveLanes l l.rxMap &&& ~~~lanes;
        (lanes &&& l.rxMap = 0 ∨ mapUsable m = false → exec (.lanePark n lanes) s = .next s) ∧
        (lanes &&& l.rxMap ≠ 0 → mapUsable m = true → ∃ s2 : State, exec (.lanePark n lanes) s = .next s2 ∧
          s2.outbox = s.outbox ++ [.control n 5 0 m (l.rxEpoch + 1)] ∧ (s2.link n).rxParked = l.rxParked ||| (lanes &&& l.rxMap) ∧
          (s2.link n).rxMap = l.rxMap)) ∧
      (let back := lanes &&& l.rxParked;
        (back = 0 → exec (.laneUnpark n lanes) s = .next s) ∧
        (back ≠ 0 → ∃ s2 : State, exec (.laneUnpark n lanes) s = .next s2 ∧
          s2.outbox = s.outbox ++ [.control n 5 0 ((l.rxMap ||| back) &&& ~~~l.rxErased &&& ~~~(l.rxParked &&& ~~~back)) (l.rxEpoch + 1)] ∧
          (s2.link n).rxParked = l.rxParked &&& ~~~back)) ∧
      (let back := lanes &&& l.rxErased;
        let m := (l.rxMap ||| back) &&& ~~~(l.rxErased &&& ~~~back) &&& ~~~l.rxParked;
        n < 2 ^ 15 → l.trained = true →
          (back = 0 → exec (.laneRecovery n lanes) s = .next s) ∧
          (back ≠ 0 → m ≠ l.rxMap → 2 ≤ laneCount m → ∃ s2 : State, exec (.laneRecovery n lanes) s = .next s2 ∧
            s2.outbox = s.outbox ++ [.control n 5 0 m (l.rxEpoch + 1)] ∧ (s2.link n).rxErased = l.rxErased &&& ~~~back))) ∧
    (∀ peer, s.devid.getLsbD 12 = true → s.boot = .running →
      (linkExists n = false → exec (.linkTraining false n peer) s = .next s) ∧
      (linkExists n = true → peer ≠ s.dev → l.up = false → ∃ s2 : State, exec (.linkTraining false n peer) s = .next s2 ∧ (s2.link n).up = true ∧
        (s2.link n).peer = peer ∧ ((s2.link n).rxMap = 0xFFFF#16 ∨ (s2.link n).rxMap = 0x00FF#16) ∧ (s2.link n).txMap = (s2.link n).rxMap ∧
        ∀ k < 4, (tabFind (s2.stack k).routes peer).isSome = true) ∧
      (peer = s.dev → ∃ s2 : State, exec (.linkTraining false n peer) s = .next s2 ∧ s2.links = s.links ∧ s2.outbox = s.outbox)) ∧
    (∀ p peer, s.devid.getLsbD 12 = false → exec (.linkTraining p n peer) s = .next s)

/-- R396 to R400, R417, R418: vertical buses, scrub, power and temperature. A retest sets the SBT entry of the bus from the lines that
fail, with a VBEV record when it changes. A stack's temperature is held to its limits: above TEMPLIM one cycle in sixteen until it is
5 °C below, at 105 °C the thermal stop of every user tile; a bus out of its window asks for a retest. A scrub counts a corrected error,
and records an uncorrectable one. A power window sets the issue fraction of the next.
Model's choices: log 134, 135, 136. -/
def Obligations.BusesTemperatureScrubAndPower : Prop :=
  ∀ (s : State) (k : Nat),
    (∀ b (bad : List Nat), b < 128 → let x := tabGet {} s.buses (k * 128 + b)
      let l := (bad.filter (fun i => decide (i < 576))).eraseDups
      let lo := (l.filter (fun i => decide (i < 280))).length
      let hi := (l.filter (fun i => decide (280 ≤ i) && decide (i < 560))).length
      let av := 16 - (l.filter (fun i => decide (560 ≤ i))).length
      let v : BitVec 32 := BitVec.ofNat 32 (
        if lo + hi = 0 then l.length
        else if lo + hi ≤ av then 2 ^ 30 + (lo + hi) * 2 ^ 16 + l.length
        else if lo ≤ av then 2 ^ 31 + lo * 2 ^ 16 + l.length
        else if hi ≤ av then 2 ^ 31 + 2 ^ 28 + hi * 2 ^ 16 + l.length
        else 2 ^ 31 + 2 ^ 30 + l.length)
      (∀ i ∈ [Instr.vbRetest k b bad, .vbRetestForced k b bad], i = .vbRetest k b bad ∨ x.sbt.getLsbD 29 = true →
        ∃ s2 : State, exec i s = .next s2 ∧ s2.mem = s.mem ∧ (tabGet {} s2.buses (k * 128 + b)).sbt = v ∧
          (tabGet {} s2.buses (k * 128 + b)).temp = (s.stack k).temp ∧
          (∀ j, j ≠ k * 128 + b → tabGet {} s2.buses j = tabGet {} s.buses j) ∧
          s2.mgq.waiting.length = s.mgq.waiting.length + (if x.sbt = v then 0 else 1)) ∧
      (x.sbt.getLsbD 29 = false → exec (.vbRetestForced k b bad) s = .next s)) ∧
    (∀ temp, k < 4 → ∀ i ∈ [Instr.temperatureSwing k temp, .thermalStop k temp, .templimExceeded k temp, .templimRecovered k temp],
      ∃ s2 : State, exec i s = .next s2 ∧ s2.mem = s.mem ∧ (s2.stack k).temp = temp ∧
        (s.templim.toNat < temp → (s2.stack k).hot = true) ∧ (temp + 5 ≤ s.templim.toNat → (s2.stack k).hot = false) ∧
        (temp ≤ s.templim.toNat → s.templim.toNat < temp + 5 → (s2.stack k).hot = (s.stack k).hot) ∧
        (∀ j, j ≠ k → (s2.stack j).hot = (s.stack j).hot) ∧
        (temp < 105 → s2.trip = s.trip) ∧
        (105 ≤ temp → s2.trip = true ∧ (s.trip = false → ∀ x < 16, ∀ y < 16, (s2.tile { stk := k, x := x + 1, y := y }).dbg.halt = true)) ∧
        (∀ b < 128, let x := tabGet {} s.buses (k * 128 + b)
          (tabGet {} s2.buses (k * 128 + b)).sbt =
            if temp ≤ x.temp + (s.stack k).tempwin.toNat ∧ x.temp ≤ temp + (s.stack k).tempwin.toNat then x.sbt else x.sbt ||| 0x20000000#32)) ∧
    (∀ unit addr, let c := tabGet 0 s.ecc unit
      (exec (.scrub unit k addr true) s = .next { s with ecc := tabSet s.ecc unit (if c = BitVec.allOnes 32 then c else c + 1) }) ∧
      (∃ s2 : State, exec (.scrub unit k addr false) s = .next s2 ∧ s2.mem = s.mem ∧ s2.ecc = s.ecc ∧
        s2.mgq.waiting.length = s.mgq.waiting.length + 1 ∧ ∃ p, s2.errs = s.errs ++ [{ unit := unit, place := p }])) ∧
    (∀ e, let cap := s.powercap.toNat
      let n := Nat.max 1 (s.issueK * cap / e)
      ∃ s2 : State, exec (.powerWindow e) s = .next s2 ∧ s2.mem = s.mem ∧
        (cap < e → s2.issueK = if n = s.issueK ∧ 1 < s.issueK then s.issueK - 1 else n) ∧
        (e ≤ cap → 9 * cap ≤ 10 * e → s2.issueK = s.issueK) ∧
        (10 * e < 9 * cap → s2.issueK = Nat.min 16 (s.issueK + 1)))

/-- R3, R346, R412, R413, R415, R416, R421: power-up and a module reset clear the machine, test the buses and open the boot endpoint; power-down
turns it off. A firmware bundle is refused before its time, refused as busy while another is checked, and else checked: refused with the
number of the failed check, or taken, and the machine runs with its version. Then a device number may be written, once, and the machine attests itself.
R297, R331, R416: the host's memory operations. A context whose endpoint is not open refuses them, one of no bytes completes at once,
LOWN 63 ends in an error; else the range is registered, its bytes are written or read, and the completion follows. An unsupported kind
changes nothing and answers with an error.
Model's choices: log 138, 139, 141. -/
def Obligations.BringUpIdentityAndHostOperations : Prop :=
  (∀ (s : State),
      (∀ i ∈ [Instr.powerUp, .moduleReset], ∃ s2 : State, exec i s = .next s2 ∧ s2.boot = .boot ∧ s2.mem = [] ∧ s2.devid = 0 ∧ s2.insts = [] ∧
        s2.launches = [] ∧ s2.ctxs = [] ∧ s2.parts = [] ∧ s2.outbox = s.outbox ∧
        s2.wasReset = (s.wasReset || decide (i = .moduleReset)) ∧
        ∀ k < 4, (s2.stack k).cyc = 0 ∧ tabGet 0 s2.defects k = Config.fusedDefects k ∧
          ∀ b < 128, (tabGet {} s2.buses (k * 128 + b)).sbt = BitVec.ofNat 32 (sbtEntry (Config.busTest (k * 128 + b) s.tick))) ∧
      (∃ s2 : State, exec .powerDown s = .next s2 ∧ s2.boot = .off ∧ s2.mem = [] ∧ s2.devid = 0 ∧ s2.insts = [] ∧ s2.launches = [] ∧ s2.acts = [] ∧
        s2.timers = []) ∧
      (∀ b, s.boot ≠ .boot → exec (.firmwareBundle b) s = .next { s with outbox := s.outbox ++ [.host 1024 1 []] }) ∧
      (∀ b, s.boot = .boot →
        (s.bundle = none → ∃ s2 : State, exec (.firmwareBundle b) s = .next s2 ∧ s2.bundle = some b ∧ .bundleCheck ∈ s2.acts ∧ s2.outbox = s.outbox) ∧
        (s.bundle ≠ none → exec (.firmwareBundle b) s = .next { s with outbox := s.outbox ++ [.host 1024 5 (bytesOf 16 6)] })) ∧
      (∀ b, s.boot = .boot → s.bundle = none → let s2 := bundleCheck { s with bundle := some b }
        (leField b 0 4 ≠ 0x57465742 ∨ b.length < leField b 8 4 → s2 = { s with outbox := s.outbox ++ [.host 1024 5 (bytesOf 16 1)] }) ∧
        match checkBundle s b with
        | .error n => s2 = { s with outbox := s.outbox ++ [.host 1024 5 (bytesOf 16 n)] }
        | .ok _ => s2.boot = .running ∧ s2.fwver = BitVec.ofNat 32 (leField b 4 4) ∧ Config.fwMin ≤ leField b 4 4 ∧
            sha512 ((b.drop 0x50).take 516) = Config.fusedDigest ∧ s2.bundleHash = sha512 (b.take (leField b 8 4)) ∧ s2.mem = s.mem ∧
            ∀ x ∈ s.mgq.ring, .mgmt x ∈ s2.outbox) ∧
      (∀ nonce, s.boot = .running → ∃ r, exec (.attestationRequest nonce) s = .next { s with outbox := s.outbox ++ [.mgmt r] } ∧
        leField r 0 4 = 0x41545452 ∧ leField r 4 4 = s.fwver.toNat ∧ leField r 8 8 = Config.serial.toNat ∧ leField r 0x94 32 = nonce.toNat ∧
        r.length = 1024 + Config.identityKey.length) ∧
      (∀ v, s.boot = .running →
        (s.devid.getLsbD 12 = false → exec (.devid v) s = .next { s with devid := 0x1000#13 ||| (v.extractLsb' 0 12).setWidth 13 }) ∧
        (s.devid.getLsbD 12 = true → exec (.devid v) s = .next s)) ∧
      (∀ nonce v, s.boot ≠ .running → ∀ i ∈ [Instr.attestationRequest nonce, .devid v],
        exec i s = .next { s with outbox := s.outbox ++ [.host 1024 1 []] })) ∧
  (∀ (s : State) (ctx : Nat) (va : Word) (b : List Byte) (n : Nat),
      (∀ kind, exec (.hostUnsupported kind) s =
        .next { s with outbox := s.outbox ++ [.host 1024 (if s.boot = .running then 4 else 1) []] }) ∧
      (endpointOpen s ctx = false → ∀ i ∈ [Instr.hostRmaWrite ctx va b, .hostRmaRead ctx va n],
        exec i s = .next { s with outbox := s.outbox ++ [.host ctx 1 []] }) ∧
      (endpointOpen s ctx = true → ∀ i ∈ [Instr.hostRmaWrite ctx va [], .hostRmaRead ctx va 0],
        exec i s = .next { s with outbox := s.outbox ++ [.host ctx 3 []] }) ∧
      (endpointOpen s ctx = true → va.extractLsb' 50 6 = 63#6 → b ≠ [] → n ≠ 0 → ∀ i ∈ [Instr.hostRmaWrite ctx va b, .hostRmaRead ctx va n],
        ∃ s2 : State, exec i s = .next s2 ∧ s2.mem = s.mem ∧ s2.outbox = s.outbox ++ [.host ctx 4 []]) ∧
      (∀ (w : Bool) (k : Nat) (r : Reg) (uses : List XPage) (p : XPage), endpointOpen s ctx = true → va.extractLsb' 50 6 ≠ 63#6 →
        let len := if w then b.length else n
        let h : HostOp := { op := s.nextId, ctx := ctx, w := w, va := va.toNat, data := if w then b else [], n := len, regs := [] }
        let s0 : State := { s with nextId := s.nextId + 2 }
        0 < len → va.toNat % 128 + len ≤ 128 → (∀ h ∈ s.hostOps, h.op ≠ s.nextId) → (∀ q ∈ s.remote, q.who ≠ .host s.nextId) →
        claim s0 (h.access va.toNat) (.host ctx) true (s.nextId + 1) [{ base := va.toNat, rowb := len, pitch := 0, rows := 1 }]
          (engineInfo 4 va.toNat) = .ok (.here k r uses) →
        firstConflict s0 k r = none → regsFit s0 [(k, r)] = true →
        let s1 : State := { enterRegs s0 [(k, r)] uses with hostOps := s.hostOps ++ [{ h with regs := [(k, s.nextId + 1)] }] }
        locate s1 (h.access va.toNat) = .ok (.here p) → p.leaf = none → p.key % 128 = va.toNat % 128 →
        busFailed s1 (p.key / 128 * 128) = false → Memory.wf s1.mem = true →
        (w = true → ∃ s2 : State, exec (.hostRmaWrite ctx va b) s = .next s2 ∧ .host ctx 3 [] ∈ s2.outbox ∧ s2.hostOps = s.hostOps ∧
          (∀ i < len, s2.byte (p.key + i) = b.getD i 0) ∧ (∀ a, a < p.key ∨ p.key + len ≤ a → s2.byte a = s1.byte a)) ∧
        (w = false → lineSound s1 p.key = .ok () → ∃ s2 : State, exec (.hostRmaRead ctx va n) s = .next s2 ∧ s2.mem = s1.mem ∧ s2.hostOps = s.hostOps ∧
          .host ctx 3 ((List.range len).map (fun i => s1.byte (p.key + i))) ∈ s2.outbox)))


/-- R117, R272, R286, R332, R350, R380, R401, R407, R417 to R420: writes of the management registers, by name and by address, and records
written to their queues. What may not be written keeps its value: SIZE of an enabled queue or one that is no power of two in range, a
CAP, SWING, REMTO or WDLOG out of range, an OMAP entry 63, a PSPLIT above 16, a binding on a plane that is not the partition's.
Model's choices: log 112, 67. -/
def Obligations.ManagementWritesAndRecords : Prop :=
  ∀ (s : State) (v : Word),
    (∀ q, let x := s.queue q
      let n := (v.extractLsb' 8 24).toNat
      let ok := fun (m : Nat) => decide (16 ≤ m ∧ m ≤ 2 ^ 20 ∧ m = 2 ^ m.log2)
      let size := if x.en = false ∧ ok n = true then v.extractLsb' 8 24 else x.size
      (q ≠ .mg → ∃ s2 : State, exec (.queueCtlWrite q v) s = .next s2 ∧ s2.mem = s.mem ∧
        s2.queue q = { x with size := size, en := v.getLsbD 0 && ok size.toNat } ∧ (x.waiting ≠ [] → .recordPost q ∈ s2.acts)) ∧
      (∃ s2 : State, exec (.queueCtlWrite .mg v) s = .next s2 ∧
        (s.mgq.en = false → ok n = true → s2.mgq.size = v.extractLsb' 8 24 ∧ s2.mgq.en = v.getLsbD 0) ∧
        (s.mgq.en = false → ok n = false → s2.mgq.size = s.mgq.size) ∧ (s.mgq.en = true → s2.mgq.size = s.mgq.size)) ∧
      (∃ s2 : State, exec (.queueTailWrite q v) s = .next s2 ∧ s2.mem = s.mem ∧ (x.waiting ≠ [] → .recordPost q ∈ s2.acts) ∧
        s2.queue q = { x with tail := v.setWidth 32, ring := x.ring.drop (v.setWidth 32 - x.tail).toNat }) ∧
      (x.waiting = [] → exec (.recordPost q) s = .next s) ∧
      (x.en = true → x.size.toNat ≤ (x.head - x.tail).toNat → exec (.recordPost q) s = .next s) ∧
      (x.en = false → q ≠ .mg → exec (.recordPost q) s = .next s)) ∧
    (∀ p k b r, let x := s.queue (.hv p k)
      let a := k * 2 ^ 49 + (x.base.toNat / 64 * 64 + 64 * (x.head.toNat % x.size.toNat)) % 2 ^ 49
      x.en = true → x.sent = none → (x.head - x.tail).toNat < x.size.toNat → x.waiting = b :: r → b.length = 64 →
      busFailed s (a / 128 * 128) = false →
      Memory.wf s.mem = true → ∃ s2 : State, exec (.recordPost (.hv p k)) s = .next s2 ∧ (∀ i < 64, s2.byte (a + i) = b.getD i 0) ∧
        (∀ j, j < a ∨ a + 64 ≤ j → s2.byte j = s.byte j) ∧ s2.queue (.hv p k) = { x with waiting := r, head := x.head + 1, stalled := false }) ∧
    (∀ b r, s.mgq.en = false → s.mgq.ring.length < 256 → s.mgq.waiting = b :: r → ∃ s2 : State, exec (.recordPost .mg) s = .next s2 ∧
      s2.mem = s.mem ∧ s2.mgq = { s.mgq with ring := s.mgq.ring ++ [b], waiting := r, head := s.mgq.head + 1 } ∧
      s2.outbox = s.outbox ++ (if s.boot = .running then [.mgmt b] else [])) ∧
    (∀ part stk replay, let r := s.log part stk replay
      let n := (v.extractLsb' 8 24).toNat
      ∃ s2 : State, exec (.logCtlWrite part stk replay v) s = .next s2 ∧ s2.mem = s.mem ∧
        (s2.log part stk replay).ovf = (r.ovf && !v.getLsbD 1) ∧ (s2.log part stk replay).head = r.head ∧
        (16 ≤ n → n ≤ 2 ^ 23 → n = 2 ^ n.log2 → (s2.log part stk replay).size = v.extractLsb' 8 24 ∧
          (s2.log part stk replay).en = v.getLsbD 0) ∧
        (s2.log part stk (!replay)) = s.log part stk (!replay)) ∧
    (∀ c n (w : BitVec 32), (n < 63 → tabWf 0 (s.ctx c).omap = true → ∃ s2 : State, exec (.omapWrite c n w) s = .next s2 ∧
        ∀ j, s2.omapEntry c j = if j = n then (w &&& 0x8FFFC3FF#32).toNat else s.omapEntry c j) ∧
      (63 ≤ n → exec (.omapWrite c n w) s = .next s)) ∧
    (∀ c, (v.toNat % 32 ≤ 16 → exec (.psplitWrite c v) s = .next (s.setCtx c { s.ctx c with psplit := v.extractLsb' 0 5 })) ∧
      (16 < v.toNat % 32 → exec (.psplitWrite c v) s = .next s)) ∧
    (∀ t n, (tabFind (s.tile t).so n = none → exec (.soflgClear t n) s = .next s) ∧
      (∀ x, tabFind (s.tile t).so n = some x → exec (.soflgClear t n) s =
        .next (s.setTile t { s.tile t with so := tabSet (s.tile t).so n { x with flg := { ix := 0, uf := 0, ov := 0, iv := 0 } } }))) ∧
    (∀ c n, let w := v &&& 0x80FF007FFFFFFFFF#64
      (v.getLsbD 63 = true → (s.ctx c).part = none ∨ (s.part (s.partOfCtx c)).planes.getLsbD n = false →
        exec (.bindingWrite c n v) s = .next s) ∧
      (v.getLsbD 63 = false ∨ ((s.ctx c).part.isSome = true ∧ (s.part (s.partOfCtx c)).planes.getLsbD n = true) →
        tabWf 0 (s.ctx c).binds = true → (∃ s2 : State, exec (.bindingWrite c n v) s = .next s2 ∧ s2.binding c n = w.toNat ∧ s2.mem = s.mem ∧
          ((s.plane n).up = false → s2.planes = s.planes) ∧
          ((s.plane n).up = true → 2 ≤ (s.plane n).ring.length →
            (v.getLsbD 63 = bindV (s.binding c n) → bindGid w.toNat = bindGid (s.binding c n) → s2.planes = s.planes) ∧
            (v.getLsbD 63 ≠ bindV (s.binding c n) ∨ bindGid w.toNat ≠ bindGid (s.binding c n) → ∃ g : PFlit,
              (s2.plane n).queue = (s.plane n).queue ++ [((s.plane n).nextMsg, g)] ∧ g.mtype = 8 ∧ g.gid.toNat = bindGid w.toNat ∧
              g.payload.getLsbD 0 = v.getLsbD 63 ∧ g.payload.getLsbD 15 = true ∧ g.payload.getLsbD 8 = bindV (s.binding c n) ∧
              (g.payload.extractLsb' 16 8).toNat = bindGid (s.binding c n)))))) ∧
    (mregOf (v.toNat % 2 ^ 32) = none → ∀ w, exec (.registerWrite (v.toNat % 2 ^ 32) w) s = .next s) ∧
    (∀ w, let wr := fun a => exec (.registerWrite a w) s
      wr 0 = .next (if 500 ≤ w.toNat % 4096 ∧ w.toNat % 4096 ≤ 3000 then { s with powercap := w.extractLsb' 0 12 } else s) ∧
      (s.boot = .running → wr 0x38 = exec (.devid w) s) ∧ wr 0x48 = exec (.queueCtlWrite .mg w) s ∧ wr 0x50 = exec (.queueTailWrite .mg w) s ∧
      (∀ k < 4, (w.toNat % 256 = 0 → wr (0x10 + 8 * k) = .next s) ∧
        (w.toNat % 256 ≠ 0 → ∃ s2 : State, wr (0x10 + 8 * k) = .next s2 ∧ (s2.stack k).tempwin = w.extractLsb' 0 8 ∧ s2.mem = s.mem ∧
          ∀ b < 128, let y := tabGet {} s.buses (k * 128 + b)
            (tabGet {} s2.buses (k * 128 + b)).sbt =
              if (s.stack k).temp ≤ y.temp + w.toNat % 256 ∧ y.temp ≤ (s.stack k).temp + w.toNat % 256 then y.sbt else y.sbt ||| 0x20000000#32) ∧
        wr (0x1000800 + 0x10000 * k) = exec (.mtlbinv k w) s ∧ (∀ b < 128, wr (0x1000000 + 0x10000 * k + 8 * b) = .next s) ∧
        ∀ p < 16, let o := 0x2000000 + 0x1000 * p + 0x100 * k
          wr o = .next (s.setPart p { s.part p with s2root := tabPut 0 (s.part p).s2root k (w &&& 0x0001FFFFFFFF0001#64) }) ∧
          wr (o + 0x20) = exec (.logCtlWrite p k false w) s ∧ wr (o + 0x38) = exec (.logCtlWrite p k true w) s ∧
          wr (o + 0xD0) = exec (.queueCtlWrite (.hv p k) w) s ∧ wr (o + 0xD8) = exec (.queueTailWrite (.hv p k) w) s) ∧
      (∀ p < 16, let x := s.part p
        wr (0x2000800 + 0x1000 * p) = .next (s.setPart p { x with
          remto := if 1500 ≤ (w.extractLsb' 32 32).toNat then w.extractLsb' 32 32 else x.remto
          wdlog := if 10 ≤ (w.extractLsb' 0 5).toNat then w.extractLsb' 0 5 else x.wdlog })) ∧
      (∀ k < 4, ∀ x < 17, ∀ y < 16, ∀ n < 16, wr (0x6000000 + 0x10000 * k + 0x800 * x + 0x80 * y + 8 * n) =
        exec (.soflgClear { stk := k, x := x, y := y } n) s) ∧
      (∀ c < 1024, let o := 0x10000000 + 0x1000 * c
        wr o = exec (.psplitWrite c w) s ∧ (∀ n < 64, wr (o + 0x100 + 4 * n) = exec (.omapWrite c n (w.setWidth 32)) s) ∧
        (∀ n < 8, wr (o + 0x300 + 8 * n) = exec (.bindingWrite c n w) s) ∧
        wr (o + 0x408) = exec (.queueCtlWrite (.ev c) w) s ∧ wr (o + 0x410) = exec (.queueTailWrite (.ev c) w) s))
end

