-- ==== Sys2Proof/Laws/Tab.lean ====
section
/-! SUPPORT. The sparse table: reads after writes, and that every write keeps the canonical form. -/

namespace Sys2Proof

variable {α : Type}

@[simp] theorem tabGet_nil (d : α) (k : Nat) : tabGet d [] k = d := rfl
@[simp] theorem tabFind_nil (k : Nat) : tabFind ([] : Tab α) k = none := rfl

/-- A read is the default where the table lists nothing. -/
theorem tabGet_eq_tabFind (d : α) (t : Tab α) (k : Nat) : tabGet d t k = (tabFind t k).getD d := by
  induction t with
  | nil => rfl
  | cons p r ih =>
    simp only [tabGet, tabFind]
    split
    · rfl
    · split <;> simp_all

@[simp] theorem tabFind_tabSet_self (t : Tab α) (k : Nat) (v : α) : tabFind (tabSet t k v) k = some v := by
  induction t with
  | nil => simp [tabSet, tabFind]
  | cons p r ih =>
    simp only [tabSet]
    split
    · simp [tabFind]
    · split
      · simp [tabFind]
      · rename_i h1 h2; simp [tabFind, h1, h2, ih]

/-- Keys of a table lie at or above a bound. -/
theorem tabFind_below {n k : Nat} (t : Tab α) (h : tabAbove n t = true) (hk : k < n) : tabFind t k = none := by
  cases t with
  | nil => rfl
  | cons p r =>
    simp only [tabAbove, Bool.and_eq_true, decide_eq_true_eq] at h
    simp only [tabFind]
    rw [if_pos (by omega)]

theorem tabFind_tabSet_ne (t : Tab α) {k j : Nat} (v : α) (h : j ≠ k) : tabFind (tabSet t k v) j = tabFind t j := by
  induction t with
  | nil =>
    simp only [tabSet, tabFind]
    split
    · rfl
    · simp [h]
  | cons p r ih =>
    simp only [tabSet]
    split
    · simp only [tabFind]
      split
      · rw [if_pos (by omega)]
      · simp [h]
    · split
      · rename_i h1 h2
        subst h2
        simp [tabFind, h]
      · simp only [tabFind, ih]

theorem tabGet_tabSet (d : α) (t : Tab α) (k j : Nat) (v : α) :
    tabGet d (tabSet t k v) j = if j = k then v else tabGet d t j := by
  by_cases h : j = k
  · simp [h, tabGet_eq_tabFind]
  · simp [h, tabGet_eq_tabFind, tabFind_tabSet_ne t v h]

@[simp] theorem tabGet_tabSet_self (d : α) (t : Tab α) (k : Nat) (v : α) : tabGet d (tabSet t k v) k = v := by
  simp [tabGet_tabSet]

theorem tabAbove_mono {m n : Nat} {t : Tab α} (h : tabAbove n t = true) (hm : m ≤ n) : tabAbove m t = true := by
  cases t with
  | nil => rfl
  | cons p r =>
    simp only [tabAbove, Bool.and_eq_true, decide_eq_true_eq] at h ⊢
    exact ⟨by omega, h.2⟩

theorem tabAbove_tabSet {n k : Nat} {t : Tab α} (v : α) (h : tabAbove n t = true) (hk : n ≤ k) :
    tabAbove n (tabSet t k v) = true := by
  induction t generalizing n with
  | nil => simp [tabSet, tabAbove, hk]
  | cons p r ih =>
    simp only [tabAbove, Bool.and_eq_true, decide_eq_true_eq] at h
    simp only [tabSet]
    split
    · simp only [tabAbove, Bool.and_eq_true, decide_eq_true_eq]
      exact ⟨hk, by omega, h.2⟩
    · split
      · rename_i h2
        subst h2
        simp only [tabAbove, Bool.and_eq_true, decide_eq_true_eq]
        exact ⟨hk, h.2⟩
      · simp only [tabAbove, Bool.and_eq_true, decide_eq_true_eq]
        exact ⟨h.1, ih h.2 (by omega)⟩

theorem tabAbove_tabDel {n k : Nat} {t : Tab α} (h : tabAbove n t = true) : tabAbove n (tabDel t k) = true := by
  induction t generalizing n with
  | nil => rfl
  | cons p r ih =>
    simp only [tabAbove, Bool.and_eq_true, decide_eq_true_eq] at h
    simp only [tabDel]
    split
    · simp [tabAbove, h]
    · split
      · exact tabAbove_mono h.2 (by omega)
      · simp only [tabAbove, Bool.and_eq_true, decide_eq_true_eq]
        exact ⟨h.1, ih h.2⟩

theorem tabFind_tabDel_self {n k : Nat} (t : Tab α) (h : tabAbove n t = true) : tabFind (tabDel t k) k = none := by
  induction t generalizing n with
  | nil => rfl
  | cons p r ih =>
    simp only [tabAbove, Bool.and_eq_true, decide_eq_true_eq] at h
    simp only [tabDel]
    split
    · rename_i h1; simp [tabFind, h1]
    · split
      · rename_i h2; subst h2; exact tabFind_below r h.2 (by omega)
      · rename_i h1 h2; simp [tabFind, h1, h2, ih h.2]

theorem tabFind_tabDel_ne {n : Nat} (t : Tab α) {k j : Nat} (hw : tabAbove n t = true) (h : j ≠ k) :
    tabFind (tabDel t k) j = tabFind t j := by
  induction t generalizing n with
  | nil => rfl
  | cons p r ih =>
    simp only [tabAbove, Bool.and_eq_true, decide_eq_true_eq] at hw
    simp only [tabDel]
    split
    · rfl
    · split
      · rename_i h1 h2
        subst h2
        simp only [tabFind]
        split
        · exact tabFind_below r hw.2 (by omega)
        · simp [h]
      · simp only [tabFind, ih hw.2]

variable [DecidableEq α]

/-- Read after the canonical write. -/
theorem tabGet_tabPut {n : Nat} (d : α) (t : Tab α) (k j : Nat) (v : α) (hw : tabAbove n t = true) :
    tabGet d (tabPut d t k v) j = if j = k then v else tabGet d t j := by
  unfold tabPut
  split
  · rename_i h
    subst h
    by_cases hj : j = k
    · subst hj; simp [tabGet_eq_tabFind, tabFind_tabDel_self t hw]
    · simp [tabGet_eq_tabFind, tabFind_tabDel_ne t hw hj, hj]
  · exact tabGet_tabSet d t k j v

theorem tabNoDefault_tabSet {d v : α} {t : Tab α} {k : Nat} (h : tabNoDefault d t = true) (hv : v ≠ d) :
    tabNoDefault d (tabSet t k v) = true := by
  induction t with
  | nil => simp [tabSet, tabNoDefault, hv]
  | cons p r ih =>
    simp only [tabNoDefault, Bool.and_eq_true, decide_eq_true_eq] at h
    simp only [tabSet]
    split
    · simp [tabNoDefault, hv, h]
    · split
      · simp [tabNoDefault, hv, h]
      · simp [tabNoDefault, h, ih h.2]

theorem tabNoDefault_tabDel {d : α} {t : Tab α} {k : Nat} (h : tabNoDefault d t = true) :
    tabNoDefault d (tabDel t k) = true := by
  induction t with
  | nil => rfl
  | cons p r ih =>
    simp only [tabNoDefault, Bool.and_eq_true, decide_eq_true_eq] at h
    simp only [tabDel]
    split
    · simp [tabNoDefault, h]
    · split
      · exact h.2
      · simp [tabNoDefault, h, ih h.2]

/-- The canonical write keeps the canonical form. -/
theorem tabWf_tabPut {d v : α} {t : Tab α} {k : Nat} (h : tabWf d t = true) : tabWf d (tabPut d t k v) = true := by
  simp only [tabWf, Bool.and_eq_true] at h ⊢
  unfold tabPut
  split
  · exact ⟨tabAbove_tabDel h.1, tabNoDefault_tabDel h.2⟩
  · rename_i hv
    exact ⟨tabAbove_tabSet v h.1 (Nat.zero_le k), tabNoDefault_tabSet h.2 hv⟩

omit [DecidableEq α] in
theorem tabAbove_filter {n : Nat} {t : Tab α} (p : Nat × α → Bool) (h : tabAbove n t = true) : tabAbove n (t.filter p) = true := by
  induction t generalizing n with
  | nil => rfl
  | cons q r ih =>
    simp only [tabAbove, Bool.and_eq_true, decide_eq_true_eq] at h
    simp only [List.filter_cons]
    split
    · simp only [tabAbove, Bool.and_eq_true, decide_eq_true_eq]
      exact ⟨h.1, ih h.2⟩
    · exact tabAbove_mono (ih h.2) (by omega)

/-- Entries taken out of a canonical table leave one. -/
theorem tabWf_filter {d : α} {t : Tab α} (p : Nat × α → Bool) (h : tabWf d t = true) : tabWf d (t.filter p) = true := by
  simp only [tabWf, Bool.and_eq_true] at h ⊢
  refine ⟨tabAbove_filter p h.1, ?_⟩
  have h2 := h.2
  clear h
  induction t with
  | nil => rfl
  | cons q r ih =>
    simp only [tabNoDefault, Bool.and_eq_true, decide_eq_true_eq] at h2
    simp only [List.filter_cons]
    split
    · simp [tabNoDefault, h2, ih h2.2]
    · exact ih h2.2

end Sys2Proof
end

