-- ==== Sys2Proof/Laws/State.lean ====
section
/-! SUPPORT. Every field after every update of the state, and of a firing's slots and predicates. -/

namespace Sys2Proof.Machine

@[simp] theorem State.setTile_tick (s : State) (t : TileId) (x : Tile) : (s.setTile t x).tick = s.tick := rfl
@[simp] theorem State.setTile_cur (s : State) (t : TileId) (x : Tile) : (s.setTile t x).cur = s.cur := rfl
@[simp] theorem State.setTile_acts (s : State) (t : TileId) (x : Tile) : (s.setTile t x).acts = s.acts := rfl
@[simp] theorem State.setTile_timers (s : State) (t : TileId) (x : Tile) : (s.setTile t x).timers = s.timers := rfl
@[simp] theorem State.setTile_inputs (s : State) (t : TileId) (x : Tile) : (s.setTile t x).inputs = s.inputs := rfl
@[simp] theorem State.setTile_outbox (s : State) (t : TileId) (x : Tile) : (s.setTile t x).outbox = s.outbox := rfl
@[simp] theorem State.setTile_stks (s : State) (t : TileId) (x : Tile) : (s.setTile t x).stks = s.stks := rfl
@[simp] theorem State.setTile_mem (s : State) (t : TileId) (x : Tile) : (s.setTile t x).mem = s.mem := rfl
@[simp] theorem State.setTile_ctxs (s : State) (t : TileId) (x : Tile) : (s.setTile t x).ctxs = s.ctxs := rfl
@[simp] theorem State.setTile_parts (s : State) (t : TileId) (x : Tile) : (s.setTile t x).parts = s.parts := rfl
@[simp] theorem State.setTile_mgq (s : State) (t : TileId) (x : Tile) : (s.setTile t x).mgq = s.mgq := rfl
@[simp] theorem State.setTile_launches (s : State) (t : TileId) (x : Tile) : (s.setTile t x).launches = s.launches := rfl
@[simp] theorem State.setTile_insts (s : State) (t : TileId) (x : Tile) : (s.setTile t x).insts = s.insts := rfl
@[simp] theorem State.setTile_cache (s : State) (t : TileId) (x : Tile) : (s.setTile t x).cache = s.cache := rfl
@[simp] theorem State.setTile_images (s : State) (t : TileId) (x : Tile) : (s.setTile t x).images = s.images := rfl
@[simp] theorem State.setTile_origins (s : State) (t : TileId) (x : Tile) : (s.setTile t x).origins = s.origins := rfl
@[simp] theorem State.setTile_nextId (s : State) (t : TileId) (x : Tile) : (s.setTile t x).nextId = s.nextId := rfl
@[simp] theorem State.setTile_nextAge (s : State) (t : TileId) (x : Tile) : (s.setTile t x).nextAge = s.nextAge := rfl
@[simp] theorem State.setTile_closes (s : State) (t : TileId) (x : Tile) : (s.setTile t x).closes = s.closes := rfl
@[simp] theorem State.setTile_remote (s : State) (t : TileId) (x : Tile) : (s.setTile t x).remote = s.remote := rfl
@[simp] theorem State.setTile_hostOps (s : State) (t : TileId) (x : Tile) : (s.setTile t x).hostOps = s.hostOps := rfl
@[simp] theorem State.setTile_net (s : State) (t : TileId) (x : Tile) : (s.setTile t x).net = s.net := rfl
@[simp] theorem State.setTile_links (s : State) (t : TileId) (x : Tile) : (s.setTile t x).links = s.links := rfl
@[simp] theorem State.setTile_planes (s : State) (t : TileId) (x : Tile) : (s.setTile t x).planes = s.planes := rfl
@[simp] theorem State.setTile_buses (s : State) (t : TileId) (x : Tile) : (s.setTile t x).buses = s.buses := rfl
@[simp] theorem State.setTile_defects (s : State) (t : TileId) (x : Tile) : (s.setTile t x).defects = s.defects := rfl
@[simp] theorem State.setTile_stubs (s : State) (t : TileId) (x : Tile) : (s.setTile t x).stubs = s.stubs := rfl
@[simp] theorem State.setTile_pulls (s : State) (t : TileId) (x : Tile) : (s.setTile t x).pulls = s.pulls := rfl
@[simp] theorem State.setTile_repoints (s : State) (t : TileId) (x : Tile) : (s.setTile t x).repoints = s.repoints := rfl
@[simp] theorem State.setTile_boot (s : State) (t : TileId) (x : Tile) : (s.setTile t x).boot = s.boot := rfl
@[simp] theorem State.setTile_devid (s : State) (t : TileId) (x : Tile) : (s.setTile t x).devid = s.devid := rfl
@[simp] theorem State.setTile_fwver (s : State) (t : TileId) (x : Tile) : (s.setTile t x).fwver = s.fwver := rfl
@[simp] theorem State.setTile_bundleHash (s : State) (t : TileId) (x : Tile) : (s.setTile t x).bundleHash = s.bundleHash := rfl
@[simp] theorem State.setTile_bundle (s : State) (t : TileId) (x : Tile) : (s.setTile t x).bundle = s.bundle := rfl
@[simp] theorem State.setTile_powercap (s : State) (t : TileId) (x : Tile) : (s.setTile t x).powercap = s.powercap := rfl
@[simp] theorem State.setTile_issueK (s : State) (t : TileId) (x : Tile) : (s.setTile t x).issueK = s.issueK := rfl
@[simp] theorem State.setTile_throttled (s : State) (t : TileId) (x : Tile) : (s.setTile t x).throttled = s.throttled := rfl
@[simp] theorem State.setTile_trip (s : State) (t : TileId) (x : Tile) : (s.setTile t x).trip = s.trip := rfl
@[simp] theorem State.setTile_templim (s : State) (t : TileId) (x : Tile) : (s.setTile t x).templim = s.templim := rfl
@[simp] theorem State.setTile_ecc (s : State) (t : TileId) (x : Tile) : (s.setTile t x).ecc = s.ecc := rfl
@[simp] theorem State.setTile_errs (s : State) (t : TileId) (x : Tile) : (s.setTile t x).errs = s.errs := rfl
@[simp] theorem State.setTile_wasReset (s : State) (t : TileId) (x : Tile) : (s.setTile t x).wasReset = s.wasReset := rfl
@[simp] theorem State.setTile_grants (s : State) (t : TileId) (x : Tile) : (s.setTile t x).grants = s.grants := rfl
@[simp] theorem State.setTile_badHops (s : State) (t : TileId) (x : Tile) : (s.setTile t x).badHops = s.badHops := rfl

@[simp] theorem State.setStack_tick (s : State) (k : Nat) (x : Stack) : (s.setStack k x).tick = s.tick := rfl
@[simp] theorem State.setStack_cur (s : State) (k : Nat) (x : Stack) : (s.setStack k x).cur = s.cur := rfl
@[simp] theorem State.setStack_acts (s : State) (k : Nat) (x : Stack) : (s.setStack k x).acts = s.acts := rfl
@[simp] theorem State.setStack_timers (s : State) (k : Nat) (x : Stack) : (s.setStack k x).timers = s.timers := rfl
@[simp] theorem State.setStack_inputs (s : State) (k : Nat) (x : Stack) : (s.setStack k x).inputs = s.inputs := rfl
@[simp] theorem State.setStack_outbox (s : State) (k : Nat) (x : Stack) : (s.setStack k x).outbox = s.outbox := rfl
@[simp] theorem State.setStack_tiles (s : State) (k : Nat) (x : Stack) : (s.setStack k x).tiles = s.tiles := rfl
@[simp] theorem State.setStack_mem (s : State) (k : Nat) (x : Stack) : (s.setStack k x).mem = s.mem := rfl
@[simp] theorem State.setStack_ctxs (s : State) (k : Nat) (x : Stack) : (s.setStack k x).ctxs = s.ctxs := rfl
@[simp] theorem State.setStack_parts (s : State) (k : Nat) (x : Stack) : (s.setStack k x).parts = s.parts := rfl
@[simp] theorem State.setStack_mgq (s : State) (k : Nat) (x : Stack) : (s.setStack k x).mgq = s.mgq := rfl
@[simp] theorem State.setStack_launches (s : State) (k : Nat) (x : Stack) : (s.setStack k x).launches = s.launches := rfl
@[simp] theorem State.setStack_insts (s : State) (k : Nat) (x : Stack) : (s.setStack k x).insts = s.insts := rfl
@[simp] theorem State.setStack_cache (s : State) (k : Nat) (x : Stack) : (s.setStack k x).cache = s.cache := rfl
@[simp] theorem State.setStack_images (s : State) (k : Nat) (x : Stack) : (s.setStack k x).images = s.images := rfl
@[simp] theorem State.setStack_origins (s : State) (k : Nat) (x : Stack) : (s.setStack k x).origins = s.origins := rfl
@[simp] theorem State.setStack_nextId (s : State) (k : Nat) (x : Stack) : (s.setStack k x).nextId = s.nextId := rfl
@[simp] theorem State.setStack_nextAge (s : State) (k : Nat) (x : Stack) : (s.setStack k x).nextAge = s.nextAge := rfl
@[simp] theorem State.setStack_closes (s : State) (k : Nat) (x : Stack) : (s.setStack k x).closes = s.closes := rfl
@[simp] theorem State.setStack_remote (s : State) (k : Nat) (x : Stack) : (s.setStack k x).remote = s.remote := rfl
@[simp] theorem State.setStack_hostOps (s : State) (k : Nat) (x : Stack) : (s.setStack k x).hostOps = s.hostOps := rfl
@[simp] theorem State.setStack_net (s : State) (k : Nat) (x : Stack) : (s.setStack k x).net = s.net := rfl
@[simp] theorem State.setStack_links (s : State) (k : Nat) (x : Stack) : (s.setStack k x).links = s.links := rfl
@[simp] theorem State.setStack_planes (s : State) (k : Nat) (x : Stack) : (s.setStack k x).planes = s.planes := rfl
@[simp] theorem State.setStack_buses (s : State) (k : Nat) (x : Stack) : (s.setStack k x).buses = s.buses := rfl
@[simp] theorem State.setStack_defects (s : State) (k : Nat) (x : Stack) : (s.setStack k x).defects = s.defects := rfl
@[simp] theorem State.setStack_stubs (s : State) (k : Nat) (x : Stack) : (s.setStack k x).stubs = s.stubs := rfl
@[simp] theorem State.setStack_pulls (s : State) (k : Nat) (x : Stack) : (s.setStack k x).pulls = s.pulls := rfl
@[simp] theorem State.setStack_repoints (s : State) (k : Nat) (x : Stack) : (s.setStack k x).repoints = s.repoints := rfl
@[simp] theorem State.setStack_boot (s : State) (k : Nat) (x : Stack) : (s.setStack k x).boot = s.boot := rfl
@[simp] theorem State.setStack_devid (s : State) (k : Nat) (x : Stack) : (s.setStack k x).devid = s.devid := rfl
@[simp] theorem State.setStack_fwver (s : State) (k : Nat) (x : Stack) : (s.setStack k x).fwver = s.fwver := rfl
@[simp] theorem State.setStack_bundleHash (s : State) (k : Nat) (x : Stack) : (s.setStack k x).bundleHash = s.bundleHash := rfl
@[simp] theorem State.setStack_bundle (s : State) (k : Nat) (x : Stack) : (s.setStack k x).bundle = s.bundle := rfl
@[simp] theorem State.setStack_powercap (s : State) (k : Nat) (x : Stack) : (s.setStack k x).powercap = s.powercap := rfl
@[simp] theorem State.setStack_issueK (s : State) (k : Nat) (x : Stack) : (s.setStack k x).issueK = s.issueK := rfl
@[simp] theorem State.setStack_throttled (s : State) (k : Nat) (x : Stack) : (s.setStack k x).throttled = s.throttled := rfl
@[simp] theorem State.setStack_trip (s : State) (k : Nat) (x : Stack) : (s.setStack k x).trip = s.trip := rfl
@[simp] theorem State.setStack_templim (s : State) (k : Nat) (x : Stack) : (s.setStack k x).templim = s.templim := rfl
@[simp] theorem State.setStack_ecc (s : State) (k : Nat) (x : Stack) : (s.setStack k x).ecc = s.ecc := rfl
@[simp] theorem State.setStack_errs (s : State) (k : Nat) (x : Stack) : (s.setStack k x).errs = s.errs := rfl
@[simp] theorem State.setStack_wasReset (s : State) (k : Nat) (x : Stack) : (s.setStack k x).wasReset = s.wasReset := rfl
@[simp] theorem State.setStack_grants (s : State) (k : Nat) (x : Stack) : (s.setStack k x).grants = s.grants := rfl
@[simp] theorem State.setStack_badHops (s : State) (k : Nat) (x : Stack) : (s.setStack k x).badHops = s.badHops := rfl

@[simp] theorem State.setCtx_tick (s : State) (c : Nat) (x : Ctx) : (s.setCtx c x).tick = s.tick := rfl
@[simp] theorem State.setCtx_cur (s : State) (c : Nat) (x : Ctx) : (s.setCtx c x).cur = s.cur := rfl
@[simp] theorem State.setCtx_acts (s : State) (c : Nat) (x : Ctx) : (s.setCtx c x).acts = s.acts := rfl
@[simp] theorem State.setCtx_timers (s : State) (c : Nat) (x : Ctx) : (s.setCtx c x).timers = s.timers := rfl
@[simp] theorem State.setCtx_inputs (s : State) (c : Nat) (x : Ctx) : (s.setCtx c x).inputs = s.inputs := rfl
@[simp] theorem State.setCtx_outbox (s : State) (c : Nat) (x : Ctx) : (s.setCtx c x).outbox = s.outbox := rfl
@[simp] theorem State.setCtx_tiles (s : State) (c : Nat) (x : Ctx) : (s.setCtx c x).tiles = s.tiles := rfl
@[simp] theorem State.setCtx_stks (s : State) (c : Nat) (x : Ctx) : (s.setCtx c x).stks = s.stks := rfl
@[simp] theorem State.setCtx_mem (s : State) (c : Nat) (x : Ctx) : (s.setCtx c x).mem = s.mem := rfl
@[simp] theorem State.setCtx_parts (s : State) (c : Nat) (x : Ctx) : (s.setCtx c x).parts = s.parts := rfl
@[simp] theorem State.setCtx_mgq (s : State) (c : Nat) (x : Ctx) : (s.setCtx c x).mgq = s.mgq := rfl
@[simp] theorem State.setCtx_launches (s : State) (c : Nat) (x : Ctx) : (s.setCtx c x).launches = s.launches := rfl
@[simp] theorem State.setCtx_insts (s : State) (c : Nat) (x : Ctx) : (s.setCtx c x).insts = s.insts := rfl
@[simp] theorem State.setCtx_cache (s : State) (c : Nat) (x : Ctx) : (s.setCtx c x).cache = s.cache := rfl
@[simp] theorem State.setCtx_images (s : State) (c : Nat) (x : Ctx) : (s.setCtx c x).images = s.images := rfl
@[simp] theorem State.setCtx_origins (s : State) (c : Nat) (x : Ctx) : (s.setCtx c x).origins = s.origins := rfl
@[simp] theorem State.setCtx_nextId (s : State) (c : Nat) (x : Ctx) : (s.setCtx c x).nextId = s.nextId := rfl
@[simp] theorem State.setCtx_nextAge (s : State) (c : Nat) (x : Ctx) : (s.setCtx c x).nextAge = s.nextAge := rfl
@[simp] theorem State.setCtx_closes (s : State) (c : Nat) (x : Ctx) : (s.setCtx c x).closes = s.closes := rfl
@[simp] theorem State.setCtx_remote (s : State) (c : Nat) (x : Ctx) : (s.setCtx c x).remote = s.remote := rfl
@[simp] theorem State.setCtx_hostOps (s : State) (c : Nat) (x : Ctx) : (s.setCtx c x).hostOps = s.hostOps := rfl
@[simp] theorem State.setCtx_net (s : State) (c : Nat) (x : Ctx) : (s.setCtx c x).net = s.net := rfl
@[simp] theorem State.setCtx_links (s : State) (c : Nat) (x : Ctx) : (s.setCtx c x).links = s.links := rfl
@[simp] theorem State.setCtx_planes (s : State) (c : Nat) (x : Ctx) : (s.setCtx c x).planes = s.planes := rfl
@[simp] theorem State.setCtx_buses (s : State) (c : Nat) (x : Ctx) : (s.setCtx c x).buses = s.buses := rfl
@[simp] theorem State.setCtx_defects (s : State) (c : Nat) (x : Ctx) : (s.setCtx c x).defects = s.defects := rfl
@[simp] theorem State.setCtx_stubs (s : State) (c : Nat) (x : Ctx) : (s.setCtx c x).stubs = s.stubs := rfl
@[simp] theorem State.setCtx_pulls (s : State) (c : Nat) (x : Ctx) : (s.setCtx c x).pulls = s.pulls := rfl
@[simp] theorem State.setCtx_repoints (s : State) (c : Nat) (x : Ctx) : (s.setCtx c x).repoints = s.repoints := rfl
@[simp] theorem State.setCtx_boot (s : State) (c : Nat) (x : Ctx) : (s.setCtx c x).boot = s.boot := rfl
@[simp] theorem State.setCtx_devid (s : State) (c : Nat) (x : Ctx) : (s.setCtx c x).devid = s.devid := rfl
@[simp] theorem State.setCtx_fwver (s : State) (c : Nat) (x : Ctx) : (s.setCtx c x).fwver = s.fwver := rfl
@[simp] theorem State.setCtx_bundleHash (s : State) (c : Nat) (x : Ctx) : (s.setCtx c x).bundleHash = s.bundleHash := rfl
@[simp] theorem State.setCtx_bundle (s : State) (c : Nat) (x : Ctx) : (s.setCtx c x).bundle = s.bundle := rfl
@[simp] theorem State.setCtx_powercap (s : State) (c : Nat) (x : Ctx) : (s.setCtx c x).powercap = s.powercap := rfl
@[simp] theorem State.setCtx_issueK (s : State) (c : Nat) (x : Ctx) : (s.setCtx c x).issueK = s.issueK := rfl
@[simp] theorem State.setCtx_throttled (s : State) (c : Nat) (x : Ctx) : (s.setCtx c x).throttled = s.throttled := rfl
@[simp] theorem State.setCtx_trip (s : State) (c : Nat) (x : Ctx) : (s.setCtx c x).trip = s.trip := rfl
@[simp] theorem State.setCtx_templim (s : State) (c : Nat) (x : Ctx) : (s.setCtx c x).templim = s.templim := rfl
@[simp] theorem State.setCtx_ecc (s : State) (c : Nat) (x : Ctx) : (s.setCtx c x).ecc = s.ecc := rfl
@[simp] theorem State.setCtx_errs (s : State) (c : Nat) (x : Ctx) : (s.setCtx c x).errs = s.errs := rfl
@[simp] theorem State.setCtx_wasReset (s : State) (c : Nat) (x : Ctx) : (s.setCtx c x).wasReset = s.wasReset := rfl
@[simp] theorem State.setCtx_grants (s : State) (c : Nat) (x : Ctx) : (s.setCtx c x).grants = s.grants := rfl
@[simp] theorem State.setCtx_badHops (s : State) (c : Nat) (x : Ctx) : (s.setCtx c x).badHops = s.badHops := rfl

@[simp] theorem State.setPart_tick (s : State) (p : Nat) (x : Part) : (s.setPart p x).tick = s.tick := rfl
@[simp] theorem State.setPart_cur (s : State) (p : Nat) (x : Part) : (s.setPart p x).cur = s.cur := rfl
@[simp] theorem State.setPart_acts (s : State) (p : Nat) (x : Part) : (s.setPart p x).acts = s.acts := rfl
@[simp] theorem State.setPart_timers (s : State) (p : Nat) (x : Part) : (s.setPart p x).timers = s.timers := rfl
@[simp] theorem State.setPart_inputs (s : State) (p : Nat) (x : Part) : (s.setPart p x).inputs = s.inputs := rfl
@[simp] theorem State.setPart_outbox (s : State) (p : Nat) (x : Part) : (s.setPart p x).outbox = s.outbox := rfl
@[simp] theorem State.setPart_tiles (s : State) (p : Nat) (x : Part) : (s.setPart p x).tiles = s.tiles := rfl
@[simp] theorem State.setPart_stks (s : State) (p : Nat) (x : Part) : (s.setPart p x).stks = s.stks := rfl
@[simp] theorem State.setPart_mem (s : State) (p : Nat) (x : Part) : (s.setPart p x).mem = s.mem := rfl
@[simp] theorem State.setPart_ctxs (s : State) (p : Nat) (x : Part) : (s.setPart p x).ctxs = s.ctxs := rfl
@[simp] theorem State.setPart_mgq (s : State) (p : Nat) (x : Part) : (s.setPart p x).mgq = s.mgq := rfl
@[simp] theorem State.setPart_launches (s : State) (p : Nat) (x : Part) : (s.setPart p x).launches = s.launches := rfl
@[simp] theorem State.setPart_insts (s : State) (p : Nat) (x : Part) : (s.setPart p x).insts = s.insts := rfl
@[simp] theorem State.setPart_cache (s : State) (p : Nat) (x : Part) : (s.setPart p x).cache = s.cache := rfl
@[simp] theorem State.setPart_images (s : State) (p : Nat) (x : Part) : (s.setPart p x).images = s.images := rfl
@[simp] theorem State.setPart_origins (s : State) (p : Nat) (x : Part) : (s.setPart p x).origins = s.origins := rfl
@[simp] theorem State.setPart_nextId (s : State) (p : Nat) (x : Part) : (s.setPart p x).nextId = s.nextId := rfl
@[simp] theorem State.setPart_nextAge (s : State) (p : Nat) (x : Part) : (s.setPart p x).nextAge = s.nextAge := rfl
@[simp] theorem State.setPart_closes (s : State) (p : Nat) (x : Part) : (s.setPart p x).closes = s.closes := rfl
@[simp] theorem State.setPart_remote (s : State) (p : Nat) (x : Part) : (s.setPart p x).remote = s.remote := rfl
@[simp] theorem State.setPart_hostOps (s : State) (p : Nat) (x : Part) : (s.setPart p x).hostOps = s.hostOps := rfl
@[simp] theorem State.setPart_net (s : State) (p : Nat) (x : Part) : (s.setPart p x).net = s.net := rfl
@[simp] theorem State.setPart_links (s : State) (p : Nat) (x : Part) : (s.setPart p x).links = s.links := rfl
@[simp] theorem State.setPart_planes (s : State) (p : Nat) (x : Part) : (s.setPart p x).planes = s.planes := rfl
@[simp] theorem State.setPart_buses (s : State) (p : Nat) (x : Part) : (s.setPart p x).buses = s.buses := rfl
@[simp] theorem State.setPart_defects (s : State) (p : Nat) (x : Part) : (s.setPart p x).defects = s.defects := rfl
@[simp] theorem State.setPart_stubs (s : State) (p : Nat) (x : Part) : (s.setPart p x).stubs = s.stubs := rfl
@[simp] theorem State.setPart_pulls (s : State) (p : Nat) (x : Part) : (s.setPart p x).pulls = s.pulls := rfl
@[simp] theorem State.setPart_repoints (s : State) (p : Nat) (x : Part) : (s.setPart p x).repoints = s.repoints := rfl
@[simp] theorem State.setPart_boot (s : State) (p : Nat) (x : Part) : (s.setPart p x).boot = s.boot := rfl
@[simp] theorem State.setPart_devid (s : State) (p : Nat) (x : Part) : (s.setPart p x).devid = s.devid := rfl
@[simp] theorem State.setPart_fwver (s : State) (p : Nat) (x : Part) : (s.setPart p x).fwver = s.fwver := rfl
@[simp] theorem State.setPart_bundleHash (s : State) (p : Nat) (x : Part) : (s.setPart p x).bundleHash = s.bundleHash := rfl
@[simp] theorem State.setPart_bundle (s : State) (p : Nat) (x : Part) : (s.setPart p x).bundle = s.bundle := rfl
@[simp] theorem State.setPart_powercap (s : State) (p : Nat) (x : Part) : (s.setPart p x).powercap = s.powercap := rfl
@[simp] theorem State.setPart_issueK (s : State) (p : Nat) (x : Part) : (s.setPart p x).issueK = s.issueK := rfl
@[simp] theorem State.setPart_throttled (s : State) (p : Nat) (x : Part) : (s.setPart p x).throttled = s.throttled := rfl
@[simp] theorem State.setPart_trip (s : State) (p : Nat) (x : Part) : (s.setPart p x).trip = s.trip := rfl
@[simp] theorem State.setPart_templim (s : State) (p : Nat) (x : Part) : (s.setPart p x).templim = s.templim := rfl
@[simp] theorem State.setPart_ecc (s : State) (p : Nat) (x : Part) : (s.setPart p x).ecc = s.ecc := rfl
@[simp] theorem State.setPart_errs (s : State) (p : Nat) (x : Part) : (s.setPart p x).errs = s.errs := rfl
@[simp] theorem State.setPart_wasReset (s : State) (p : Nat) (x : Part) : (s.setPart p x).wasReset = s.wasReset := rfl
@[simp] theorem State.setPart_grants (s : State) (p : Nat) (x : Part) : (s.setPart p x).grants = s.grants := rfl
@[simp] theorem State.setPart_badHops (s : State) (p : Nat) (x : Part) : (s.setPart p x).badHops = s.badHops := rfl

@[simp] theorem State.setInst_tick (s : State) (x : Inst) : (s.setInst x).tick = s.tick := rfl
@[simp] theorem State.setInst_cur (s : State) (x : Inst) : (s.setInst x).cur = s.cur := rfl
@[simp] theorem State.setInst_acts (s : State) (x : Inst) : (s.setInst x).acts = s.acts := rfl
@[simp] theorem State.setInst_timers (s : State) (x : Inst) : (s.setInst x).timers = s.timers := rfl
@[simp] theorem State.setInst_inputs (s : State) (x : Inst) : (s.setInst x).inputs = s.inputs := rfl
@[simp] theorem State.setInst_outbox (s : State) (x : Inst) : (s.setInst x).outbox = s.outbox := rfl
@[simp] theorem State.setInst_tiles (s : State) (x : Inst) : (s.setInst x).tiles = s.tiles := rfl
@[simp] theorem State.setInst_stks (s : State) (x : Inst) : (s.setInst x).stks = s.stks := rfl
@[simp] theorem State.setInst_mem (s : State) (x : Inst) : (s.setInst x).mem = s.mem := rfl
@[simp] theorem State.setInst_ctxs (s : State) (x : Inst) : (s.setInst x).ctxs = s.ctxs := rfl
@[simp] theorem State.setInst_parts (s : State) (x : Inst) : (s.setInst x).parts = s.parts := rfl
@[simp] theorem State.setInst_mgq (s : State) (x : Inst) : (s.setInst x).mgq = s.mgq := rfl
@[simp] theorem State.setInst_launches (s : State) (x : Inst) : (s.setInst x).launches = s.launches := rfl
@[simp] theorem State.setInst_cache (s : State) (x : Inst) : (s.setInst x).cache = s.cache := rfl
@[simp] theorem State.setInst_images (s : State) (x : Inst) : (s.setInst x).images = s.images := rfl
@[simp] theorem State.setInst_origins (s : State) (x : Inst) : (s.setInst x).origins = s.origins := rfl
@[simp] theorem State.setInst_nextId (s : State) (x : Inst) : (s.setInst x).nextId = s.nextId := rfl
@[simp] theorem State.setInst_nextAge (s : State) (x : Inst) : (s.setInst x).nextAge = s.nextAge := rfl
@[simp] theorem State.setInst_closes (s : State) (x : Inst) : (s.setInst x).closes = s.closes := rfl
@[simp] theorem State.setInst_remote (s : State) (x : Inst) : (s.setInst x).remote = s.remote := rfl
@[simp] theorem State.setInst_hostOps (s : State) (x : Inst) : (s.setInst x).hostOps = s.hostOps := rfl
@[simp] theorem State.setInst_net (s : State) (x : Inst) : (s.setInst x).net = s.net := rfl
@[simp] theorem State.setInst_links (s : State) (x : Inst) : (s.setInst x).links = s.links := rfl
@[simp] theorem State.setInst_planes (s : State) (x : Inst) : (s.setInst x).planes = s.planes := rfl
@[simp] theorem State.setInst_buses (s : State) (x : Inst) : (s.setInst x).buses = s.buses := rfl
@[simp] theorem State.setInst_defects (s : State) (x : Inst) : (s.setInst x).defects = s.defects := rfl
@[simp] theorem State.setInst_stubs (s : State) (x : Inst) : (s.setInst x).stubs = s.stubs := rfl
@[simp] theorem State.setInst_pulls (s : State) (x : Inst) : (s.setInst x).pulls = s.pulls := rfl
@[simp] theorem State.setInst_repoints (s : State) (x : Inst) : (s.setInst x).repoints = s.repoints := rfl
@[simp] theorem State.setInst_boot (s : State) (x : Inst) : (s.setInst x).boot = s.boot := rfl
@[simp] theorem State.setInst_devid (s : State) (x : Inst) : (s.setInst x).devid = s.devid := rfl
@[simp] theorem State.setInst_fwver (s : State) (x : Inst) : (s.setInst x).fwver = s.fwver := rfl
@[simp] theorem State.setInst_bundleHash (s : State) (x : Inst) : (s.setInst x).bundleHash = s.bundleHash := rfl
@[simp] theorem State.setInst_bundle (s : State) (x : Inst) : (s.setInst x).bundle = s.bundle := rfl
@[simp] theorem State.setInst_powercap (s : State) (x : Inst) : (s.setInst x).powercap = s.powercap := rfl
@[simp] theorem State.setInst_issueK (s : State) (x : Inst) : (s.setInst x).issueK = s.issueK := rfl
@[simp] theorem State.setInst_throttled (s : State) (x : Inst) : (s.setInst x).throttled = s.throttled := rfl
@[simp] theorem State.setInst_trip (s : State) (x : Inst) : (s.setInst x).trip = s.trip := rfl
@[simp] theorem State.setInst_templim (s : State) (x : Inst) : (s.setInst x).templim = s.templim := rfl
@[simp] theorem State.setInst_ecc (s : State) (x : Inst) : (s.setInst x).ecc = s.ecc := rfl
@[simp] theorem State.setInst_errs (s : State) (x : Inst) : (s.setInst x).errs = s.errs := rfl
@[simp] theorem State.setInst_wasReset (s : State) (x : Inst) : (s.setInst x).wasReset = s.wasReset := rfl
@[simp] theorem State.setInst_grants (s : State) (x : Inst) : (s.setInst x).grants = s.grants := rfl
@[simp] theorem State.setInst_badHops (s : State) (x : Inst) : (s.setInst x).badHops = s.badHops := rfl

@[simp] theorem State.setLaunch_tick (s : State) (x : Launch) : (s.setLaunch x).tick = s.tick := rfl
@[simp] theorem State.setLaunch_cur (s : State) (x : Launch) : (s.setLaunch x).cur = s.cur := rfl
@[simp] theorem State.setLaunch_acts (s : State) (x : Launch) : (s.setLaunch x).acts = s.acts := rfl
@[simp] theorem State.setLaunch_timers (s : State) (x : Launch) : (s.setLaunch x).timers = s.timers := rfl
@[simp] theorem State.setLaunch_inputs (s : State) (x : Launch) : (s.setLaunch x).inputs = s.inputs := rfl
@[simp] theorem State.setLaunch_outbox (s : State) (x : Launch) : (s.setLaunch x).outbox = s.outbox := rfl
@[simp] theorem State.setLaunch_tiles (s : State) (x : Launch) : (s.setLaunch x).tiles = s.tiles := rfl
@[simp] theorem State.setLaunch_stks (s : State) (x : Launch) : (s.setLaunch x).stks = s.stks := rfl
@[simp] theorem State.setLaunch_mem (s : State) (x : Launch) : (s.setLaunch x).mem = s.mem := rfl
@[simp] theorem State.setLaunch_ctxs (s : State) (x : Launch) : (s.setLaunch x).ctxs = s.ctxs := rfl
@[simp] theorem State.setLaunch_parts (s : State) (x : Launch) : (s.setLaunch x).parts = s.parts := rfl
@[simp] theorem State.setLaunch_mgq (s : State) (x : Launch) : (s.setLaunch x).mgq = s.mgq := rfl
@[simp] theorem State.setLaunch_insts (s : State) (x : Launch) : (s.setLaunch x).insts = s.insts := rfl
@[simp] theorem State.setLaunch_cache (s : State) (x : Launch) : (s.setLaunch x).cache = s.cache := rfl
@[simp] theorem State.setLaunch_images (s : State) (x : Launch) : (s.setLaunch x).images = s.images := rfl
@[simp] theorem State.setLaunch_origins (s : State) (x : Launch) : (s.setLaunch x).origins = s.origins := rfl
@[simp] theorem State.setLaunch_nextId (s : State) (x : Launch) : (s.setLaunch x).nextId = s.nextId := rfl
@[simp] theorem State.setLaunch_nextAge (s : State) (x : Launch) : (s.setLaunch x).nextAge = s.nextAge := rfl
@[simp] theorem State.setLaunch_closes (s : State) (x : Launch) : (s.setLaunch x).closes = s.closes := rfl
@[simp] theorem State.setLaunch_remote (s : State) (x : Launch) : (s.setLaunch x).remote = s.remote := rfl
@[simp] theorem State.setLaunch_hostOps (s : State) (x : Launch) : (s.setLaunch x).hostOps = s.hostOps := rfl
@[simp] theorem State.setLaunch_net (s : State) (x : Launch) : (s.setLaunch x).net = s.net := rfl
@[simp] theorem State.setLaunch_links (s : State) (x : Launch) : (s.setLaunch x).links = s.links := rfl
@[simp] theorem State.setLaunch_planes (s : State) (x : Launch) : (s.setLaunch x).planes = s.planes := rfl
@[simp] theorem State.setLaunch_buses (s : State) (x : Launch) : (s.setLaunch x).buses = s.buses := rfl
@[simp] theorem State.setLaunch_defects (s : State) (x : Launch) : (s.setLaunch x).defects = s.defects := rfl
@[simp] theorem State.setLaunch_stubs (s : State) (x : Launch) : (s.setLaunch x).stubs = s.stubs := rfl
@[simp] theorem State.setLaunch_pulls (s : State) (x : Launch) : (s.setLaunch x).pulls = s.pulls := rfl
@[simp] theorem State.setLaunch_repoints (s : State) (x : Launch) : (s.setLaunch x).repoints = s.repoints := rfl
@[simp] theorem State.setLaunch_boot (s : State) (x : Launch) : (s.setLaunch x).boot = s.boot := rfl
@[simp] theorem State.setLaunch_devid (s : State) (x : Launch) : (s.setLaunch x).devid = s.devid := rfl
@[simp] theorem State.setLaunch_fwver (s : State) (x : Launch) : (s.setLaunch x).fwver = s.fwver := rfl
@[simp] theorem State.setLaunch_bundleHash (s : State) (x : Launch) : (s.setLaunch x).bundleHash = s.bundleHash := rfl
@[simp] theorem State.setLaunch_bundle (s : State) (x : Launch) : (s.setLaunch x).bundle = s.bundle := rfl
@[simp] theorem State.setLaunch_powercap (s : State) (x : Launch) : (s.setLaunch x).powercap = s.powercap := rfl
@[simp] theorem State.setLaunch_issueK (s : State) (x : Launch) : (s.setLaunch x).issueK = s.issueK := rfl
@[simp] theorem State.setLaunch_throttled (s : State) (x : Launch) : (s.setLaunch x).throttled = s.throttled := rfl
@[simp] theorem State.setLaunch_trip (s : State) (x : Launch) : (s.setLaunch x).trip = s.trip := rfl
@[simp] theorem State.setLaunch_templim (s : State) (x : Launch) : (s.setLaunch x).templim = s.templim := rfl
@[simp] theorem State.setLaunch_ecc (s : State) (x : Launch) : (s.setLaunch x).ecc = s.ecc := rfl
@[simp] theorem State.setLaunch_errs (s : State) (x : Launch) : (s.setLaunch x).errs = s.errs := rfl
@[simp] theorem State.setLaunch_wasReset (s : State) (x : Launch) : (s.setLaunch x).wasReset = s.wasReset := rfl
@[simp] theorem State.setLaunch_grants (s : State) (x : Launch) : (s.setLaunch x).grants = s.grants := rfl
@[simp] theorem State.setLaunch_badHops (s : State) (x : Launch) : (s.setLaunch x).badHops = s.badHops := rfl

@[simp] theorem State.setFiring_tick (s : State) (t : TileId) (f : Firing) : (s.setFiring t f).tick = s.tick := rfl
@[simp] theorem State.setFiring_cur (s : State) (t : TileId) (f : Firing) : (s.setFiring t f).cur = s.cur := rfl
@[simp] theorem State.setFiring_acts (s : State) (t : TileId) (f : Firing) : (s.setFiring t f).acts = s.acts := rfl
@[simp] theorem State.setFiring_timers (s : State) (t : TileId) (f : Firing) : (s.setFiring t f).timers = s.timers := rfl
@[simp] theorem State.setFiring_inputs (s : State) (t : TileId) (f : Firing) : (s.setFiring t f).inputs = s.inputs := rfl
@[simp] theorem State.setFiring_outbox (s : State) (t : TileId) (f : Firing) : (s.setFiring t f).outbox = s.outbox := rfl
@[simp] theorem State.setFiring_stks (s : State) (t : TileId) (f : Firing) : (s.setFiring t f).stks = s.stks := rfl
@[simp] theorem State.setFiring_mem (s : State) (t : TileId) (f : Firing) : (s.setFiring t f).mem = s.mem := rfl
@[simp] theorem State.setFiring_ctxs (s : State) (t : TileId) (f : Firing) : (s.setFiring t f).ctxs = s.ctxs := rfl
@[simp] theorem State.setFiring_parts (s : State) (t : TileId) (f : Firing) : (s.setFiring t f).parts = s.parts := rfl
@[simp] theorem State.setFiring_mgq (s : State) (t : TileId) (f : Firing) : (s.setFiring t f).mgq = s.mgq := rfl
@[simp] theorem State.setFiring_launches (s : State) (t : TileId) (f : Firing) : (s.setFiring t f).launches = s.launches := rfl
@[simp] theorem State.setFiring_insts (s : State) (t : TileId) (f : Firing) : (s.setFiring t f).insts = s.insts := rfl
@[simp] theorem State.setFiring_cache (s : State) (t : TileId) (f : Firing) : (s.setFiring t f).cache = s.cache := rfl
@[simp] theorem State.setFiring_images (s : State) (t : TileId) (f : Firing) : (s.setFiring t f).images = s.images := rfl
@[simp] theorem State.setFiring_origins (s : State) (t : TileId) (f : Firing) : (s.setFiring t f).origins = s.origins := rfl
@[simp] theorem State.setFiring_nextId (s : State) (t : TileId) (f : Firing) : (s.setFiring t f).nextId = s.nextId := rfl
@[simp] theorem State.setFiring_nextAge (s : State) (t : TileId) (f : Firing) : (s.setFiring t f).nextAge = s.nextAge := rfl
@[simp] theorem State.setFiring_closes (s : State) (t : TileId) (f : Firing) : (s.setFiring t f).closes = s.closes := rfl
@[simp] theorem State.setFiring_remote (s : State) (t : TileId) (f : Firing) : (s.setFiring t f).remote = s.remote := rfl
@[simp] theorem State.setFiring_hostOps (s : State) (t : TileId) (f : Firing) : (s.setFiring t f).hostOps = s.hostOps := rfl
@[simp] theorem State.setFiring_net (s : State) (t : TileId) (f : Firing) : (s.setFiring t f).net = s.net := rfl
@[simp] theorem State.setFiring_links (s : State) (t : TileId) (f : Firing) : (s.setFiring t f).links = s.links := rfl
@[simp] theorem State.setFiring_planes (s : State) (t : TileId) (f : Firing) : (s.setFiring t f).planes = s.planes := rfl
@[simp] theorem State.setFiring_buses (s : State) (t : TileId) (f : Firing) : (s.setFiring t f).buses = s.buses := rfl
@[simp] theorem State.setFiring_defects (s : State) (t : TileId) (f : Firing) : (s.setFiring t f).defects = s.defects := rfl
@[simp] theorem State.setFiring_stubs (s : State) (t : TileId) (f : Firing) : (s.setFiring t f).stubs = s.stubs := rfl
@[simp] theorem State.setFiring_pulls (s : State) (t : TileId) (f : Firing) : (s.setFiring t f).pulls = s.pulls := rfl
@[simp] theorem State.setFiring_repoints (s : State) (t : TileId) (f : Firing) : (s.setFiring t f).repoints = s.repoints := rfl
@[simp] theorem State.setFiring_boot (s : State) (t : TileId) (f : Firing) : (s.setFiring t f).boot = s.boot := rfl
@[simp] theorem State.setFiring_devid (s : State) (t : TileId) (f : Firing) : (s.setFiring t f).devid = s.devid := rfl
@[simp] theorem State.setFiring_fwver (s : State) (t : TileId) (f : Firing) : (s.setFiring t f).fwver = s.fwver := rfl
@[simp] theorem State.setFiring_bundleHash (s : State) (t : TileId) (f : Firing) : (s.setFiring t f).bundleHash = s.bundleHash := rfl
@[simp] theorem State.setFiring_bundle (s : State) (t : TileId) (f : Firing) : (s.setFiring t f).bundle = s.bundle := rfl
@[simp] theorem State.setFiring_powercap (s : State) (t : TileId) (f : Firing) : (s.setFiring t f).powercap = s.powercap := rfl
@[simp] theorem State.setFiring_issueK (s : State) (t : TileId) (f : Firing) : (s.setFiring t f).issueK = s.issueK := rfl
@[simp] theorem State.setFiring_throttled (s : State) (t : TileId) (f : Firing) : (s.setFiring t f).throttled = s.throttled := rfl
@[simp] theorem State.setFiring_trip (s : State) (t : TileId) (f : Firing) : (s.setFiring t f).trip = s.trip := rfl
@[simp] theorem State.setFiring_templim (s : State) (t : TileId) (f : Firing) : (s.setFiring t f).templim = s.templim := rfl
@[simp] theorem State.setFiring_ecc (s : State) (t : TileId) (f : Firing) : (s.setFiring t f).ecc = s.ecc := rfl
@[simp] theorem State.setFiring_errs (s : State) (t : TileId) (f : Firing) : (s.setFiring t f).errs = s.errs := rfl
@[simp] theorem State.setFiring_wasReset (s : State) (t : TileId) (f : Firing) : (s.setFiring t f).wasReset = s.wasReset := rfl
@[simp] theorem State.setFiring_grants (s : State) (t : TileId) (f : Firing) : (s.setFiring t f).grants = s.grants := rfl
@[simp] theorem State.setFiring_badHops (s : State) (t : TileId) (f : Firing) : (s.setFiring t f).badHops = s.badHops := rfl

@[simp] theorem State.later_tick (s : State) (a : Act) : (s.later a).tick = s.tick := rfl
@[simp] theorem State.later_cur (s : State) (a : Act) : (s.later a).cur = s.cur := rfl
@[simp] theorem State.later_timers (s : State) (a : Act) : (s.later a).timers = s.timers := rfl
@[simp] theorem State.later_inputs (s : State) (a : Act) : (s.later a).inputs = s.inputs := rfl
@[simp] theorem State.later_outbox (s : State) (a : Act) : (s.later a).outbox = s.outbox := rfl
@[simp] theorem State.later_tiles (s : State) (a : Act) : (s.later a).tiles = s.tiles := rfl
@[simp] theorem State.later_stks (s : State) (a : Act) : (s.later a).stks = s.stks := rfl
@[simp] theorem State.later_mem (s : State) (a : Act) : (s.later a).mem = s.mem := rfl
@[simp] theorem State.later_ctxs (s : State) (a : Act) : (s.later a).ctxs = s.ctxs := rfl
@[simp] theorem State.later_parts (s : State) (a : Act) : (s.later a).parts = s.parts := rfl
@[simp] theorem State.later_mgq (s : State) (a : Act) : (s.later a).mgq = s.mgq := rfl
@[simp] theorem State.later_launches (s : State) (a : Act) : (s.later a).launches = s.launches := rfl
@[simp] theorem State.later_insts (s : State) (a : Act) : (s.later a).insts = s.insts := rfl
@[simp] theorem State.later_cache (s : State) (a : Act) : (s.later a).cache = s.cache := rfl
@[simp] theorem State.later_images (s : State) (a : Act) : (s.later a).images = s.images := rfl
@[simp] theorem State.later_origins (s : State) (a : Act) : (s.later a).origins = s.origins := rfl
@[simp] theorem State.later_nextId (s : State) (a : Act) : (s.later a).nextId = s.nextId := rfl
@[simp] theorem State.later_nextAge (s : State) (a : Act) : (s.later a).nextAge = s.nextAge := rfl
@[simp] theorem State.later_closes (s : State) (a : Act) : (s.later a).closes = s.closes := rfl
@[simp] theorem State.later_remote (s : State) (a : Act) : (s.later a).remote = s.remote := rfl
@[simp] theorem State.later_hostOps (s : State) (a : Act) : (s.later a).hostOps = s.hostOps := rfl
@[simp] theorem State.later_net (s : State) (a : Act) : (s.later a).net = s.net := rfl
@[simp] theorem State.later_links (s : State) (a : Act) : (s.later a).links = s.links := rfl
@[simp] theorem State.later_planes (s : State) (a : Act) : (s.later a).planes = s.planes := rfl
@[simp] theorem State.later_buses (s : State) (a : Act) : (s.later a).buses = s.buses := rfl
@[simp] theorem State.later_defects (s : State) (a : Act) : (s.later a).defects = s.defects := rfl
@[simp] theorem State.later_stubs (s : State) (a : Act) : (s.later a).stubs = s.stubs := rfl
@[simp] theorem State.later_pulls (s : State) (a : Act) : (s.later a).pulls = s.pulls := rfl
@[simp] theorem State.later_repoints (s : State) (a : Act) : (s.later a).repoints = s.repoints := rfl
@[simp] theorem State.later_boot (s : State) (a : Act) : (s.later a).boot = s.boot := rfl
@[simp] theorem State.later_devid (s : State) (a : Act) : (s.later a).devid = s.devid := rfl
@[simp] theorem State.later_fwver (s : State) (a : Act) : (s.later a).fwver = s.fwver := rfl
@[simp] theorem State.later_bundleHash (s : State) (a : Act) : (s.later a).bundleHash = s.bundleHash := rfl
@[simp] theorem State.later_bundle (s : State) (a : Act) : (s.later a).bundle = s.bundle := rfl
@[simp] theorem State.later_powercap (s : State) (a : Act) : (s.later a).powercap = s.powercap := rfl
@[simp] theorem State.later_issueK (s : State) (a : Act) : (s.later a).issueK = s.issueK := rfl
@[simp] theorem State.later_throttled (s : State) (a : Act) : (s.later a).throttled = s.throttled := rfl
@[simp] theorem State.later_trip (s : State) (a : Act) : (s.later a).trip = s.trip := rfl
@[simp] theorem State.later_templim (s : State) (a : Act) : (s.later a).templim = s.templim := rfl
@[simp] theorem State.later_ecc (s : State) (a : Act) : (s.later a).ecc = s.ecc := rfl
@[simp] theorem State.later_errs (s : State) (a : Act) : (s.later a).errs = s.errs := rfl
@[simp] theorem State.later_wasReset (s : State) (a : Act) : (s.later a).wasReset = s.wasReset := rfl
@[simp] theorem State.later_grants (s : State) (a : Act) : (s.later a).grants = s.grants := rfl
@[simp] theorem State.later_badHops (s : State) (a : Act) : (s.later a).badHops = s.badHops := rfl

@[simp] theorem State.laterAll_tick (s : State) (l : List Act) : (s.laterAll l).tick = s.tick := rfl
@[simp] theorem State.laterAll_cur (s : State) (l : List Act) : (s.laterAll l).cur = s.cur := rfl
@[simp] theorem State.laterAll_timers (s : State) (l : List Act) : (s.laterAll l).timers = s.timers := rfl
@[simp] theorem State.laterAll_inputs (s : State) (l : List Act) : (s.laterAll l).inputs = s.inputs := rfl
@[simp] theorem State.laterAll_outbox (s : State) (l : List Act) : (s.laterAll l).outbox = s.outbox := rfl
@[simp] theorem State.laterAll_tiles (s : State) (l : List Act) : (s.laterAll l).tiles = s.tiles := rfl
@[simp] theorem State.laterAll_stks (s : State) (l : List Act) : (s.laterAll l).stks = s.stks := rfl
@[simp] theorem State.laterAll_mem (s : State) (l : List Act) : (s.laterAll l).mem = s.mem := rfl
@[simp] theorem State.laterAll_ctxs (s : State) (l : List Act) : (s.laterAll l).ctxs = s.ctxs := rfl
@[simp] theorem State.laterAll_parts (s : State) (l : List Act) : (s.laterAll l).parts = s.parts := rfl
@[simp] theorem State.laterAll_mgq (s : State) (l : List Act) : (s.laterAll l).mgq = s.mgq := rfl
@[simp] theorem State.laterAll_launches (s : State) (l : List Act) : (s.laterAll l).launches = s.launches := rfl
@[simp] theorem State.laterAll_insts (s : State) (l : List Act) : (s.laterAll l).insts = s.insts := rfl
@[simp] theorem State.laterAll_cache (s : State) (l : List Act) : (s.laterAll l).cache = s.cache := rfl
@[simp] theorem State.laterAll_images (s : State) (l : List Act) : (s.laterAll l).images = s.images := rfl
@[simp] theorem State.laterAll_origins (s : State) (l : List Act) : (s.laterAll l).origins = s.origins := rfl
@[simp] theorem State.laterAll_nextId (s : State) (l : List Act) : (s.laterAll l).nextId = s.nextId := rfl
@[simp] theorem State.laterAll_nextAge (s : State) (l : List Act) : (s.laterAll l).nextAge = s.nextAge := rfl
@[simp] theorem State.laterAll_closes (s : State) (l : List Act) : (s.laterAll l).closes = s.closes := rfl
@[simp] theorem State.laterAll_remote (s : State) (l : List Act) : (s.laterAll l).remote = s.remote := rfl
@[simp] theorem State.laterAll_hostOps (s : State) (l : List Act) : (s.laterAll l).hostOps = s.hostOps := rfl
@[simp] theorem State.laterAll_net (s : State) (l : List Act) : (s.laterAll l).net = s.net := rfl
@[simp] theorem State.laterAll_links (s : State) (l : List Act) : (s.laterAll l).links = s.links := rfl
@[simp] theorem State.laterAll_planes (s : State) (l : List Act) : (s.laterAll l).planes = s.planes := rfl
@[simp] theorem State.laterAll_buses (s : State) (l : List Act) : (s.laterAll l).buses = s.buses := rfl
@[simp] theorem State.laterAll_defects (s : State) (l : List Act) : (s.laterAll l).defects = s.defects := rfl
@[simp] theorem State.laterAll_stubs (s : State) (l : List Act) : (s.laterAll l).stubs = s.stubs := rfl
@[simp] theorem State.laterAll_pulls (s : State) (l : List Act) : (s.laterAll l).pulls = s.pulls := rfl
@[simp] theorem State.laterAll_repoints (s : State) (l : List Act) : (s.laterAll l).repoints = s.repoints := rfl
@[simp] theorem State.laterAll_boot (s : State) (l : List Act) : (s.laterAll l).boot = s.boot := rfl
@[simp] theorem State.laterAll_devid (s : State) (l : List Act) : (s.laterAll l).devid = s.devid := rfl
@[simp] theorem State.laterAll_fwver (s : State) (l : List Act) : (s.laterAll l).fwver = s.fwver := rfl
@[simp] theorem State.laterAll_bundleHash (s : State) (l : List Act) : (s.laterAll l).bundleHash = s.bundleHash := rfl
@[simp] theorem State.laterAll_bundle (s : State) (l : List Act) : (s.laterAll l).bundle = s.bundle := rfl
@[simp] theorem State.laterAll_powercap (s : State) (l : List Act) : (s.laterAll l).powercap = s.powercap := rfl
@[simp] theorem State.laterAll_issueK (s : State) (l : List Act) : (s.laterAll l).issueK = s.issueK := rfl
@[simp] theorem State.laterAll_throttled (s : State) (l : List Act) : (s.laterAll l).throttled = s.throttled := rfl
@[simp] theorem State.laterAll_trip (s : State) (l : List Act) : (s.laterAll l).trip = s.trip := rfl
@[simp] theorem State.laterAll_templim (s : State) (l : List Act) : (s.laterAll l).templim = s.templim := rfl
@[simp] theorem State.laterAll_ecc (s : State) (l : List Act) : (s.laterAll l).ecc = s.ecc := rfl
@[simp] theorem State.laterAll_errs (s : State) (l : List Act) : (s.laterAll l).errs = s.errs := rfl
@[simp] theorem State.laterAll_wasReset (s : State) (l : List Act) : (s.laterAll l).wasReset = s.wasReset := rfl
@[simp] theorem State.laterAll_grants (s : State) (l : List Act) : (s.laterAll l).grants = s.grants := rfl
@[simp] theorem State.laterAll_badHops (s : State) (l : List Act) : (s.laterAll l).badHops = s.badHops := rfl

@[simp] theorem State.send_tick (s : State) (m : OutMsg) : (s.send m).tick = s.tick := rfl
@[simp] theorem State.send_cur (s : State) (m : OutMsg) : (s.send m).cur = s.cur := rfl
@[simp] theorem State.send_acts (s : State) (m : OutMsg) : (s.send m).acts = s.acts := rfl
@[simp] theorem State.send_timers (s : State) (m : OutMsg) : (s.send m).timers = s.timers := rfl
@[simp] theorem State.send_inputs (s : State) (m : OutMsg) : (s.send m).inputs = s.inputs := rfl
@[simp] theorem State.send_tiles (s : State) (m : OutMsg) : (s.send m).tiles = s.tiles := rfl
@[simp] theorem State.send_stks (s : State) (m : OutMsg) : (s.send m).stks = s.stks := rfl
@[simp] theorem State.send_mem (s : State) (m : OutMsg) : (s.send m).mem = s.mem := rfl
@[simp] theorem State.send_ctxs (s : State) (m : OutMsg) : (s.send m).ctxs = s.ctxs := rfl
@[simp] theorem State.send_parts (s : State) (m : OutMsg) : (s.send m).parts = s.parts := rfl
@[simp] theorem State.send_mgq (s : State) (m : OutMsg) : (s.send m).mgq = s.mgq := rfl
@[simp] theorem State.send_launches (s : State) (m : OutMsg) : (s.send m).launches = s.launches := rfl
@[simp] theorem State.send_insts (s : State) (m : OutMsg) : (s.send m).insts = s.insts := rfl
@[simp] theorem State.send_cache (s : State) (m : OutMsg) : (s.send m).cache = s.cache := rfl
@[simp] theorem State.send_images (s : State) (m : OutMsg) : (s.send m).images = s.images := rfl
@[simp] theorem State.send_origins (s : State) (m : OutMsg) : (s.send m).origins = s.origins := rfl
@[simp] theorem State.send_nextId (s : State) (m : OutMsg) : (s.send m).nextId = s.nextId := rfl
@[simp] theorem State.send_nextAge (s : State) (m : OutMsg) : (s.send m).nextAge = s.nextAge := rfl
@[simp] theorem State.send_closes (s : State) (m : OutMsg) : (s.send m).closes = s.closes := rfl
@[simp] theorem State.send_remote (s : State) (m : OutMsg) : (s.send m).remote = s.remote := rfl
@[simp] theorem State.send_hostOps (s : State) (m : OutMsg) : (s.send m).hostOps = s.hostOps := rfl
@[simp] theorem State.send_net (s : State) (m : OutMsg) : (s.send m).net = s.net := rfl
@[simp] theorem State.send_links (s : State) (m : OutMsg) : (s.send m).links = s.links := rfl
@[simp] theorem State.send_planes (s : State) (m : OutMsg) : (s.send m).planes = s.planes := rfl
@[simp] theorem State.send_buses (s : State) (m : OutMsg) : (s.send m).buses = s.buses := rfl
@[simp] theorem State.send_defects (s : State) (m : OutMsg) : (s.send m).defects = s.defects := rfl
@[simp] theorem State.send_stubs (s : State) (m : OutMsg) : (s.send m).stubs = s.stubs := rfl
@[simp] theorem State.send_pulls (s : State) (m : OutMsg) : (s.send m).pulls = s.pulls := rfl
@[simp] theorem State.send_repoints (s : State) (m : OutMsg) : (s.send m).repoints = s.repoints := rfl
@[simp] theorem State.send_boot (s : State) (m : OutMsg) : (s.send m).boot = s.boot := rfl
@[simp] theorem State.send_devid (s : State) (m : OutMsg) : (s.send m).devid = s.devid := rfl
@[simp] theorem State.send_fwver (s : State) (m : OutMsg) : (s.send m).fwver = s.fwver := rfl
@[simp] theorem State.send_bundleHash (s : State) (m : OutMsg) : (s.send m).bundleHash = s.bundleHash := rfl
@[simp] theorem State.send_bundle (s : State) (m : OutMsg) : (s.send m).bundle = s.bundle := rfl
@[simp] theorem State.send_powercap (s : State) (m : OutMsg) : (s.send m).powercap = s.powercap := rfl
@[simp] theorem State.send_issueK (s : State) (m : OutMsg) : (s.send m).issueK = s.issueK := rfl
@[simp] theorem State.send_throttled (s : State) (m : OutMsg) : (s.send m).throttled = s.throttled := rfl
@[simp] theorem State.send_trip (s : State) (m : OutMsg) : (s.send m).trip = s.trip := rfl
@[simp] theorem State.send_templim (s : State) (m : OutMsg) : (s.send m).templim = s.templim := rfl
@[simp] theorem State.send_ecc (s : State) (m : OutMsg) : (s.send m).ecc = s.ecc := rfl
@[simp] theorem State.send_errs (s : State) (m : OutMsg) : (s.send m).errs = s.errs := rfl
@[simp] theorem State.send_wasReset (s : State) (m : OutMsg) : (s.send m).wasReset = s.wasReset := rfl
@[simp] theorem State.send_grants (s : State) (m : OutMsg) : (s.send m).grants = s.grants := rfl
@[simp] theorem State.send_badHops (s : State) (m : OutMsg) : (s.send m).badHops = s.badHops := rfl

@[simp] theorem State.at_tick (s : State) (k due : Nat) (a : Act) : (s.at_ k due a).tick = s.tick := rfl
@[simp] theorem State.at_cur (s : State) (k due : Nat) (a : Act) : (s.at_ k due a).cur = s.cur := rfl
@[simp] theorem State.at_acts (s : State) (k due : Nat) (a : Act) : (s.at_ k due a).acts = s.acts := rfl
@[simp] theorem State.at_inputs (s : State) (k due : Nat) (a : Act) : (s.at_ k due a).inputs = s.inputs := rfl
@[simp] theorem State.at_outbox (s : State) (k due : Nat) (a : Act) : (s.at_ k due a).outbox = s.outbox := rfl
@[simp] theorem State.at_tiles (s : State) (k due : Nat) (a : Act) : (s.at_ k due a).tiles = s.tiles := rfl
@[simp] theorem State.at_stks (s : State) (k due : Nat) (a : Act) : (s.at_ k due a).stks = s.stks := rfl
@[simp] theorem State.at_mem (s : State) (k due : Nat) (a : Act) : (s.at_ k due a).mem = s.mem := rfl
@[simp] theorem State.at_ctxs (s : State) (k due : Nat) (a : Act) : (s.at_ k due a).ctxs = s.ctxs := rfl
@[simp] theorem State.at_parts (s : State) (k due : Nat) (a : Act) : (s.at_ k due a).parts = s.parts := rfl
@[simp] theorem State.at_mgq (s : State) (k due : Nat) (a : Act) : (s.at_ k due a).mgq = s.mgq := rfl
@[simp] theorem State.at_launches (s : State) (k due : Nat) (a : Act) : (s.at_ k due a).launches = s.launches := rfl
@[simp] theorem State.at_insts (s : State) (k due : Nat) (a : Act) : (s.at_ k due a).insts = s.insts := rfl
@[simp] theorem State.at_cache (s : State) (k due : Nat) (a : Act) : (s.at_ k due a).cache = s.cache := rfl
@[simp] theorem State.at_images (s : State) (k due : Nat) (a : Act) : (s.at_ k due a).images = s.images := rfl
@[simp] theorem State.at_origins (s : State) (k due : Nat) (a : Act) : (s.at_ k due a).origins = s.origins := rfl
@[simp] theorem State.at_nextId (s : State) (k due : Nat) (a : Act) : (s.at_ k due a).nextId = s.nextId := rfl
@[simp] theorem State.at_nextAge (s : State) (k due : Nat) (a : Act) : (s.at_ k due a).nextAge = s.nextAge := rfl
@[simp] theorem State.at_closes (s : State) (k due : Nat) (a : Act) : (s.at_ k due a).closes = s.closes := rfl
@[simp] theorem State.at_remote (s : State) (k due : Nat) (a : Act) : (s.at_ k due a).remote = s.remote := rfl
@[simp] theorem State.at_hostOps (s : State) (k due : Nat) (a : Act) : (s.at_ k due a).hostOps = s.hostOps := rfl
@[simp] theorem State.at_net (s : State) (k due : Nat) (a : Act) : (s.at_ k due a).net = s.net := rfl
@[simp] theorem State.at_links (s : State) (k due : Nat) (a : Act) : (s.at_ k due a).links = s.links := rfl
@[simp] theorem State.at_planes (s : State) (k due : Nat) (a : Act) : (s.at_ k due a).planes = s.planes := rfl
@[simp] theorem State.at_buses (s : State) (k due : Nat) (a : Act) : (s.at_ k due a).buses = s.buses := rfl
@[simp] theorem State.at_defects (s : State) (k due : Nat) (a : Act) : (s.at_ k due a).defects = s.defects := rfl
@[simp] theorem State.at_stubs (s : State) (k due : Nat) (a : Act) : (s.at_ k due a).stubs = s.stubs := rfl
@[simp] theorem State.at_pulls (s : State) (k due : Nat) (a : Act) : (s.at_ k due a).pulls = s.pulls := rfl
@[simp] theorem State.at_repoints (s : State) (k due : Nat) (a : Act) : (s.at_ k due a).repoints = s.repoints := rfl
@[simp] theorem State.at_boot (s : State) (k due : Nat) (a : Act) : (s.at_ k due a).boot = s.boot := rfl
@[simp] theorem State.at_devid (s : State) (k due : Nat) (a : Act) : (s.at_ k due a).devid = s.devid := rfl
@[simp] theorem State.at_fwver (s : State) (k due : Nat) (a : Act) : (s.at_ k due a).fwver = s.fwver := rfl
@[simp] theorem State.at_bundleHash (s : State) (k due : Nat) (a : Act) : (s.at_ k due a).bundleHash = s.bundleHash := rfl
@[simp] theorem State.at_bundle (s : State) (k due : Nat) (a : Act) : (s.at_ k due a).bundle = s.bundle := rfl
@[simp] theorem State.at_powercap (s : State) (k due : Nat) (a : Act) : (s.at_ k due a).powercap = s.powercap := rfl
@[simp] theorem State.at_issueK (s : State) (k due : Nat) (a : Act) : (s.at_ k due a).issueK = s.issueK := rfl
@[simp] theorem State.at_throttled (s : State) (k due : Nat) (a : Act) : (s.at_ k due a).throttled = s.throttled := rfl
@[simp] theorem State.at_trip (s : State) (k due : Nat) (a : Act) : (s.at_ k due a).trip = s.trip := rfl
@[simp] theorem State.at_templim (s : State) (k due : Nat) (a : Act) : (s.at_ k due a).templim = s.templim := rfl
@[simp] theorem State.at_ecc (s : State) (k due : Nat) (a : Act) : (s.at_ k due a).ecc = s.ecc := rfl
@[simp] theorem State.at_errs (s : State) (k due : Nat) (a : Act) : (s.at_ k due a).errs = s.errs := rfl
@[simp] theorem State.at_wasReset (s : State) (k due : Nat) (a : Act) : (s.at_ k due a).wasReset = s.wasReset := rfl
@[simp] theorem State.at_grants (s : State) (k due : Nat) (a : Act) : (s.at_ k due a).grants = s.grants := rfl
@[simp] theorem State.at_badHops (s : State) (k due : Nat) (a : Act) : (s.at_ k due a).badHops = s.badHops := rfl

@[simp] theorem State.rearm_tick (s : State) (k due : Nat) (a : Act) : (s.rearm k due a).tick = s.tick := rfl
@[simp] theorem State.rearm_cur (s : State) (k due : Nat) (a : Act) : (s.rearm k due a).cur = s.cur := rfl
@[simp] theorem State.rearm_acts (s : State) (k due : Nat) (a : Act) : (s.rearm k due a).acts = s.acts := rfl
@[simp] theorem State.rearm_inputs (s : State) (k due : Nat) (a : Act) : (s.rearm k due a).inputs = s.inputs := rfl
@[simp] theorem State.rearm_outbox (s : State) (k due : Nat) (a : Act) : (s.rearm k due a).outbox = s.outbox := rfl
@[simp] theorem State.rearm_tiles (s : State) (k due : Nat) (a : Act) : (s.rearm k due a).tiles = s.tiles := rfl
@[simp] theorem State.rearm_stks (s : State) (k due : Nat) (a : Act) : (s.rearm k due a).stks = s.stks := rfl
@[simp] theorem State.rearm_mem (s : State) (k due : Nat) (a : Act) : (s.rearm k due a).mem = s.mem := rfl
@[simp] theorem State.rearm_ctxs (s : State) (k due : Nat) (a : Act) : (s.rearm k due a).ctxs = s.ctxs := rfl
@[simp] theorem State.rearm_parts (s : State) (k due : Nat) (a : Act) : (s.rearm k due a).parts = s.parts := rfl
@[simp] theorem State.rearm_mgq (s : State) (k due : Nat) (a : Act) : (s.rearm k due a).mgq = s.mgq := rfl
@[simp] theorem State.rearm_launches (s : State) (k due : Nat) (a : Act) : (s.rearm k due a).launches = s.launches := rfl
@[simp] theorem State.rearm_insts (s : State) (k due : Nat) (a : Act) : (s.rearm k due a).insts = s.insts := rfl
@[simp] theorem State.rearm_cache (s : State) (k due : Nat) (a : Act) : (s.rearm k due a).cache = s.cache := rfl
@[simp] theorem State.rearm_images (s : State) (k due : Nat) (a : Act) : (s.rearm k due a).images = s.images := rfl
@[simp] theorem State.rearm_origins (s : State) (k due : Nat) (a : Act) : (s.rearm k due a).origins = s.origins := rfl
@[simp] theorem State.rearm_nextId (s : State) (k due : Nat) (a : Act) : (s.rearm k due a).nextId = s.nextId := rfl
@[simp] theorem State.rearm_nextAge (s : State) (k due : Nat) (a : Act) : (s.rearm k due a).nextAge = s.nextAge := rfl
@[simp] theorem State.rearm_closes (s : State) (k due : Nat) (a : Act) : (s.rearm k due a).closes = s.closes := rfl
@[simp] theorem State.rearm_remote (s : State) (k due : Nat) (a : Act) : (s.rearm k due a).remote = s.remote := rfl
@[simp] theorem State.rearm_hostOps (s : State) (k due : Nat) (a : Act) : (s.rearm k due a).hostOps = s.hostOps := rfl
@[simp] theorem State.rearm_net (s : State) (k due : Nat) (a : Act) : (s.rearm k due a).net = s.net := rfl
@[simp] theorem State.rearm_links (s : State) (k due : Nat) (a : Act) : (s.rearm k due a).links = s.links := rfl
@[simp] theorem State.rearm_planes (s : State) (k due : Nat) (a : Act) : (s.rearm k due a).planes = s.planes := rfl
@[simp] theorem State.rearm_buses (s : State) (k due : Nat) (a : Act) : (s.rearm k due a).buses = s.buses := rfl
@[simp] theorem State.rearm_defects (s : State) (k due : Nat) (a : Act) : (s.rearm k due a).defects = s.defects := rfl
@[simp] theorem State.rearm_stubs (s : State) (k due : Nat) (a : Act) : (s.rearm k due a).stubs = s.stubs := rfl
@[simp] theorem State.rearm_pulls (s : State) (k due : Nat) (a : Act) : (s.rearm k due a).pulls = s.pulls := rfl
@[simp] theorem State.rearm_repoints (s : State) (k due : Nat) (a : Act) : (s.rearm k due a).repoints = s.repoints := rfl
@[simp] theorem State.rearm_boot (s : State) (k due : Nat) (a : Act) : (s.rearm k due a).boot = s.boot := rfl
@[simp] theorem State.rearm_devid (s : State) (k due : Nat) (a : Act) : (s.rearm k due a).devid = s.devid := rfl
@[simp] theorem State.rearm_fwver (s : State) (k due : Nat) (a : Act) : (s.rearm k due a).fwver = s.fwver := rfl
@[simp] theorem State.rearm_bundleHash (s : State) (k due : Nat) (a : Act) : (s.rearm k due a).bundleHash = s.bundleHash := rfl
@[simp] theorem State.rearm_bundle (s : State) (k due : Nat) (a : Act) : (s.rearm k due a).bundle = s.bundle := rfl
@[simp] theorem State.rearm_powercap (s : State) (k due : Nat) (a : Act) : (s.rearm k due a).powercap = s.powercap := rfl
@[simp] theorem State.rearm_issueK (s : State) (k due : Nat) (a : Act) : (s.rearm k due a).issueK = s.issueK := rfl
@[simp] theorem State.rearm_throttled (s : State) (k due : Nat) (a : Act) : (s.rearm k due a).throttled = s.throttled := rfl
@[simp] theorem State.rearm_trip (s : State) (k due : Nat) (a : Act) : (s.rearm k due a).trip = s.trip := rfl
@[simp] theorem State.rearm_templim (s : State) (k due : Nat) (a : Act) : (s.rearm k due a).templim = s.templim := rfl
@[simp] theorem State.rearm_ecc (s : State) (k due : Nat) (a : Act) : (s.rearm k due a).ecc = s.ecc := rfl
@[simp] theorem State.rearm_errs (s : State) (k due : Nat) (a : Act) : (s.rearm k due a).errs = s.errs := rfl
@[simp] theorem State.rearm_wasReset (s : State) (k due : Nat) (a : Act) : (s.rearm k due a).wasReset = s.wasReset := rfl
@[simp] theorem State.rearm_grants (s : State) (k due : Nat) (a : Act) : (s.rearm k due a).grants = s.grants := rfl
@[simp] theorem State.rearm_badHops (s : State) (k due : Nat) (a : Act) : (s.rearm k due a).badHops = s.badHops := rfl

@[simp] theorem Firing.setSlot_id (x : Firing) (d : Nat) (v : Word) : (x.setSlot d v).id = x.id := rfl
@[simp] theorem Firing.setSlot_entry (x : Firing) (d : Nat) (v : Word) : (x.setSlot d v).entry = x.entry := rfl
@[simp] theorem Firing.setSlot_node (x : Firing) (d : Nat) (v : Word) : (x.setSlot d v).node = x.node := rfl
@[simp] theorem Firing.setSlot_tag (x : Firing) (d : Nat) (v : Word) : (x.setSlot d v).tag = x.tag := rfl
@[simp] theorem Firing.setSlot_inst (x : Firing) (d : Nat) (v : Word) : (x.setSlot d v).inst = x.inst := rfl
@[simp] theorem Firing.setSlot_st (x : Firing) (d : Nat) (v : Word) : (x.setSlot d v).st = x.st := rfl
@[simp] theorem Firing.setSlot_wait (x : Firing) (d : Nat) (v : Word) : (x.setSlot d v).wait = x.wait := rfl
@[simp] theorem Firing.setSlot_held (x : Firing) (d : Nat) (v : Word) : (x.setSlot d v).held = x.held := rfl
@[simp] theorem Firing.setSlot_failed (x : Firing) (d : Nat) (v : Word) : (x.setSlot d v).failed = x.failed := rfl
@[simp] theorem Firing.setSlot_pc (x : Firing) (d : Nat) (v : Word) : (x.setSlot d v).pc = x.pc := rfl
@[simp] theorem Firing.setSlot_age (x : Firing) (d : Nat) (v : Word) : (x.setSlot d v).age = x.age := rfl
@[simp] theorem Firing.setSlot_count (x : Firing) (d : Nat) (v : Word) : (x.setSlot d v).count = x.count := rfl
@[simp] theorem Firing.setSlot_frame (x : Firing) (d : Nat) (v : Word) : (x.setSlot d v).frame = x.frame := rfl
@[simp] theorem Firing.setSlot_preds (x : Firing) (d : Nat) (v : Word) : (x.setSlot d v).preds = x.preds := rfl
@[simp] theorem Firing.setSlot_loops (x : Firing) (d : Nat) (v : Word) : (x.setSlot d v).loops = x.loops := rfl
@[simp] theorem Firing.setSlot_rstack (x : Firing) (d : Nat) (v : Word) : (x.setSlot d v).rstack = x.rstack := rfl
@[simp] theorem Firing.setSlot_fpf (x : Firing) (d : Nat) (v : Word) : (x.setSlot d v).fpf = x.fpf := rfl
@[simp] theorem Firing.setSlot_ppr (x : Firing) (d : Nat) (v : Word) : (x.setSlot d v).ppr = x.ppr := rfl
@[simp] theorem Firing.setSlot_wins (x : Firing) (d : Nat) (v : Word) : (x.setSlot d v).wins = x.wins := rfl
@[simp] theorem Firing.setSlot_closing (x : Firing) (d : Nat) (v : Word) : (x.setSlot d v).closing = x.closing := rfl
@[simp] theorem Firing.setSlot_resv (x : Firing) (d : Nat) (v : Word) : (x.setSlot d v).resv = x.resv := rfl
@[simp] theorem Firing.setSlot_steer (x : Firing) (d : Nat) (v : Word) : (x.setSlot d v).steer = x.steer := rfl
@[simp] theorem Firing.setSlot_waveLast (x : Firing) (d : Nat) (v : Word) : (x.setSlot d v).waveLast = x.waveLast := rfl
@[simp] theorem Firing.setSlot_pend (x : Firing) (d : Nat) (v : Word) : (x.setSlot d v).pend = x.pend := rfl
@[simp] theorem Firing.setSlot_out (x : Firing) (d : Nat) (v : Word) : (x.setSlot d v).out = x.out := rfl
@[simp] theorem Firing.setSlot_exitStatus (x : Firing) (d : Nat) (v : Word) : (x.setSlot d v).exitStatus = x.exitStatus := rfl
@[simp] theorem Firing.setSlot_inputs (x : Firing) (d : Nat) (v : Word) : (x.setSlot d v).inputs = x.inputs := rfl
@[simp] theorem Firing.setSlot_recvd (x : Firing) (d : Nat) (v : Word) : (x.setSlot d v).recvd = x.recvd := rfl
@[simp] theorem Firing.setSlot_reserved (x : Firing) (d : Nat) (v : Word) : (x.setSlot d v).reserved = x.reserved := rfl
@[simp] theorem Firing.setSlot_cleared (x : Firing) (d : Nat) (v : Word) : (x.setSlot d v).cleared = x.cleared := rfl
@[simp] theorem Firing.setSlot_committed (x : Firing) (d : Nat) (v : Word) : (x.setSlot d v).committed = x.committed := rfl
@[simp] theorem Firing.setSlot_retries (x : Firing) (d : Nat) (v : Word) : (x.setSlot d v).retries = x.retries := rfl
@[simp] theorem Firing.setSlot_retried (x : Firing) (d : Nat) (v : Word) : (x.setSlot d v).retried = x.retried := rfl
@[simp] theorem Firing.setSlot_rstep (x : Firing) (d : Nat) (v : Word) : (x.setSlot d v).rstep = x.rstep := rfl
@[simp] theorem Firing.setSlot_fromDrain (x : Firing) (d : Nat) (v : Word) : (x.setSlot d v).fromDrain = x.fromDrain := rfl
@[simp] theorem Firing.setSlot_resend (x : Firing) (d : Nat) (v : Word) : (x.setSlot d v).resend = x.resend := rfl
@[simp] theorem Firing.setSlot_granted (x : Firing) (d : Nat) (v : Word) : (x.setSlot d v).granted = x.granted := rfl
@[simp] theorem Firing.setSlot_reeval (x : Firing) (d : Nat) (v : Word) : (x.setSlot d v).reeval = x.reeval := rfl
@[simp] theorem Firing.setSlot_banks (x : Firing) (d : Nat) (v : Word) : (x.setSlot d v).banks = x.banks := rfl
@[simp] theorem Firing.setSlot_fetched (x : Firing) (d : Nat) (v : Word) : (x.setSlot d v).fetched = x.fetched := rfl
@[simp] theorem Firing.setSlot_spilled (x : Firing) (d : Nat) (v : Word) : (x.setSlot d v).spilled = x.spilled := rfl
@[simp] theorem Firing.setSlot_unreached (x : Firing) (d : Nat) (v : Word) : (x.setSlot d v).unreached = x.unreached := rfl
@[simp] theorem Firing.setSlot_cause (x : Firing) (d : Nat) (v : Word) : (x.setSlot d v).cause = x.cause := rfl
@[simp] theorem Firing.setSlot_debug (x : Firing) (d : Nat) (v : Word) : (x.setSlot d v).debug = x.debug := rfl

@[simp] theorem Firing.setPred_id (x : Firing) (p : BitVec 3) (v : Bool) : (x.setPred p v).id = x.id := rfl
@[simp] theorem Firing.setPred_entry (x : Firing) (p : BitVec 3) (v : Bool) : (x.setPred p v).entry = x.entry := rfl
@[simp] theorem Firing.setPred_node (x : Firing) (p : BitVec 3) (v : Bool) : (x.setPred p v).node = x.node := rfl
@[simp] theorem Firing.setPred_tag (x : Firing) (p : BitVec 3) (v : Bool) : (x.setPred p v).tag = x.tag := rfl
@[simp] theorem Firing.setPred_inst (x : Firing) (p : BitVec 3) (v : Bool) : (x.setPred p v).inst = x.inst := rfl
@[simp] theorem Firing.setPred_st (x : Firing) (p : BitVec 3) (v : Bool) : (x.setPred p v).st = x.st := rfl
@[simp] theorem Firing.setPred_wait (x : Firing) (p : BitVec 3) (v : Bool) : (x.setPred p v).wait = x.wait := rfl
@[simp] theorem Firing.setPred_held (x : Firing) (p : BitVec 3) (v : Bool) : (x.setPred p v).held = x.held := rfl
@[simp] theorem Firing.setPred_failed (x : Firing) (p : BitVec 3) (v : Bool) : (x.setPred p v).failed = x.failed := rfl
@[simp] theorem Firing.setPred_pc (x : Firing) (p : BitVec 3) (v : Bool) : (x.setPred p v).pc = x.pc := rfl
@[simp] theorem Firing.setPred_age (x : Firing) (p : BitVec 3) (v : Bool) : (x.setPred p v).age = x.age := rfl
@[simp] theorem Firing.setPred_count (x : Firing) (p : BitVec 3) (v : Bool) : (x.setPred p v).count = x.count := rfl
@[simp] theorem Firing.setPred_frame (x : Firing) (p : BitVec 3) (v : Bool) : (x.setPred p v).frame = x.frame := rfl
@[simp] theorem Firing.setPred_slots (x : Firing) (p : BitVec 3) (v : Bool) : (x.setPred p v).slots = x.slots := rfl
@[simp] theorem Firing.setPred_loops (x : Firing) (p : BitVec 3) (v : Bool) : (x.setPred p v).loops = x.loops := rfl
@[simp] theorem Firing.setPred_rstack (x : Firing) (p : BitVec 3) (v : Bool) : (x.setPred p v).rstack = x.rstack := rfl
@[simp] theorem Firing.setPred_fpf (x : Firing) (p : BitVec 3) (v : Bool) : (x.setPred p v).fpf = x.fpf := rfl
@[simp] theorem Firing.setPred_ppr (x : Firing) (p : BitVec 3) (v : Bool) : (x.setPred p v).ppr = x.ppr := rfl
@[simp] theorem Firing.setPred_wins (x : Firing) (p : BitVec 3) (v : Bool) : (x.setPred p v).wins = x.wins := rfl
@[simp] theorem Firing.setPred_closing (x : Firing) (p : BitVec 3) (v : Bool) : (x.setPred p v).closing = x.closing := rfl
@[simp] theorem Firing.setPred_resv (x : Firing) (p : BitVec 3) (v : Bool) : (x.setPred p v).resv = x.resv := rfl
@[simp] theorem Firing.setPred_steer (x : Firing) (p : BitVec 3) (v : Bool) : (x.setPred p v).steer = x.steer := rfl
@[simp] theorem Firing.setPred_waveLast (x : Firing) (p : BitVec 3) (v : Bool) : (x.setPred p v).waveLast = x.waveLast := rfl
@[simp] theorem Firing.setPred_pend (x : Firing) (p : BitVec 3) (v : Bool) : (x.setPred p v).pend = x.pend := rfl
@[simp] theorem Firing.setPred_out (x : Firing) (p : BitVec 3) (v : Bool) : (x.setPred p v).out = x.out := rfl
@[simp] theorem Firing.setPred_exitStatus (x : Firing) (p : BitVec 3) (v : Bool) : (x.setPred p v).exitStatus = x.exitStatus := rfl
@[simp] theorem Firing.setPred_inputs (x : Firing) (p : BitVec 3) (v : Bool) : (x.setPred p v).inputs = x.inputs := rfl
@[simp] theorem Firing.setPred_recvd (x : Firing) (p : BitVec 3) (v : Bool) : (x.setPred p v).recvd = x.recvd := rfl
@[simp] theorem Firing.setPred_reserved (x : Firing) (p : BitVec 3) (v : Bool) : (x.setPred p v).reserved = x.reserved := rfl
@[simp] theorem Firing.setPred_cleared (x : Firing) (p : BitVec 3) (v : Bool) : (x.setPred p v).cleared = x.cleared := rfl
@[simp] theorem Firing.setPred_committed (x : Firing) (p : BitVec 3) (v : Bool) : (x.setPred p v).committed = x.committed := rfl
@[simp] theorem Firing.setPred_retries (x : Firing) (p : BitVec 3) (v : Bool) : (x.setPred p v).retries = x.retries := rfl
@[simp] theorem Firing.setPred_retried (x : Firing) (p : BitVec 3) (v : Bool) : (x.setPred p v).retried = x.retried := rfl
@[simp] theorem Firing.setPred_rstep (x : Firing) (p : BitVec 3) (v : Bool) : (x.setPred p v).rstep = x.rstep := rfl
@[simp] theorem Firing.setPred_fromDrain (x : Firing) (p : BitVec 3) (v : Bool) : (x.setPred p v).fromDrain = x.fromDrain := rfl
@[simp] theorem Firing.setPred_resend (x : Firing) (p : BitVec 3) (v : Bool) : (x.setPred p v).resend = x.resend := rfl
@[simp] theorem Firing.setPred_granted (x : Firing) (p : BitVec 3) (v : Bool) : (x.setPred p v).granted = x.granted := rfl
@[simp] theorem Firing.setPred_reeval (x : Firing) (p : BitVec 3) (v : Bool) : (x.setPred p v).reeval = x.reeval := rfl
@[simp] theorem Firing.setPred_banks (x : Firing) (p : BitVec 3) (v : Bool) : (x.setPred p v).banks = x.banks := rfl
@[simp] theorem Firing.setPred_fetched (x : Firing) (p : BitVec 3) (v : Bool) : (x.setPred p v).fetched = x.fetched := rfl
@[simp] theorem Firing.setPred_spilled (x : Firing) (p : BitVec 3) (v : Bool) : (x.setPred p v).spilled = x.spilled := rfl
@[simp] theorem Firing.setPred_unreached (x : Firing) (p : BitVec 3) (v : Bool) : (x.setPred p v).unreached = x.unreached := rfl
@[simp] theorem Firing.setPred_cause (x : Firing) (p : BitVec 3) (v : Bool) : (x.setPred p v).cause = x.cause := rfl
@[simp] theorem Firing.setPred_debug (x : Firing) (p : BitVec 3) (v : Bool) : (x.setPred p v).debug = x.debug := rfl

/-! ## Reads after updates -/

theorem State.tile_setTile (s : State) (t u : TileId) (x : Tile) :
    (s.setTile t x).tile u = if tileKey u = tileKey t then x else s.tile u := by
  simp [State.tile, State.setTile, tabGet_tabSet]
@[simp] theorem State.tile_setTile_self (s : State) (t : TileId) (x : Tile) : (s.setTile t x).tile t = x := by
  simp [State.tile_setTile]
theorem State.stack_setStack (s : State) (k j : Nat) (x : Stack) : (s.setStack k x).stack j = if j = k then x else s.stack j := by
  simp [State.stack, State.setStack, tabGet_tabSet]
@[simp] theorem State.stack_setStack_self (s : State) (k : Nat) (x : Stack) : (s.setStack k x).stack k = x := by
  simp [State.stack_setStack]
theorem State.ctx_setCtx (s : State) (c d : Nat) (x : Ctx) : (s.setCtx c x).ctx d = if d = c then x else s.ctx d := by
  simp [State.ctx, State.setCtx, tabGet_tabSet]
@[simp] theorem State.ctx_setCtx_self (s : State) (c : Nat) (x : Ctx) : (s.setCtx c x).ctx c = x := by
  simp [State.ctx_setCtx]
theorem State.part_setPart (s : State) (p q : Nat) (x : Part) : (s.setPart p x).part q = if q = p then x else s.part q := by
  simp [State.part, State.setPart, tabGet_tabSet]
@[simp] theorem State.part_setPart_self (s : State) (p : Nat) (x : Part) : (s.setPart p x).part p = x := by
  simp [State.part_setPart]

/-- A firing of the tile is replaced where it stands. -/
theorem Tile.firing?_setFiring {x : Tile} {f g : Firing} (h : x.firing? f.id = some g) : (x.setFiring f).firing? f.id = some f := by
  simp only [Tile.firing?, Tile.setFiring] at h ⊢
  revert h
  generalize x.firings = l
  induction l with
  | nil => simp
  | cons y r ih =>
    by_cases hy : y.id = f.id
    · simp [hy]
    · simp [hy]
      simpa [hy] using ih

theorem State.firing?_setFiring {s : State} {t : TileId} {f g : Firing} (h : s.firing? t f.id = some g) :
    (s.setFiring t f).firing? t f.id = some f := by
  simp only [State.firing?, State.setFiring, State.tile_setTile_self]
  exact Tile.firing?_setFiring h

/-- The other firings of the tile stand as they did. -/
theorem Tile.firing?_setFiring_ne {x : Tile} {f : Firing} {i : Nat} (h : i ≠ f.id) : (x.setFiring f).firing? i = x.firing? i := by
  simp only [Tile.firing?, Tile.setFiring]
  generalize x.firings = l
  induction l with
  | nil => rfl
  | cons y r ih =>
    by_cases hy : y.id = f.id
    · have h2 : ¬ f.id = i := fun e => h e.symm
      simp [hy, h2, ih]
    · by_cases hi : y.id = i
      · subst hi; simp [hy]
      · simp [hy, hi, ih]

/-! ## A firing's slots -/

theorem Firing.slot_setSlot (f : Firing) (d e : Nat) (v : Word) (h : tabAbove 0 f.slots = true) :
    (f.setSlot d v).slot e = if e = d then v else f.slot e := by
  exact tabGet_tabPut (n := 0) 0#64 f.slots d e v h

end Sys2Proof.Machine
end

