-- ==== Sys2Proof/Laws/Issue.lean ====
section
/-! SUPPORT. Issue: everything that the wrapper of an instruction word can do, said once. -/

namespace Sys2Proof.Machine

theorem withFiring_next {s : State} {t : TileId} {i : Nat} {f : Firing} (hc : s.cur = some (t, i))
    (hf : s.firing? t i = some f) (k : TileId → Firing → State) : withFiring s k = .next (k t f) := by
  simp [withFiring, hc, hf]

/-- With no firing issuing, a word has nothing to act on. -/
theorem withFiring_none {s : State} (hc : s.cur = none) (k : TileId → Firing → State) : withFiring s k = .fault .noFiring := by
  simp [withFiring, hc]

theorem issueOn_illegal (t : TileId) (f : Firing) (g : BitVec 4) (r : WaveRole) (b : Ex Done) (s : State) :
    issueOn t f g r false b s = takeFault s t f { code := .illegal } := by
  simp [issueOn]

/-- Guarded off, a word that is no wave member only moves the program counter, and a boundary ends its wave. -/
theorem issueOn_off {f : Firing} {g : BitVec 4} (h : f.guard g = false) (t : TileId) (r : WaveRole) (b : Ex Done) (s : State)
    (hr : ∀ w, r ≠ .member w) : issueOn t f g r true b s = s.setFiring t (f.afterWave r).advance := by
  cases r <;> simp_all [issueOn]

theorem issueOn_done {f : Firing} {g : BitVec 4} (h : f.guard g = true) (t : TileId) (r : WaveRole) (d : Done) (s : State) :
    issueOn t f g r true (.ok d) s =
      if d.lost then d.s else d.s.setFiring t (if d.moved then d.f.afterWave r else (d.f.afterWave r).advance) := by
  cases hm : d.moved <;> simp [issueOn, h, hm]

theorem issueOn_fault {f : Firing} {g : BitVec 4} (h : f.guard g = true) (t : TileId) (r : WaveRole) (i : FInfo) (s : State) :
    issueOn t f g r true (.error (.fault i)) s = takeFault s t f i := by
  simp [issueOn, h]

/-- A word that waits at issue marks its firing and does nothing else. -/
theorem issueOn_hold {f : Firing} {g : BitVec 4} (h : f.guard g = true) (t : TileId) (r : WaveRole) (s : State) :
    issueOn t f g r true (.error .hold) s = s.setFiring t { f with held := true } := by
  simp [issueOn, h]

theorem issue_next {s : State} {t : TileId} {i : Nat} {f : Firing} (hc : s.cur = some (t, i))
    (hf : s.firing? t i = some f) (g : BitVec 4) (r : WaveRole) (legal : State → TileId → Firing → Bool)
    (body : State → TileId → Firing → Ex Done) :
    issue g r legal body s = .next (issueOn t f g r (legal s t f) (body s t f) s) := by
  simp [issue, withFiring_next hc hf]

/-- A word over the firing's own registers: its result, and the program counter moves on. -/
theorem issueReg_next {s : State} {t : TileId} {i unit : Nat} {f f' : Firing} {g : BitVec 4} {body : Firing → Ex Firing}
    (hc : s.cur = some (t, i)) (hf : s.firing? t i = some f) (hg : f.guard g = true)
    (hu : s.struck unit (tileKey t) = false) (hb : body f = .ok f') :
    issueReg g unit body s = .next (s.setFiring t f'.advance) := by
  simp [issueReg, withFiring_next hc hf, hb, hu, issueOn_done hg, Firing.afterWave]

/-- The same word when it meets a fault. -/
theorem issueReg_fault {s : State} {t : TileId} {i unit : Nat} {f : Firing} {g : BitVec 4} {body : Firing → Ex Firing} {e : FInfo}
    (hc : s.cur = some (t, i)) (hf : s.firing? t i = some f) (hg : f.guard g = true) (hb : body f = .error (.fault e)) :
    issueReg g unit body s = .next (takeFault s t f e) := by
  simp [issueReg, withFiring_next hc hf, hb, issueOn_fault hg]

theorem beyond_none {n : Nat} {l : List Nat} (h : ∀ d ∈ l, d < n) : beyond n l = none := by
  induction l with
  | nil => rfl
  | cons d r ih =>
    simp only [beyond]
    rw [if_pos (h d (by simp))]
    exact ih (fun e he => h e (by simp [he]))

/-- Slots within the frame with nothing to come may be named. -/
theorem need_ok {f : Firing} {l : List Nat} (h : ∀ d ∈ l, d < f.frame ∧ f.isPending d = false) : need f l = .ok () := by
  have h2 : l.any f.isPending = false := by
    simp only [List.any_eq_false]
    intro d hd
    simp [(h d hd).2]
  simp [need, beyond_none (fun d hd => (h d hd).1), h2]

/-- A slot beyond the frame raises SLOT with its number. -/
theorem need_slot {f : Firing} {l : List Nat} {d : Nat} (h : beyond f.frame l = some d) :
    need f l = .error (.fault { code := .slot, detail := d }) := by
  simp [need, h, raise]

end Sys2Proof.Machine
end

