-- ==== Sys2Proof/Laws/Memory.lean ====
section
/-! SUPPORT. Memory operations: what a read after a write gives, and that every write keeps the canonical form. -/

namespace Sys2Proof.Machine

theorem wf_above {m : List Host.Cell} (h : Memory.wf m = true) : tabAbove 0 m = true := by
  simp only [Memory.wf, tabWf, Bool.and_eq_true] at h; exact h.1

/-- A write of bytes keeps the canonical form. -/
theorem memPutBytes_wf {m : List Host.Cell} (h : Memory.wf m = true) (k : Nat) (b : List Byte) :
    Memory.wf (memPutBytes m k b) = true := by
  induction b generalizing m k with
  | nil => exact h
  | cons x r ih => exact ih (tabWf_tabPut h) (k + 1)

/-- A byte after a write: the byte written there, or what stood there. -/
theorem memPutBytes_get {m : List Host.Cell} (h : Memory.wf m = true) (k : Nat) (b : List Byte) (a : Nat) :
    tabGet 0 (memPutBytes m k b) a = if k ≤ a ∧ a < k + b.length then b.getD (a - k) 0 else tabGet 0 m a := by
  induction b generalizing m k with
  | nil => simp only [memPutBytes, List.length_nil]; rw [if_neg (by omega)]
  | cons x r ih =>
    simp only [memPutBytes]
    rw [ih (tabWf_tabPut h), tabGet_tabPut (n := 0) 0 m k a x (wf_above h)]
    simp only [List.length_cons]
    by_cases h1 : a = k
    · subst h1; simp
    · by_cases h2 : k + 1 ≤ a ∧ a < k + 1 + r.length
      · rw [if_pos h2, if_pos (by omega)]
        have : a - k = (a - (k + 1)) + 1 := by omega
        simp [this]
      · rw [if_neg h2, if_neg h1, if_neg (by omega)]

/-- A masked write keeps the canonical form. -/
theorem maskPut_wf {m : List Host.Cell} (h : Memory.wf m = true) (k data mask n : Nat) :
    Memory.wf (maskPut m k data mask n) = true := by
  induction n with
  | zero => exact h
  | succ n ih =>
    simp only [maskPut]
    split
    · exact tabWf_tabPut ih
    · exact ih

/-- A byte after a masked write. -/
theorem maskPut_get {m : List Host.Cell} (h : Memory.wf m = true) (k data mask n a : Nat) :
    tabGet 0 (maskPut m k data mask n) a =
      if k ≤ a ∧ a < k + n ∧ mask.testBit (a - k) = true then BitVec.ofNat 8 (data / 2 ^ (8 * (a - k))) else tabGet 0 m a := by
  induction n with
  | zero => simp only [maskPut]; rw [if_neg (by omega)]
  | succ n ih =>
    simp only [maskPut]
    split
    · rename_i hb
      rw [tabGet_tabPut (n := 0) 0 _ _ a _ (wf_above (maskPut_wf h k data mask n)), ih]
      by_cases h1 : a = k + n
      · subst h1
        have : k + n - k = n := by omega
        simp [this, hb]
      · rw [if_neg h1]
        by_cases h2 : k ≤ a ∧ a < k + n ∧ mask.testBit (a - k) = true
        · rw [if_pos h2, if_pos ⟨h2.1, by omega, h2.2.2⟩]
        · rw [if_neg h2, if_neg (fun h3 => h2 ⟨h3.1, by omega, h3.2.2⟩)]
    · rename_i hb
      rw [ih]
      by_cases h2 : k ≤ a ∧ a < k + n ∧ mask.testBit (a - k) = true
      · rw [if_pos h2, if_pos ⟨h2.1, by omega, h2.2.2⟩]
      · rw [if_neg h2, if_neg]
        rintro ⟨h3, h4, h5⟩
        by_cases h6 : a = k + n
        · subst h6
          have : k + n - k = n := by omega
          rw [this] at h5
          exact hb h5
        · exact h2 ⟨h3, by omega, h5⟩

@[simp] theorem post_mem (s : State) (q : QSel) (b : Nat) : (s.post q b).mem = s.mem := by
  simp only [State.post, State.later, State.setQueue]
  split <;> rfl

/-- A write of a line at its home changes the bytes of the mask and no other, or, on a failed bus, nothing. -/
theorem writeMasked_mem (s : State) (line data mask : Nat) :
    (writeMasked s line data mask).mem = s.mem ∨ (writeMasked s line data mask).mem = maskPut s.mem line data mask 128 := by
  unfold writeMasked
  split
  · exact .inl rfl
  · split
    · exact .inl (by simp [dropWrite])
    · exact .inr rfl

theorem writeMasked_wf {s : State} (h : Memory.wf s.mem = true) (line data mask : Nat) :
    Memory.wf (writeMasked s line data mask).mem = true := by
  rcases writeMasked_mem s line data mask with e | e
  · rw [e]; exact h
  · rw [e]; exact maskPut_wf h _ _ _ _

theorem homeWrite_wf {s : State} (h : Memory.wf s.mem = true) (k : Nat) (b : List Byte) :
    Memory.wf (homeWrite s k b).mem = true := writeMasked_wf h _ _ _

theorem homeWriteAll_wf {s : State} (h : Memory.wf s.mem = true) (n k : Nat) (b : List Byte) :
    Memory.wf (homeWriteAll n s k b).mem = true := by
  induction n generalizing s k b with
  | zero => exact h
  | succ n ih =>
    simp only [homeWriteAll]
    split
    · exact h
    · exact ih (homeWrite_wf h _ _) _ _

@[simp] theorem dropHolder_mem (s : State) (h : Holder) : (dropHolder s h).mem = s.mem := rfl
@[simp] theorem setResv_mem (s : State) (h : Holder) (g : Nat) : (setResv s h g).mem = s.mem := rfl
@[simp] theorem clean_mem (s : State) (line : Nat) : (clean s line).mem = s.mem := rfl

/-- A home performs no request that leaves the canonical form. -/
theorem homeOp_wf {s : State} (h : Memory.wf s.mem = true) (who : Option Holder) (r : HomeReq) :
    Memory.wf (homeOp s who r).1.mem = true := by
  unfold homeOp
  cases r.kind <;> simp only
  case ldx => cases who <;> simpa using h
  case stx =>
    cases who with
    | none => exact h
    | some w =>
      simp only
      split
      · exact homeWrite_wf (by simpa using h) _ _
      · simpa using h
  case pinv =>
    split
    · exact h
    · split
      · simpa using h
      · simpa using writeMasked_wf h _ _ _
  all_goals first
    | exact h
    | exact homeWrite_wf h _ _
    | exact writeMasked_wf h _ _ _

theorem dlogAppend_wf {s : State} (h : Memory.wf s.mem = true) (stk ctx gpa : Nat) :
    Memory.wf (dlogAppend s stk ctx gpa).mem = true := by
  unfold dlogAppend
  simp only
  split
  · exact h
  · split
    · exact h
    · rw [State.setPart_mem]
      exact homeWrite_wf h _ _

theorem noteUse_wf {s : State} (h : Memory.wf s.mem = true) (p : XPage) : Memory.wf (noteUse s p).mem = true := by
  unfold noteUse
  split
  · exact h
  · split
    · exact h
    · exact dlogAppend_wf (homeWrite_wf (by exact h) _ _) _ _ _

end Sys2Proof.Machine
end

