-- ==== Sys2Proof/Laws/Words.lean ====
section
/-! SUPPORT. Fields of joined words, and the 672 bits of a plane flit (R393). -/

namespace Sys2Proof.Machine

/-- Bits of the lower part of two words joined. -/
theorem extract_low {n m : Nat} (x : BitVec n) (y : BitVec m) (lo k : Nat) (h : lo + k ≤ m) :
    (x ++ y).extractLsb' lo k = y.extractLsb' lo k := by
  ext i hi
  simp only [BitVec.getElem_extractLsb', BitVec.getLsbD_append]
  rw [if_pos (by omega)]
/-- Bits of the upper part. -/
theorem extract_high {n m : Nat} (x : BitVec n) (y : BitVec m) (lo k : Nat) (h : m ≤ lo) :
    (x ++ y).extractLsb' lo k = x.extractLsb' (lo - m) k := by
  ext i hi
  simp only [BitVec.getElem_extractLsb', BitVec.getLsbD_append]
  rw [if_neg (by omega)]; congr 1; omega
/-- All bits of a word. -/
theorem extract_all {n : Nat} (x : BitVec n) : x.extractLsb' 0 n = x := by
  ext i hi; simp

/-- A flit of a plane reads back from its 672 bits (R393). -/
theorem flitOfWord_flitWord (f : PFlit) : flitOfWord (flitWord f) = some f := by
  have b : (flitWord f).extractLsb' 0 640 = f.payload ++ flitHeader f := by
    simp only [flitWord]; rw [extract_low _ _ _ _ (by decide), extract_all]
  have p : (flitWord f).extractLsb' 640 16 = BitVec.ofNat 16 (parityBits (f.payload ++ flitHeader f).toNat 16) := by
    simp only [flitWord]; rw [extract_high _ _ _ _ (by decide), extract_low _ _ _ _ (by decide)]; exact extract_all _
  have e : ∀ lo k, lo + k ≤ 128 → (flitWord f).extractLsb' lo k = (flitHeader f).extractLsb' lo k := by
    intro lo k h; simp only [flitWord]; rw [extract_low _ _ _ _ (by omega), extract_low _ _ _ _ h]
  have hp : (flitWord f).extractLsb' 128 512 = f.payload := by
    simp only [flitWord]; rw [extract_low _ _ _ _ (by decide), extract_high _ _ _ _ (by decide)]; exact extract_all _
  have hr : (flitWord f).extractLsb' 656 6 = f.ring := by
    simp only [flitWord]
    rw [extract_high _ _ _ _ (by decide), extract_high _ _ _ _ (by decide), extract_low _ _ _ _ (by decide)]; exact extract_all _
  have ht : (flitWord f).getLsbD 671 = f.resent := by
    simp only [flitWord, BitVec.getLsbD_append]; simp
  have qs : (flitHeader f).extractLsb' 116 12 = f.src ∧ (flitHeader f).extractLsb' 108 8 = f.gid ∧ (flitHeader f).extractLsb' 104 4 = f.key ∧
      (flitHeader f).extractLsb' 100 4 = f.mtype ∧ (flitHeader f).extractLsb' 84 16 = f.cidx ∧ (flitHeader f).extractLsb' 77 7 = f.n ∧
      (flitHeader f).extractLsb' 74 3 = f.lty ∧ (flitHeader f).extractLsb' 72 2 = f.op ∧ (flitHeader f).extractLsb' 0 64 = f.pos := by
    refine ⟨?_, ?_, ?_, ?_, ?_, ?_, ?_, ?_, ?_⟩ <;> simp only [flitHeader] <;>
      (repeat (first | rw [extract_high _ _ _ _ (by decide)] | rw [extract_low _ _ _ _ (by decide)])) <;> exact extract_all _
  obtain ⟨h1, h2, h3, h4, h5, h6, h7, h8, h9⟩ := qs
  simp only [flitOfWord, b, p, ne_eq, not_true_eq_false, if_false, hp, hr, ht, e 116 12 (by decide), e 108 8 (by decide), e 104 4 (by decide),
    e 100 4 (by decide), e 84 16 (by decide), e 77 7 (by decide), e 74 3 (by decide), e 72 2 (by decide), e 0 64 (by decide),
    h1, h2, h3, h4, h5, h6, h7, h8, h9]

end Sys2Proof.Machine
end

