-- ==== Sys2Proof/Tests/Slice0.lean ====
section
/-! SUPPORT. Tests: terms that well-formedness refuses, words written out from the encodings of the spec, steps on small states, and for
every statement with hypotheses states and operands that meet them. -/

open Sys2Proof Sys2Proof.Machine

namespace Sys2Proof.Tests

/-! A small machine: context 0 of partition 0 on tile (1, 0) of stack 0. Stage 1 and stage 2 map the first 512 MiB onto themselves; the
instance has one way of scratch. `va` is an address of its DRAM, `sa` one of its scratch. -/

def tT : TileId := { stk := 0, x := 1, y := 0 }
def va : Nat := 0xFC000000001000
def sa : Nat := 0xFE000000000000
def tMem : List Host.Cell := [(0x10000, 1), (0x10002, 2), (0x20000, 0x4F), (0x30000, 1), (0x30002, 4), (0x40000, 0x0F)]
def tCtx : Ctx := { part := some 0, s1root := [(0, 0x30001)], omap := [(0, 0x80000000)] }
def tPart : Part := { exist := true, dram := 0x100, s2root := [(0, 0x10001)], planes := 1, cols := 1 }
def tInst : Inst := { wordInst tT with sways := 1, armed := true }
/-- The machine with one tile. -/
def tM (x : Tile) : State :=
  { State.reset with boot := .running, devid := 0x1000, mem := tMem, ctxs := [(0, tCtx)], parts := [(0, tPart)], insts := [tInst]
                     stks := [(0, { banks := [(0, (0, 1))] })], tiles := [(tileKey tT, x)] }
/-- The machine whose firing f issues. -/
def tS (f : Firing) : State :=
  { tM { inst := some 0, code := [(0, { word := 0, header := true }), (1, { word := 0, header := false }), (2, { word := 0, header := false })]
         firings := [f], nextFid := 9 } with cur := some (tT, f.id) }
/-- Windows over 4 KiB of DRAM and of scratch. -/
def tWins : Tab Window :=
  [(0, { w := true, base := BitVec.ofNat 64 va, rowb := 4096, pitch := 4096, rows := 1, wid := 5, stk := 0, remote := false, key := 0 }),
   (1, { w := true, base := BitVec.ofNat 64 sa, rowb := 4096, pitch := 4096, rows := 1, wid := 6, stk := 0, remote := false, key := 0 })]
/-- A firing with an address of DRAM in slot 1, of scratch in slot 2, small numbers in slots 3 and 4, and an address without an owner in slot 14, a route tag in slot 15. -/
def tF : Firing :=
  { wordFiring with st := .running, wins := tWins
                    slots := [(1, BitVec.ofNat 64 va), (2, BitVec.ofNat 64 sa), (3, 3), (4, 4), (14, 0x4000000000000), (15, 640)] }
def tAcc (k : AccKind) (w : Bool) (a : Nat) : Access := accessOf (tS tF) tT tF k w a
/-- Where an access lies. -/
def pageOf (s : State) (a : Access) : XPage :=
  match locate s a with
  | .ok (.here p) => p
  | _ => { stk := 0, key := 0, off := 0, size := 0, gpa := 0, leaf := none, step := none }

theorem issues (f : Firing) (g : BitVec 4) (h : f.guard g = true) : Issues (tS f) tT f g :=
  ⟨rfl, by simp [tS, tM, State.firing?, State.tile, tabGet, Tile.firing?], h, rfl⟩

theorem test_scratch_address : locate (tS tF) (tAcc .load false sa) = .ok (.here (pageOf (tS tF) (tAcc .load false sa))) := by decide
theorem test_dram_address : (pageOf (tS tF) (tAcc .store true va)).key = 0x1000 := by decide

theorem usable (l : List Nat) (h : ∀ d ∈ l, d < 1024) : Usable tF l := fun d hd => ⟨h d hd, rfl⟩
theorem issues0 : Issues (tS tF) tT tF 0 := issues tF 0 (by decide)

/-! ## Witnesses of the statements on register forms -/

theorem witness_TwoSourceIntegerFormsWriteTheirTableEntry :
    Issues (tS tF) tT tF 0 ∧ Usable tF (sl 1023 ++ sl 3 ++ sl 4) := ⟨issues0, usable _ (by decide)⟩
theorem witness_OneSourceImmediateAndConstantForms :
    Issues (tS tF) tT tF 0 ∧ Usable tF (sl 1023 ++ sl 3) ∧ Usable tF (sl 1023) := ⟨issues0, usable _ (by decide), usable _ (by decide)⟩
theorem witness_BitFieldFormsExtractInsertAndSelect :
    Issues (tS tF) tT tF 0 ∧ Usable tF (sl 1023 ++ sl 3) ∧ Usable tF (sl 1023 ++ sl 3 ++ sl 4) :=
  ⟨issues0, usable _ (by decide), usable _ (by decide)⟩
theorem witness_ComparesAndPredicateFormsWritePredicates :
    Issues (tS tF) tT tF 0 ∧ Usable tF (sl 3 ++ sl 4) ∧ Usable tF (sl 3) := ⟨issues0, usable _ (by decide), usable _ (by decide)⟩
theorem witness_ShapeFormsWalkTheirDimensions :
    Issues (tS tF) tT tF 0 ∧ Usable tF (sl 5 ++ sl 3 ++ shapeSlots 127 8) ∧ Usable tF (sl 5 ++ shapeSlots 127 0) ∧
      Usable tF (sl 3 ++ shapeSlots 127 1) :=
  ⟨issues0, usable _ (by decide), usable _ (by decide), usable _ (by decide)⟩
theorem witness_FloatAndConversionFormsWriteResultAndFlags :
    Issues (tS tF) tT tF 0 ∧ Usable tF (sl 1023 ++ sl 3 ++ sl 4) ∧ Usable tF (sl 1023 ++ sl 3) ∧ Usable tF (sl 3 ++ sl 4) :=
  ⟨issues0, usable _ (by decide), usable _ (by decide), usable _ (by decide)⟩
theorem witness_LaneArithmeticWritesItsOctet :
    Issues (tS tF) tT tF 0 ∧ Usable tF (octSlots 127 ++ octSlots 0 ++ octSlots 1) ∧ Usable tF (octSlots 127 ++ octSlots 0) :=
  ⟨issues0, usable _ (by decide), usable _ (by decide)⟩
theorem witness_LaneMovesReductionsAndPlanesWriteD :
    Issues (tS tF) tT tF 0 ∧ Usable tF (octSlots 127 ++ octSlots 0 ++ octSlots 1 ++ octSlots 2) ∧ Usable tF (octSlots 127 ++ sl 3) ∧
      Usable tF (sl 1023 ++ octSlots 0) ∧ Usable tF (pairSlots 126 ++ pairSlots 0) :=
  ⟨issues0, usable _ (by decide), usable _ (by decide), usable _ (by decide), usable _ (by decide)⟩

/-- A return stack of four entries, and firings inside and at the end of a loop. -/
def tDeep : Firing := { tF with rstack := [2, 2, 2, 2] }
def tLoop : Firing := { tF with loops := [(3, { index := 0, bound := 2, first := 0, last := 1 })] }
def tLast : Firing := { tF with loops := [(3, { index := 1, bound := 2, first := 0, last := 1 })] }

theorem witness_TransfersGoToTheirWord :
    (Issues (tS tF) tT tF 0 ∧ ((2 : Nat) : Int) = tF.pc + (1 : BitVec 29).toInt ∧ loaded (tS tF) tT 2 = true ∧ tF.rstack.length < 4) ∧
    (Issues (tS tDeep) tT tDeep 0 ∧ loaded (tS tDeep) tT 2 = true ∧ 4 ≤ tDeep.rstack.length) ∧
    (∀ pc : Nat, (pc : Int) = tF.pc + (2 : BitVec 29).toInt → loaded (tS tF) tT pc = false) ∧
    (∃ r l, tDeep.rstack = r :: l ∧ loaded (tS tDeep) tT r = true) ∧ tF.rstack = [] ∧
    Usable tF (sl 3) ∧ loaded (tS tF) tT (tF.slot 3).toNat = false ∧ Usable tF (sl 5) ∧ loaded (tS tF) tT (tF.slot 5).toNat = true := by
  refine ⟨⟨issues0, by decide⟩, ⟨issues tDeep 0 (by decide), by decide⟩, ?_, ⟨2, [2, 2, 2], rfl, by decide⟩, rfl,
    usable _ (by decide), by decide, usable _ (by decide), by decide⟩
  intro pc h
  have : pc = 3 := by have e : (2 : BitVec 29).toInt = 2 := by decide
                      rw [e] at h; simp [tF, wordFiring] at h; omega
  subst this
  decide

/-- The page of a scratch address, as the small machine finds it. -/
def sP : XPage := pageOf (tS tF) (tAcc .load false sa)
theorem stands_scratch_load : Stands (tS tF) tT tF .load false sa 4 sP := ⟨by decide, by decide⟩

theorem witness_LoopFormsStartRepeatAndLeave :
    (Issues (tS tF) tT tF 0 ∧ Usable tF (sl 3) ∧ loopOk (tS tF) tT tF 3 1 = true) ∧
    (Usable tF (sl 2) ∧ sa % 64 = 0 ∧ covered tF sa 4 false = true ∧ Stands (tS tF) tT tF .load false sa 4 sP ∧
      lineSound (noteUse (tS tF) sP) sP.key = .ok () ∧ ownBytes (noteUse (tS tF) sP) tT tF.id (sP.key - sP.key % 128) = (0, 0)) ∧
    (Issues (tS tLoop) tT tLoop 0 ∧ ∃ l, tabFind tLoop.loops 3 = some l) ∧ tabFind tF.loops 3 = none ∧
    (∃ n l, tLoop.loops = [(n, l)] ∧ tLoop.pc = l.last ∧ l.index + 1 < l.bound) ∧
    (∃ n l, tLast.loops = [(n, l)] ∧ tLast.pc = l.last ∧ l.bound ≤ l.index + 1) ∧
    (∃ n l, { tLoop with pc := 0 }.loops = [(n, l)] ∧ { tLoop with pc := 0 }.pc ≠ l.last) :=
  ⟨⟨issues0, usable _ (by decide), by decide⟩, ⟨usable _ (by decide), by decide, by decide, stands_scratch_load, by decide, by decide⟩,
   ⟨issues tLoop 0 (by decide), ⟨_, rfl⟩⟩, rfl, ⟨_, _, rfl, by decide, by decide⟩, ⟨_, _, rfl, by decide, by decide⟩,
   ⟨_, _, rfl, by decide⟩⟩

/-- The small machine with its tile changed. -/
def tSx (f : Firing) (g : Tile → Tile) : State := (tS f).setTile tT (g ((tS f).tile tT))
def wFirst : Wave := { seq := 61, pred := 0x3E, succ := 0x3F }
def wLink : Wave := { seq := 0, pred := 7, succ := 0x3F }

theorem witness_EndingYieldingAndWaitingForms :
    Issues (tS tF) tT tF 0 ∧ Usable tF (sl 3) ∧ tabGet 0 ((tS tF).tile tT).tagP tF.node &&& 1#16 = 0 ∧
    (let s := tSx tF (fun x => { x with tagP := [(18, 0x8000)] })
     Issues s tT tF 0 ∧ tabGet 0 (s.tile tT).tagP tF.node &&& 0x8000#16 ≠ 0) ∧
    waveOkAfter tF.waveLast wFirst = true ∧ waveOkAfter tF.waveLast wLink = false :=
  ⟨issues0, usable _ (by decide), by decide, ⟨⟨rfl, rfl, by decide, rfl⟩, by decide⟩, by decide, by decide⟩

/-! ## Loads, stores, windows and synchronisation -/

/-- A store-buffer entry of the firing that holds the whole line of `sa`. -/
def tSb : SbEntry := { line := sa, key := sP.key, data := 0x1234, mask := BitVec.allOnes 128, owner := 0 }
def tBuf : State := tSx tF (fun x => { x with store := [tSb] })

/-- The same entry with four bytes of the line. -/
def tPart4 : State := tSx tF (fun x => { x with store := [{ tSb with mask := 15 }] })

theorem witness_LoadsLandTheirBytes :
    (Issues (tS tF) tT tF 0 ∧ Usable tF (sl 1023 ++ sl 2) ∧ effAddr tF 2 0 8 = sa ∧ sa % 8 = 0 ∧ waveOkAfter tF.waveLast wFirst = true ∧
      covered tF sa 64 false = true ∧ Stands (tS tF) tT tF .load false sa 64 sP ∧ lineSound (noteUse (tS tF) sP) sP.key = .ok () ∧
      (ownBytes (noteUse (tS tF) sP) tT tF.id (sP.key - sP.key % 128)).2 / 2 ^ (sP.key % 128) % 2 ^ 64 ≠ 2 ^ 64 - 1) ∧
    (Issues tPart4 tT tF 0 ∧ Stands tPart4 tT tF .load false sa 8 sP ∧ lineSound (noteUse tPart4 sP) sP.key = .ok () ∧
      (ownBytes (noteUse tPart4 sP) tT tF.id (sP.key - sP.key % 128)).2 / 2 ^ (sP.key % 128) % 2 ^ 8 = 15) ∧
    (Issues tBuf tT tF 0 ∧ Stands tBuf tT tF .load false sa 8 sP ∧ lineSound (noteUse tBuf sP) sP.key = .ok () ∧
      (ownBytes (noteUse tBuf sP) tT tF.id (sP.key - sP.key % 128)).2 / 2 ^ (sP.key % 128) % 2 ^ 8 = 2 ^ 8 - 1) ∧
    (effAddr tF 3 0 2 % 2 ≠ 0) ∧ (effAddr tF 4 0 4 % 4 = 0 ∧ covered tF (effAddr tF 4 0 4) 4 false = false) ∧
    Usable tF (octSlots 127 ++ sl 2) ∧ stackOfKey sP.key = tT.stk :=
  ⟨⟨issues0, usable _ (by decide), by decide, by decide, by decide, by decide, ⟨by decide, by decide⟩, by decide, by decide⟩,
   ⟨⟨rfl, rfl, by decide, rfl⟩, ⟨by decide, by decide⟩, by decide, by decide⟩,
   ⟨⟨rfl, rfl, by decide, rfl⟩, ⟨by decide, by decide⟩, by decide, by decide⟩, by decide, by decide, usable _ (by decide), by decide⟩

theorem witness_StoresEnterTheStoreBuffer :
    Issues (tS tF) tT tF 0 ∧ Usable tF (sl 1023 ++ sl 2) ∧ Usable tF (octSlots 127 ++ sl 2) ∧ effAddr tF 2 0 128 = sa ∧ sa % 128 = 0 ∧
      waveOkAfter tF.waveLast wFirst = true ∧ covered tF sa 128 true = true ∧ locate (tS tF) (tAcc .store true sa) = .ok (.here sP) ∧
      (Place.here sP).key % 128 + 128 ≤ 128 ∧ needsSpill (tS tF) tT tF.id (Place.here sP).key = false ∧ accepted (tS tF) tF = true :=
  ⟨issues0, usable _ (by decide), usable _ (by decide), by decide, by decide, by decide, by decide, by decide, by decide, by decide, by decide⟩

/-- A firing with no window open, and a rectangle of one line of DRAM in slots 10 to 13. -/
def tO : Firing := { tF with wins := [], slots := tF.slots ++ [(10, BitVec.ofNat 64 va), (11, 128), (12, 128), (13, 1)] }
def oRect : Rect := { base := va, rowb := 128, pitch := 128, rows := 1 }
def oS : State := { tS tO with nextId := (tS tO).nextId + 1 }
def oClaim (s : State) : Except FInfo Claim :=
  claim s (accessOf s tT tO .range true va) (.firing tT 0) false 1 [oRect] { code := .window, detail := vaDetail va }
def oReg : Reg :=
  match oClaim oS with
  | .ok (.here _ r _) => r
  | _ => { wid := 0, holder := .inst 0, range := false, ctx := 0, w := false, area := [], pages := [], closing := false }
def oUses : List XPage := match oClaim oS with | .ok (.here _ _ u) => u | _ => []
/-- The same machine with another firing's registration on the line. -/
def oRace : State := (tS tO).setStack 0 { regs := [{ oReg with wid := 9, holder := .firing tT 7 }] }
theorem issuesO : Issues (tS tO) tT tO 0 := issues tO 0 (by decide)

theorem witness_OpensRegisterAndQueriesRead :
    (Issues (tS tO) tT tO 0 ∧ Usable tO [10, 11, 12, 13] ∧ (tabFind tO.wins 7).isNone = true ∧ tO.closing.any (fun c => c.1 == 7) = false ∧
      rectOk oRect = true ∧ oClaim oS = .ok (.here 0 oReg oUses) ∧ launchOf oS tO = none ∧ firstConflict oS 0 oReg = none ∧
      regsFit oS [(0, oReg)] = true) ∧
    (Issues oRace tT tO 0 ∧ ∃ x, firstConflict { oRace with nextId := 2 } 0 oReg = some x) ∧
    (tabFind tF.wins 1).isSome = true ∧ rectOk { base := 0, rowb := 0, pitch := 0, rows := 0 } = false ∧
    (Usable tF (sl 1023 ++ sl 2) ∧ locate (tS tF) (tAcc .load false sa) = .ok (.here sP)) ∧
    (Usable tF (sl 1023 ++ sl 14) ∧ ∃ e, locate (tS tF) (tAcc .load false 0x4000000000000) = .error e) :=
  ⟨⟨issuesO, fun d hd => ⟨by revert d; decide, rfl⟩, by decide, by decide, by decide, by decide, by decide, by decide, by decide⟩,
   ⟨⟨rfl, rfl, by decide, rfl⟩, ⟨_, rfl⟩⟩, by decide, by decide, ⟨usable _ (by decide), by decide⟩, ⟨usable _ (by decide), ⟨_, rfl⟩⟩⟩

theorem witness_ClosesPublishBufferedBytes :
    tabFind tF.wins 7 = none ∧
    (Issues tBuf tT tF 0 ∧ ∃ w, tabFind tF.wins 1 = some w ∧ w.remote = false ∧
      ((tBuf.tile tT).store.filter (fun e => e.owner == tF.id)) = [tSb] ∧ isAway tSb.key = false ∧ busFailed tBuf tSb.key = false ∧
      tSb.mask.toNat ≠ 0 ∧ (∀ k, k < 128 → tSb.mask.getLsbD k = true → w.rect.covers (tSb.line + k) = true) ∧ Memory.wf tBuf.mem = true) ∧
    tabAbove 0 tF.wins = true :=
  ⟨by decide, ⟨⟨rfl, rfl, by decide, rfl⟩, ⟨_, rfl, rfl, rfl, by decide, by decide, by decide, by decide, by decide⟩⟩,
   by decide⟩

theorem witness_SyncAccessesReachTheHome :
    (Issues (tS tF) tT tF 0 ∧ Usable tF (sl 1023 ++ sl 2) ∧ effAddr tF 2 0 8 = sa ∧ sa % 8 = 0 ∧ Stands (tS tF) tT tF .load false sa 8 sP ∧
      Stands (tS tF) tT tF .store true sa 8 sP ∧ windowTouched (tS tF) sP.key = none ∧ lineSound (tS tF) sP.key = .ok () ∧
      relReady (tS tF) tT tF = true ∧ busFailed (tS tF) sP.key = false ∧ Memory.wf (tS tF).mem = true) ∧
    effAddr tF 3 0 2 % 2 ≠ 0 ∧
    (let p := pageOf oRace (accessOf oRace tT tO .load false va)
     Issues oRace tT tO 0 ∧ effAddr tO 1 0 1 = va ∧ Stands oRace tT tO .load false va 1 p ∧ ∃ x, windowTouched oRace p.key = some x) :=
  ⟨⟨issues0, usable _ (by decide), by decide, by decide, ⟨by decide, by decide⟩, ⟨by decide, by decide⟩, by decide, by decide, by decide,
    by decide, by decide⟩, by decide, ⟨⟨rfl, rfl, by decide, rfl⟩, by decide, ⟨by decide, by decide⟩, ⟨_, rfl⟩⟩⟩

/-- The firing holds a reservation on the doubleword at `sa`. -/
def tX : Firing := { tF with resv := some { va := BitVec.ofNat 64 sa, size := 8, granule := some (sP.key / 8 * 8) } }
def tXs : State := (tS tX).setStack 0 { resvs := [(homeBank (tS tX) sP.key, .firing tT 0, sP.key / 8 * 8)] }

theorem witness_StoreConditionalNeedsItsReservation :
    Issues tXs tT tX 0 ∧ Usable tX (sl 3 ++ sl 2 ++ sl 1023) ∧ effAddr tX 2 0 8 = sa ∧ sa % 8 = 0 ∧
      Stands tXs tT tX .atomic true sa 8 sP ∧ windowTouched tXs sP.key = none ∧ lineSound tXs sP.key = .ok () ∧ relReady tXs tT tX = true ∧
      tX.resv.any (fun r => decide (r.va.toNat = sa) && decide (r.size = 8)) = true ∧
      hasResv tXs (.firing tT 0) (sP.key / 8 * 8) = true ∧ hasResv (noteUse tXs sP) (.firing tT 0) (sP.key / 8 * 8) = true ∧
      busFailed tXs sP.key = false ∧ Memory.wf tXs.mem = true ∧
      tF.resv.any (fun r => decide (r.va.toNat = sa) && decide (r.size = 8)) = false ∧
      hasResv (tS tX) (.firing tT 0) (sP.key / 8 * 8) = false :=
  ⟨⟨rfl, rfl, by decide, rfl⟩, fun d hd => ⟨by revert d; decide, rfl⟩, by decide, by decide, ⟨by decide, by decide⟩, by decide, by decide,
   by decide, by decide, by decide, by decide, by decide, by decide, by decide, by decide⟩

theorem witness_AtomicsCombineAtTheHome :
    Issues (tS tF) tT tF 0 ∧ Usable tF (sl 3 ++ sl 2 ++ sl 1023) ∧ Stands (tS tF) tT tF .atomic true sa 8 sP ∧
      relReady (tS tF) tT tF = true ∧ atomicTurn (tS tF) tT tF sa = .ok (.inl (tS tF)) ∧ busFailed (tS tF) sP.key = false ∧
      Memory.wf (tS tF).mem = true :=
  ⟨issues0, usable _ (by decide), ⟨by decide, by decide⟩, by decide, by decide, by decide, by decide⟩

/-- An engine command of the firing in progress. -/
def tCmd : Cmd :=
  { id := 4, owner := 0, inst := 0, tag := 0, kind := .cpy 0 0 1, st := .queued, acq := false, rel := false, scope := .firing, evid := 0
    cdst := 0, toNode := false, chunk := 0, written := 0, fault := none, ranges := [], away := [], lines := [], asked := [], acks := 0
    snap := none }
def tClosing : Firing := { tF with closing := [(0, 1)] }

theorem witness_FencesWaitForWhatTheyOrder :
    (Issues (tS tF) tT tF 0 ∧ relReady (tS tF) tT tF = true ∧ enginesIdle ((tS tF).tile tT) tF.id = true ∧
      cmdsPending ((tS tF).tile tT) tF.id = false) ∧
    (Issues (tS tClosing) tT tClosing 0 ∧ relReady (tS tClosing) tT tClosing = false) ∧
    (let s := tSx tF (fun x => { x with cmds := [tCmd] })
     Issues s tT tF 0 ∧ relReady s tT tF = true ∧ enginesIdle (s.tile tT) tF.id = false) :=
  ⟨⟨issues0, by decide, by decide, by decide⟩, ⟨issues tClosing 0 (by decide), by decide⟩,
   ⟨⟨rfl, rfl, by decide, rfl⟩, by decide, by decide⟩⟩

/-- The page of the address in DRAM. -/
def dP : XPage := pageOf (tS tF) (tAcc .load false va)
theorem witness_LineFormsKeepOrDropTheCachedLine :
    Issues (tS tF) tT tF 0 ∧ Usable tF (sl 1) ∧ effAddr tF 1 0 128 = va ∧ va % 128 = 0 ∧ waveOkAfter tF.waveLast wFirst = true ∧
      isScratch dP.key = false ∧ dP.key % 128 = 0 ∧ covered tF va 128 true = true ∧ Stands (tS tF) tT tF .load false va 128 dP ∧
      tabAbove 0 ((noteUse (tS tF) dP).stack (stackOfKey dP.key)).dirty = true ∧
      (let p := pageOf (tS tF) (tAcc .store true va); Stands (tS tF) tT tF .store true va 128 p ∧ isScratch p.key = false ∧ p.key % 128 = 0) ∧
      tO.wins.any (fun w => w.2.rect.touches va) = false :=
  ⟨issues0, usable _ (by decide), by decide, by decide, by decide, by decide, by decide, by decide, ⟨by decide, by decide⟩, by decide,
   ⟨⟨by decide, by decide⟩, by decide, by decide⟩, by decide⟩

/-! ## Tokens, engines and the control region -/

def tTok : Token :=
  { dev := 0, stk := 0, tx := 1, ty := 0, node := 18, port := 5, pri := 0, kind := 0, ctx := 0, tag := 0, seq := 0, skip := 0, fmt := 0
    last := false, stv := false, steer := 0, bytes := 64, rsv := 0, payload := 1, par := 0 }
def tEdge : Edge :=
  { depth := 2, expect := 1, early := [], fifo := [{ tok := tTok, indexed := false }], pull := true, asked := 1, arrived := 1
    reconf := none, src := tT, srcNode := 19, srcPort := 0, lastTaken := [] }
/-- A handler with six input and six output ports. -/
def hdr6 : CodeWord := { word := BitVec.ofNat 64 (6 * 2 ^ 50 + 6 * 2 ^ 47), header := true }
def tAct (f : Firing) : State := tSx f (fun x => { x with code := (0, hdr6) :: x.code.drop 1, edges := [(portKey 18 5, tEdge)] })
def tHeld : Firing := { tF with out := [.tok 5 tTok] }
def tOther : Firing := { tF with tag := 9 }
def tTook : Firing := { tF with recvd := [(5, { tTok with last := true })] }

theorem witness_SendFormsHoldTheirTokens :
    (Issues (tAct tF) tT tF 0 ∧ Usable tF (octSlots 127 ++ sl 3) ∧ outPortOk 5 (tAct tF) tT tF = true ∧ priOk 2 tT ((tAct tF).tile tT) = true ∧
      heldOn tF 5 < hdrOutRate (((tAct tF).tile tT).header tF.node) 5 ∧ (tF.slot 3).toNat % 128 ≤ 64) ∧
    (Issues (tAct tHeld) tT tHeld 0 ∧ ¬heldOn tHeld 5 < hdrOutRate (((tAct tHeld).tile tT).header tHeld.node) 5) ∧
    (Usable tF (octSlots 127 ++ sl 15) ∧ (tF.slot 15).extractLsb' 6 10 = 10 ∧
      priOk ((tF.slot 15).extractLsb' 0 2) tT ((tAct tF).tile tT) = true) :=
  ⟨⟨⟨rfl, rfl, by decide, rfl⟩, usable _ (by decide), by decide, by decide, by decide, by decide⟩, ⟨⟨rfl, rfl, by decide, rfl⟩, by decide⟩,
   ⟨usable _ (by decide), by decide, by decide⟩⟩

theorem witness_RecvTakesTheOldestTokenOfItsTag :
    (Issues (tAct tF) tT tF 0 ∧ Usable tF (octSlots 127) ∧ inPortOk 5 (tAct tF) tT tF = true ∧
      tabFind ((tAct tF).tile tT).edges (portKey tF.node 5) = some tEdge ∧ tookLast tF 5 = false ∧
      takeTagged tF.tag tEdge.fifo = some (tTok, [])) ∧
    (Issues (tAct tOther) tT tOther 0 ∧ takeTagged tOther.tag tEdge.fifo = none) ∧
    (Issues (tAct tTook) tT tTook 0 ∧ tookLast tTook 5 = true) :=
  ⟨⟨⟨rfl, rfl, by decide, rfl⟩, usable _ (by decide), by decide, rfl, by decide, rfl⟩, ⟨⟨rfl, rfl, by decide, rfl⟩, by decide⟩,
   ⟨⟨rfl, rfl, by decide, rfl⟩, by decide⟩⟩

theorem witness_RequestSteeringAndTagForms :
    Issues (tAct tF) tT tF 0 ∧ inPortOk 5 (tAct tF) tT tF = true ∧ outPortOk 5 (tAct tF) tT tF = true ∧
      tabFind ((tAct tF).tile tT).edges (portKey tF.node 5) = some tEdge ∧ tEdge.pull = true ∧
      1 ≤ tEdge.fifo.length + (tEdge.asked - tEdge.arrived) ∧ tEdge.fifo.length + (tEdge.asked - tEdge.arrived) < 256 ∧
      tabAbove 0 ((tAct tF).tile tT).tagE = true ∧ tabAbove 0 ((tAct tF).tile tT).tagP = true ∧ Usable tF (sl 1023) :=
  ⟨⟨rfl, rfl, by decide, rfl⟩, by decide, by decide, rfl, by decide, by decide, by decide, by decide, by decide, usable _ (by decide)⟩

/-- A firing whose ranges have been registered. -/
def tG : Firing := { tF with granted := some ([], []) }
theorem issuesG : Issues (tS tG) tT tG 0 := issues tG 0 (by decide)
theorem granted (l : List Range) : Granted (tS tG) tT tG l (tS tG) { tG with granted := none } [] [] := rfl

theorem witness_RangesOfACommandAreGranted :
    (tG.granted = some ([], []) ∧ accepted (tS tG) tG = true ∧ tG.unreached = none) ∧
    (tF.granted = none ∧ (∀ r ∈ [({ w := true, area := lineArea va 4096 } : Range)], inside tF r.w r.area = true) ∧
      (∀ k, k < 4 → wtUsed ((tS tF).stack k) ≤ 4096) ∧ ((tS tF).tile tT).store = []) := by
  refine ⟨⟨rfl, rfl, rfl⟩, rfl, ?_, by decide, rfl⟩
  intro r h
  simp only [List.mem_singleton] at h
  subst h
  decide

/-- A plane descriptor of one plane in octet 8, tile (0, 0). -/
def tD : Firing :=
  { tG with slots := tF.slots ++ [(64, BitVec.ofNat 64 sa), (65, 0x100000100), (66, 0x100000001), (68, 1024)] }
def tDesc : Desc := readDesc (tD.octet 8)
/-- Operand memory slot 15 claimed, with one plane. -/
def tOm : Tile → Tile := fun x => { x with om := [(15, { claimed := true, nplanes := 1, ws := 1, wu := 1, planes := [(0, 5)] })] }
def ostoreRange : List Range := [{ w := true, area := tDesc.tileArea 0 0 }]
def ostoreBytes : List Byte := bytesOf 1024 ((((tSx tD tOm).tile tT).slotOf 15).plane 0)
def ostored : Except FInfo State :=
  let r := attach (tSx tD tOm) tT { tD with granted := none, committed := true } (.ostore 15 tDesc 0 0) false false .firing ostoreRange [] []
  storePlanes tT 1 tDesc 0 0 ostoreBytes 1 (r.2.setCmd tT { r.1 with snap := some ostoreBytes })
def ostoredS : State := match ostored with | .ok s => s | .error _ => State.reset

theorem ostored_ok : ostored.toOption.isSome = true := by decide +kernel
theorem ostored_eq : ostored = .ok ostoredS := by
  have h := ostored_ok
  unfold ostoredS
  cases e : ostored with
  | ok s => rfl
  | error x => rw [e] at h; exact absurd h (by simp [Except.toOption])
theorem ostored_acks : (ostoredS.cmd? tT 1).map (fun c => (c.acks, c.missed)) = some (0, false) := by decide +kernel
theorem ostored_granted : Granted (tSx tD tOm) tT tD ostoreRange (tSx tD tOm) { tD with granted := none } [] [] := rfl

theorem witness_OperandMemoryForms :
    (Issues (tS tF) tT tF 0 ∧ (((tS tF).tile tT).slotOf 15).claimed = false) ∧
    (Issues (tSx tD tOm) tT tD 0 ∧ Usable tD (octSlots 8 ++ sl 127) ∧ planeDesc tD 8 = .ok tDesc ∧ tDesc.planes = 1 ∧
      (((tSx tD tOm).tile tT).slotOf 15).claimed = true ∧ (((tSx tD tOm).tile tT).slotOf 15).filling = false ∧
      (((tSx tD tOm).tile tT).slotOf 15).nplanes = 1 ∧ slotRead ((tSx tD tOm).tile tT) 15 = false ∧
      Granted (tSx tD tOm) tT tD ostoreRange (tSx tD tOm) { tD with granted := none } [] [] ∧
      relReady (tSx tD tOm) tT tD = true ∧ enginesIdle ((tSx tD tOm).tile tT) tD.id = true ∧
      ostored = .ok ostoredS ∧ (ostoredS.cmd? tT 1).map (fun c => (c.acks, c.missed)) = some (0, false) ∧
      (tabFind ((tSx tD tOm).tile tT).edges (portKey 16 15)).isNone = true) ∧
    Usable tF (sl 1023) :=
  ⟨⟨issues0, by decide⟩, ⟨⟨rfl, rfl, by decide, rfl⟩, fun d hd => ⟨by revert d; decide, rfl⟩, by decide, by decide, by decide, by decide,
    by decide, by decide, ostored_granted, by decide, by decide, ostored_eq, ostored_acks, by decide⟩, usable _ (by decide)⟩

/-- Accumulator bank 3 with an MMA to come, and a bound route. -/
def tOut : OutEdge :=
  { dst := tT, dnode := 18, dport := 0, depth := 2, pull := false, next := 0, skip := 0, made := 0, covered := 0, waiting := [], fmt := 0, pri := 0
    lastSent := [] }
def tMat : Tile → Tile := fun x => { tOm x with om := [(14, { claimed := true, nplanes := 1 }), (15, { claimed := true, nplanes := 1 })]
                                                outs := [(portKey 16 3, tOut)] }
def tPpr : Firing := { tF with ppr := 0x0FF }
def tJob : MmaJob := { owner := 0, acc := 3, oa := 14, ob := 15, a := {}, b := {}, ppr := 0, stamp := 0 }

theorem witness_MatrixEngineForms :
    (Issues (tSx tF tMat) tT tF 0 ∧ readable ((tSx tF tMat).tile tT) 3 = true ∧ tabAbove 0 ((tSx tF tMat).tile tT).me.acc = true ∧
      throttleOpen (tSx tF tMat) tT = true ∧
      (((tSx tF tMat).tile tT).slotOf 14).claimed = true ∧ (((tSx tF tMat).tile tT).slotOf 15).claimed = true ∧
      (((tSx tF tMat).tile tT).slotOf 14).filling = false ∧ (((tSx tF tMat).tile tT).slotOf 15).filling = false ∧
      (tF.ppr.extractLsb' 0 4).toNat + 1 ≤ (((tSx tF tMat).tile tT).slotOf 14).nplanes ∧
      (tF.ppr.extractLsb' 4 4).toNat + 1 ≤ (((tSx tF tMat).tile tT).slotOf 15).nplanes ∧
      (tabFind ((tSx tF tMat).tile tT).outs (portKey 16 3)).isSome = true ∧ ((tSx tF tMat).tile tT).me.poison.getLsbD 3 = false ∧
      ((tSx tF tMat).tile tT).me.queue = [] ∧ ((tSx tF tMat).tile tT).me.owing = [] ∧ mwaitMet ((tSx tF tMat).tile tT) 8 = true) ∧
    (Issues (tSx tPpr tMat) tT tPpr 0 ∧
      (((tSx tPpr tMat).tile tT).slotOf 14).nplanes < (tPpr.ppr.extractLsb' 0 4).toNat + 1) ∧
    (tabFind ((tSx tF tMat).tile tT).outs (portKey 16 2)).isNone = true ∧ Usable tF (sl 1023) ∧
    (let s := tSx tF (fun x => { x with me := { queue := [tJob] } })
     Issues s tT tF 0 ∧ (s.tile tT).me.owing = [] ∧ mwaitMet (s.tile tT) 8 = false) :=
  ⟨⟨⟨rfl, rfl, by decide, rfl⟩, by decide, by decide, by decide, by decide, by decide, by decide, by decide, by decide, by decide, by decide,
    by decide, by decide, by decide, by decide⟩, ⟨⟨rfl, rfl, by decide, rfl⟩, by decide⟩, by decide, usable _ (by decide),
   ⟨⟨rfl, rfl, by decide, rfl⟩, by decide, by decide⟩⟩

/-- Ranges that have been registered are granted in every state. -/
theorem granted_again (s : State) (f : Firing) (l : List Range) (h : f.granted = some ([], [])) (ha : accepted s f = true)
    (hu : f.unreached = none) (hs : (s.tile tT).store = []) : Granted s tT f l s { f with granted := none } [] [] := by
  unfold Granted rangesOf
  rw [h]
  simp [ha, hu, hs, rangesStand, earlyDrain]

/-- A linear descriptor and a tiled one, at `sa` and 64 bytes on; a firing with a copy block in octet 8. -/
def cpMem : List Host.Cell :=
  let k := scratchBase
  tMem ++ [(k + 8, 8), (k + 0x10, 1), (k + 0x14, 1), (k + 73, 8), (k + 75, 7), (k + 76, 1), (k + 0x50, 1), (k + 0x54, 1), (k + 97, 4)]
def tCp (src dst len : Nat) : Firing := { tG with slots := tF.slots ++ [(64, BitVec.ofNat 64 src), (65, BitVec.ofNat 64 dst), (66, BitVec.ofNat 64 len)] }
def cpS (f : Firing) : State := { tS f with mem := cpMem }
/-- The descriptor at an address, and the state after its read. -/
def cpRead (s : State) (f : Firing) (a : Nat) : Option (Nat × State) := match readAtHome s tT f a with | .ok (.got v s) => some (v, s) | _ => none
/-- The copy form meets what the statement asks of it. -/
def cpMeets (k : CopyForm) (f : Firing) : Bool :=
  let b := readBlock (f.octet 8)
  decide (b.src % 64 = 0) && decide (b.dst % 64 = 0) && decide (blockOk k b = .ok ()) && throttleOpen (cpS f) tT && copyRoom ((cpS f).tile tT) f &&
  match cpRead (cpS f) f b.src with
  | none => false
  | some (v, s1) =>
    match cpRead s1 f b.dst with
    | none => false
    | some (w, _) => descOk v && descOk w && formOk k b (readDesc v) (readDesc w)
def tCopies : Tile → Tile := fun x => { x with cmds := [{ tCmd with id := 3 }, { tCmd with id := 4, st := .done }] }
def tFailed : Tile → Tile := fun x => { x with cmds := [{ tCmd with id := 4, st := .failed, fault := some { code := .parity } }] }

theorem witness_CopyFormsAttachWaitAndTell :
    (Issues (cpS (tCp sa (sa + 0x400) 128)) tT (tCp sa (sa + 0x400) 128) 0 ∧ Usable (tCp sa (sa + 0x400) 128) (sl 1023 ++ octSlots 8) ∧
      (∀ c ∈ ((cpS (tCp sa (sa + 0x400) 128)).tile tT).cmds, c.id < ((cpS (tCp sa (sa + 0x400) 128)).tile tT).nextCmd) ∧
      throttleOpen (cpS (tCp sa (sa + 0x400) 128)) tT = true ∧ copyRoom ((cpS (tCp sa (sa + 0x400) 128)).tile tT) (tCp sa (sa + 0x400) 128) = true ∧
      blockOk .cpy (readBlock ((tCp sa (sa + 0x400) 128).octet 8)) = .ok () ∧ sa + 128 ≤ sa + 0x400 ∧
      ownerAway (cpS (tCp sa (sa + 0x400) 128)) 0 sa = false ∧ ownerAway (cpS (tCp sa (sa + 0x400) 128)) 0 (sa + 0x400) = false) ∧
    cpMeets .cpyp (tCp (sa + 64) (sa + 64) 0) = true ∧ cpMeets .cpyt (tCp sa (sa + 64) 0) = true ∧ cpMeets .gath (tCp sa sa 1) = true ∧
    cpMeets .scat (tCp sa sa 1) = true ∧
    (Issues (tSx tF tCopies) tT tF 0 ∧ Usable tF (sl 4) ∧ (∃ c ∈ ((tSx tF tCopies).tile tT).cmds, c.st ≠ .done ∧ c.st ≠ .failed) ∧
      ((tSx tF tCopies).tile tT).cmds.filter (fun c => decide (c.owner = tF.id) && c.isCopy && decide (c.id = (tF.slot 4).toNat)) =
        [{ tCmd with id := 4, st := .done }]) ∧
    (Issues (tSx tF tFailed) tT tF 0 ∧ ((tSx tF tFailed).tile tT).cmds.filter (fun c => decide (c.owner = tF.id) && c.isCopy &&
      decide (c.id = (tF.slot 4).toNat)) = [{ tCmd with id := 4, st := .failed, fault := some { code := .parity } }]) ∧
    Usable tF (sl 1023 ++ sl 4) ∧ (tS tF).tile tT = { (tS tF).tile tT with cmds := [] } :=
  ⟨⟨⟨rfl, rfl, by decide, rfl⟩, fun d hd => ⟨by revert d; decide, rfl⟩, by decide, by decide, by decide, by decide, by decide, by decide, by decide⟩,
   by decide +kernel, by decide +kernel, by decide +kernel, by decide +kernel,
   ⟨⟨rfl, rfl, by decide, rfl⟩, usable _ (by decide), by decide, by decide +kernel⟩,
   ⟨⟨rfl, rfl, by decide, rfl⟩, by decide +kernel⟩, usable _ (by decide), rfl⟩

def tLoading : Tile → Tile := fun x => { x with cmds := [{ tCmd with kind := .ltload 7 0 }] }
def tEval : LevalJob := { owner := 0, q := 0, n := 1, next := 0, sig := 0, orphan := false, stamp := 1 }
/-- The lookup-cell block with one form in its queue. -/
def tLq (q : LcbForm) : State := tSx tF (fun x => { x with lcb := { x.lcb with queue := [q] } })
theorem witness_LookupCellForms :
    (Issues (tSx tF tOm) tT tF 0 ∧ (((tSx tF tOm).tile tT).slotOf 15).claimed = true ∧
      (((tSx tF tOm).tile tT).slotOf 0).claimed = false ∧ Usable tF (octSlots 127) ∧ throttleOpen (tSx tF tOm) tT = true) ∧
    (∀ q ∈ [LcbForm.ctx 3, .bind 8 15, .unbind, .eval tEval], ((tLq q).tile tT).halting = false ∧ ((tLq q).tile tT).atHalt = false ∧
      ((tLq q).tile tT).lcb.job = none ∧ ((tLq q).tile tT).lcb.queue = [q]) ∧ tEval.begun = none ∧
    (Issues (tS tG) tT tG 0 ∧ Usable tG (sl 2) ∧ (tG.slot 2).toNat % 64 = 0 ∧
      Granted (tS tG) tT tG [{ w := false, area := lineArea sa 16384 }] (tS tG) { tG with granted := none } [] [] ∧ (tG.slot 3).toNat % 64 ≠ 0) ∧
    (∀ c, c < 8 → (0xFF#8).getLsbD c = true → loadingCtx ((tS tF).tile tT) c = false) ∧
    (∃ c, c < 8 ∧ (0x80#8).getLsbD c = true ∧ loadingCtx ((tSx tF tLoading).tile tT) c = true) :=
  ⟨⟨⟨rfl, rfl, by decide, rfl⟩, by decide, by decide, usable _ (by decide), by decide⟩, by decide, rfl,
   ⟨issuesG, fun d hd => ⟨by revert d; decide, rfl⟩, by decide, granted _, by decide⟩, by decide, ⟨7, by decide⟩⟩
/-! ## Planes and the control region -/

/-- Plane 1 is up with this device its member, and context 0 is bound to group 5 of it. -/
def tPl : Plane := { up := true, ring := [0, 1], gseq := 7 }
def tP : State := { tS tF with planes := [(1, tPl)], ctxs := [(0, { tCtx with binds := [(1, BitVec.ofNat 64 (2 ^ 63 + 5 * 2 ^ 48))], kc := [(17, 4)] })] }
theorem issuesP : Issues tP tT tF 0 := ⟨rfl, rfl, by decide, rfl⟩
theorem witness_PlaneFormsPostAndWait :
    Issues tP tT tF 0 ∧ Usable tF (sl 5 ++ octSlots 0) ∧ bindV (tP.binding (tP.ctxOf tF) 1) = true ∧
    (tP.plane 1).up = true ∧ relReady tP tT tF = true ∧ replaying tP tF.inst = false ∧
    (∃ s : State, Issues s tT tF 0 ∧ bindV (s.binding (s.ctxOf tF) 1) = false) ∧
    (Usable tF (sl 5 ++ sl 4) ∧ (tF.slot 4).ule (tP.plane 1).gseq = true ∧
      (tP.kc (tP.ctxOf tF) 1 1 - (tF.slot 4).setWidth 32).msb = false ∧ (tP.plane 1).gseq.ult (tF.slot 1) = true ∧
      (tP.kc (tP.ctxOf tF) 1 0 - (tF.slot 4).setWidth 32).msb = true) ∧
    Usable tF (sl 5) ∧ Usable tF (octSlots 127 ++ octSlots 0 ++ sl 4) ∧ 1 ≤ (tF.slot 4).toNat ∧ (tF.slot 4).toNat ≤ 64 ∧
    liveColls (tP.ctx (tP.ctxOf tF)) 1 < 8 :=
  ⟨issuesP, usable _ (by decide), by decide, by decide, by decide, by decide, ⟨tS tF, issues0, by decide⟩,
   ⟨usable _ (by decide), by decide, by decide, by decide, by decide⟩, usable _ (by decide), usable _ (by decide), by decide, by decide,
   by decide⟩

/-- A tile of the control column, with bytes of memory at 0x9000. -/
def tKt : TileId := { stk := 0, x := 0, y := 0 }
def bytesAt (l : List Host.Cell) : List Host.Cell := l ++ tMem
def tKF : Firing := { wordFiring with st := .running, slots := [(1, 0x9000), (2, 0x9001), (3, 3), (4, 4), (5, 5), (6, 15), (7, 1)] }
def tK (l : List Host.Cell) : State :=
  { State.reset with boot := .running, devid := 0x1000, mem := bytesAt l, ctxs := [(0, tCtx)], parts := [(0, tPart)]
                     insts := [{ wordInst tKt with armed := true }], cur := some (tKt, 0)
                     tiles := [(tileKey tKt, { inst := some 0, code := [(0, { word := 0, header := true }), (1, { word := 0, header := false })]
                                               firings := [tKF], nextFid := 9 })] }
theorem issuesK (l : List Host.Cell) : Issues (tK l) tKt tKF 0 := ⟨rfl, rfl, by decide, rfl⟩
theorem usableK (l : List Nat) (h : ∀ d ∈ l, d < 1024) : Usable tKF l := fun d hd => ⟨h d hd, rfl⟩

theorem witness_SpecialRegisterFormsReadTheirTable :
    (Issues (tS tF) tT tF 0 ∧ Usable tF (sl 3) ∧ isControl tT = false ∧ (tS tF).inst? tF.inst = some tInst) ∧
    (Issues (tK []) tKt tKF 0 ∧ Usable tKF (sl 1023) ∧ isControl tKt = true ∧ ∃ i, (tK []).inst? tKF.inst = some i) ∧
    (∃ l, tabFind tLoop.loops 3 = some l) ∧ tabFind tF.loops 3 = none :=
  ⟨⟨issues0, usable _ (by decide), by decide, rfl⟩, ⟨issuesK [], usableK _ (by decide), by decide, ⟨_, rfl⟩⟩, ⟨_, rfl⟩, rfl⟩

/-- A read that has come to its bytes. -/
def gotBytes (x : Ex ReadRes) : Bool := match x with | .ok (.got _ _) => true | _ => false
theorem got_bytes {x : Ex ReadRes} (h : gotBytes x = true) : ∃ b s1, x = .ok (.got b s1) := by
  unfold gotBytes at h; split at h
  · exact ⟨_, _, rfl⟩
  · cases h

/-- The record of the LAUNCH stands in scratch. -/
theorem witness_TrapEventCycleAndLaunchForms :
    Issues (tS tF) tT tF 0 ∧ ((tS tF).tile tT).dbg.brken = false ∧
    (let s := tSx tF (fun x => { x with dbg := { x.dbg with brken := true } })
     Issues s tT tF 0 ∧ (s.tile tT).dbg.brken = true) ∧
    Usable tF (octSlots 127) ∧ Usable tF (sl 3) ∧ Usable tF (sl 5 ++ sl 2) ∧ (tF.slot 3).toNat % 64 ≠ 0 ∧
    (tF.slot 14).toNat % 64 = 0 ∧ covered tF (tF.slot 14).toNat 256 false = false ∧
    sa % 64 = 0 ∧ covered tF sa 256 false = true ∧ (∃ b s1, plainRead tT tF 4 (tS tF) sa 256 [] = .ok (.got b s1)) :=
  ⟨issues0, by decide, ⟨⟨rfl, rfl, by decide, rfl⟩, by decide⟩, usable _ (by decide), usable _ (by decide), usable _ (by decide),
   by decide, by decide, by decide, by decide, by decide +kernel, got_bytes (by decide +kernel)⟩

/-- A request of CFGLD for column 16, row 15, a shape of one tile. -/
def tReq : List Host.Cell := [(0x9023, 16), (0x9024, 15), (0x9025, 1), (0x9026, 1)]
/-- The same with a width of 17. -/
def tReqBad : List Host.Cell := [(0x9023, 16), (0x9024, 15), (0x9025, 17), (0x9026, 1)]
def blockOf (l : List Host.Cell) : List Byte := memBytes (tK l).mem (dramKey 0 0x9000) 64

theorem witness_ConfigurationQueueAndRegisterForms :
    Issues (tK tReq) tKt tKF 0 ∧ isControl tKt = true ∧ Usable tKF (sl 1023 ++ sl 1) ∧ (tKF.slot 2).toNat % 64 ≠ 0 ∧
    (tKF.slot 1).toNat % 64 = 0 ∧ cfgReqOk (blockOf tReq) (readCfgReq (blockOf tReq)) = true ∧
    (∀ c ∈ tabGet [] (tK tReq).cache (readCfgReq (blockOf tReq)).stk, c.key ≠ (readCfgReq (blockOf tReq)).key) ∧
    (Issues (tK tReqBad) tKt tKF 0 ∧ cfgReqOk (blockOf tReqBad) (readCfgReq (blockOf tReqBad)) = false) ∧
    Usable tKF (octSlots 127 ++ sl 3) ∧ Usable tKF (sl 3 ++ sl 4) ∧ Issues (tS tF) tT tF 0 ∧ isControl tT = false :=
  ⟨issuesK _, by decide, usableK _ (by decide), by decide, by decide, by decide, by decide, ⟨issuesK _, by decide⟩,
   usableK _ (by decide), usableK _ (by decide), issues0, by decide⟩

/-- The control tile's machine with its context changed, and with a launch of context 0. -/
def tKc (c : Ctx) : State := { tK [] with ctxs := [(0, c)] }
def tLaunch : Launch :=
  { lid := 1, ctx := 0, cls := 0, queue := 0, record := false, replay := false, shpw := false, reshape := false, levels := [], deps := []
    cevid := 0, ghash := [], imgp := 0, imglen := 0, quant := 0, argp := 0, shapes := [], devs := [], st := .running, age := none, bypass := 0
    saves := 0, admitted := none, held := none, cfg := [], image := [], insts := [], reserved := [] }
theorem issuesKc (c : Ctx) (l : List Launch) : Issues { tKc c with launches := l } tKt tKF 0 := ⟨rfl, rfl, by decide, rfl⟩

/-- The operation stands in slot 3, 4 or 5 (3 HALT, 4 RESET, 5 RESTORE), 6 (an operation that is none), 7 (ENABLE) or 8 (QUERY); the
context is 0. -/
theorem witness_ContextControlForms :
    isControl tKt = true ∧ Usable tKF (sl 1023 ++ (sl 8 ++ sl 3)) ∧
    (((tKF.slot 8).setWidth 4).toNat = 0 ∧
      (Issues { tKc {} with launches := [] } tKt tKF 0 ∧ ((tKc {}).ctx 0).part = none) ∧
      (Issues { tKc { tCtx with halted := true } with launches := [] } tKt tKF 0 ∧ ((tKc { tCtx with halted := true }).ctx 0).halted = true) ∧
      (Issues { tKc tCtx with launches := [tLaunch] } tKt tKF 0 ∧ ∃ l ∈ [tLaunch], l.ctx = 0 ∧ l.st = .running) ∧
      (Issues { tKc tCtx with launches := [] } tKt tKF 0 ∧ ((tKc tCtx).ctx 0).halted = false ∧ ((tKc tCtx).ctx 0).part ≠ none)) ∧
    ((tKF.slot 7).setWidth 4).toNat = 1 ∧ ((tKF.slot 3).setWidth 4).toNat = 3 ∧ ((tKF.slot 4).setWidth 4).toNat = 4 ∧
    (((tKF.slot 5).setWidth 4).toNat = 5 ∧ (tKF.slot 5).extractLsb' 48 16 = 0 ∧ (tKF.slot 5).extractLsb' 4 12 = 0 ∧
      (∃ v s2, ctxRestore (tK []) 0 0 (tKF.slot 5) = (some v, s2))) ∧ 6 ≤ ((tKF.slot 6).setWidth 4).toNat :=
  ⟨by decide, usableK _ (by decide),
   ⟨by decide, ⟨issuesKc _ _, rfl⟩, ⟨issuesKc _ _, rfl⟩, ⟨issuesKc _ _, ⟨_, List.mem_singleton_self _, rfl, rfl⟩⟩,
    ⟨issuesKc _ _, rfl, by decide⟩⟩, by decide, by decide, by decide, ⟨by decide, by decide, by decide, ⟨_, _, rfl⟩⟩, by decide⟩

/-- Commands of PRTCTL: one that breaks a rule (COLTHR 17); CREATE of partition 15 with column 1, of partition 1 with column 0, which
partition 0 holds, and of partition 0; then RESIZE, DESTROY and PARAM of partitions 0 and 15, BIND of context 1 and of context 0. -/
def tBadCmd : List Host.Cell := [(0x9000, 1), (0x9001, 15), (0x9003, 17)]
def tCreate : List Host.Cell := [(0x9000, 1), (0x9001, 15), (0x9008, 2)]
def tMeets : List Host.Cell := [(0x9000, 1), (0x9001, 1), (0x9008, 1)]
def tAgain : List Host.Cell := [(0x9000, 1)]
def tOpc (o : Byte) : List Host.Cell := [(0x9000, o)]
def tOpc15 (o : Byte) : List Host.Cell := [(0x9000, o), (0x9001, 15)]
def tBindFree : List Host.Cell := [(0x9000, 5), (0x901A, 1)]
def cmdOf (l : List Host.Cell) : PrtCmd := readPrtCmd (blockOf l)
def tNoCtx : State := { tK (tOpc 3) with ctxs := [] }

theorem witness_PartitionControlForms :
    isControl tKt = true ∧ Usable tKF (sl 1023 ++ sl 1) ∧ (tKF.slot 1).toNat % 64 = 0 ∧ (∀ l, Issues (tK l) tKt tKF 0) ∧
    prtCmdOk (blockOf tBadCmd) (cmdOf tBadCmd) = false ∧
    (prtCmdOk (blockOf tAgain) (cmdOf tAgain) = true ∧ (cmdOf tAgain).opc = 1 ∧ ((tK tAgain).part 0).exist = true) ∧
    (prtCmdOk (blockOf tMeets) (cmdOf tMeets) = true ∧ ((tK tMeets).part 1).exist = false ∧ prtConflict (tK tMeets) (cmdOf tMeets) = true) ∧
    (prtCmdOk (blockOf tCreate) (cmdOf tCreate) = true ∧ ((tK tCreate).part 15).exist = false ∧
      prtConflict (tK tCreate) (cmdOf tCreate) = false ∧ (tK tCreate).devid.getLsbD 12 = true) ∧
    (∀ o ∈ [2, 3, 4, 5], prtCmdOk (blockOf (tOpc15 o)) (cmdOf (tOpc15 o)) = true ∧ (cmdOf (tOpc15 o)).part = 15) ∧
    (prtCmdOk (blockOf (tOpc 2)) (cmdOf (tOpc 2)) = true ∧ (cmdOf (tOpc 2)).opc = 2 ∧ prtConflict (tK (tOpc 2)) (cmdOf (tOpc 2)) = false ∧
      ∀ l ∈ (tK (tOpc 2)).launches, (tK (tOpc 2)).partOfCtx l.ctx ≠ (cmdOf (tOpc 2)).part) ∧
    (prtCmdOk (blockOf (tOpc 3)) (cmdOf (tOpc 3)) = true ∧ (cmdOf (tOpc 3)).opc = 3 ∧ ∃ x ∈ (tK (tOpc 3)).ctxs, x.2.part = some 0) ∧
    (Issues tNoCtx tKt tKF 0 ∧ (tNoCtx.part 0).exist = true ∧ (tNoCtx.part 0).resizing = none ∧ ∀ x ∈ tNoCtx.ctxs, x.2.part ≠ some 0) ∧
    (prtCmdOk (blockOf tBindFree) (cmdOf tBindFree) = true ∧ (cmdOf tBindFree).opc = 5 ∧ ((tK tBindFree).ctx (cmdOf tBindFree).ctx).part = none) ∧
    (cmdOf (tOpc 5)).ctx = 0 ∧ ((tK (tOpc 5)).ctx 0).part ≠ none :=
  ⟨by decide, usableK _ (by decide), by decide, issuesK, by decide, ⟨by decide, by decide, by decide⟩, ⟨by decide, by decide, by decide⟩,
   ⟨by decide, by decide, by decide, by decide⟩, by decide, ⟨by decide, by decide, by decide, by intro l h; cases h⟩,
   ⟨by decide, by decide, ⟨_, List.mem_singleton_self _, rfl⟩⟩, ⟨⟨rfl, rfl, by decide, rfl⟩, by decide, by decide, by intro x h; cases h⟩,
   ⟨by decide, by decide, by decide⟩, by decide, by decide⟩

/-! ## Steps, decoding, faults, frames -/

/-- A machine whose next step is the word ADD.D r3, r1, r2 of R63 without its guard. -/
def tAdd : State := State.reset.withFetchWord 64 0x8000018020100000
def tAddo : HR3 := { a := true, g := 0, d := 3, s := 1, t := 2, w := .w64 }
def isNext (o : Outcome) : Bool := match o with | .next _ => true | _ => false
theorem is_next {o : Outcome} (h : isNext o = true) : ∃ s, o = .next s := by
  unfold isNext at h; split at h
  · exact ⟨_, rfl⟩
  · cases h

theorem witness_StepRunsTheDecodedInstruction :
    choose tAdd = some (.word tT wordFiring) ∧ wordFiring.failed = none ∧ tAdd.errs = [] ∧
    tabFind (tAdd.tile tT).code wordFiring.pc = some { word := 0x8000018020100000, header := false } ∧
    decodeWord 0x8000018020100000#64 = .ok (.form (.add tAddo)) ∧ tAdd.firing? tT wordFiring.id = some wordFiring ∧
    ∃ s2, execFetched tT { wordFiring with st := .running } (.form (.add tAddo)) (issuing tT wordFiring tAdd) = .next s2 :=
  ⟨by decide +kernel, rfl, rfl, by decide +kernel, by decide +kernel, by decide +kernel, is_next (by decide +kernel)⟩

theorem witness_DecodingUndoesEncoding :
    (Instr.add tAddo).wf = true ∧ encode (.add tAddo) = some 0x8000018020100000#64 ∧
    (Instr.ctxctlHalt { g := 15, d := 1023, s := 1022, t := 1021 }).wf = true ∧
    ∃ w, encode (.ctxctlHalt { g := 15, d := 1023, s := 1022, t := 1021 }) = some w := ⟨by decide, by decide +kernel, by decide, ⟨_, rfl⟩⟩
theorem witness_AcceptedWordsAreTheirEncoding : (∃ x, decodeWord 0x8004018020100000#64 = .ok x) ∧
    ((0x0B00000000000000#64 : Word).extractLsb' 56 7).toNat = 0x0B ∧ ((0xFF00000000000000#64 : Word).extractLsb' 56 7).toNat = 0x7F :=
  ⟨⟨_, rfl⟩, by decide, by decide⟩
theorem witness_EveryStepKeepsTheInvariants : Inv tAdd ∧ ∃ s', step tAdd = .next s' :=
  ⟨⟨rfl, by intro r h; cases h⟩, is_next (by decide +kernel)⟩

def tCommitted : Firing := { tF with committed := true }
theorem witness_FaultsSuspendAbortOrRetry :
    (tS tF).firing? tT tF.id = some tF ∧ (tS tCommitted).firing? tT 0 = some tCommitted ∧
    classOf { code := .illegal } = .program ∧ classOf { code := .winfull } = .waits ∧ classOf { code := .parity } = .retries ∧
    (tS { tF with retries := 2 }).firing? tT 0 = some { tF with retries := 2 } ∧
    (tS { tCommitted with retried := true }).firing? tT 0 = some { tCommitted with retried := true } :=
  ⟨rfl, rfl, by decide, by decide, by decide, rfl, rfl⟩

/-- A firing with a frame of 16 slots, one with a write to slot 5 to come, and one that a guard turns off. -/
def tSmall : Firing := { tF with frame := 16 }
def tPending : Firing := { tF with pend := [{ src := .remote 7, d := 5, n := 1, how := .zext 8 }] }
theorem witness_GuardsAndSlotsComeFirst :
    (Issues (tS tSmall) tT tSmall 0 ∧ sl 3 ++ sl 16 ++ sl 5 = [3] ++ 16 :: [5] ∧ (∀ x ∈ [3], x < tSmall.frame) ∧ tSmall.frame ≤ 16) ∧
    (Issues (tS tPending) tT tPending 0 ∧ (∀ x ∈ sl 3 ++ sl 4 ++ sl 5, x < tPending.frame) ∧
      ∃ x ∈ sl 3 ++ sl 4 ++ sl 5, tPending.isPending x = true) ∧
    (∃ r, (Instr.add { tAddo with g := 2 }).raw? = some r ∧ (tS tF).cur = some (tT, tF.id) ∧ (tS tF).firing? tT tF.id = some tF ∧
      tF.guard r.g = false) :=
  ⟨⟨issues _ _ (by decide), by decide, by decide, by decide⟩, ⟨issues _ _ (by decide), by decide, by decide⟩,
   ⟨_, rfl, rfl, rfl, by decide⟩⟩
theorem witness_FormsBelowTheMemoryFormsLeaveMemory :
    ∃ r s', (Instr.add tAddo).raw? = some r ∧ r.op.toNat < 0x28 ∧ exec (.add tAddo) (tS tF) = .next s' := by
  obtain ⟨s', h⟩ := is_next (o := exec (.add tAddo) (tS tF)) (by decide +kernel)
  exact ⟨_, s', rfl, by decide, h⟩

/-! ## Memory steps, requests, engines -/

/-- A load of another device whose answer fills slot 1023, or octet 0. -/
def tPd (h : PendHow) : Firing := { tF with st := .stalled, wait := .remote 7, pend := [{ src := .remote 7, d := 1023, n := 1, how := h }] }
def tReg1 (w : Bool) (v : Nat) : Reg :=
  { wid := 9, holder := .firing tT 0, range := false, ctx := 0, w, area := [{ base := v, rowb := 64, pitch := 64, rows := 1 }]
    pages := [{ va := sa, len := 65536, pa := 2 ^ 44, gpa := 0 }], closing := false }
def tWt (r : Reg) (d : Bool) : WtReq := { rid := 7, who := .window tT 0 2, regs := [(0, r)], uses := [], due := 100, decided := d }
/-- The machine with a waiting request, and registrations in the window table of stack 0. -/
def tW (f : Firing) (w : WtReq) (l : List Reg) : State := (tS f).setStack 0 { (tS f).stack 0 with waits := [w], regs := l }
def tRival : Reg := { tReg1 true sa with wid := 4, holder := .firing tT 5 }
/-- A table with one entry left. -/
def tFull : List Reg := [{ tRival with wid := 3, w := false, pages := List.replicate 4095 { va := 0, len := 65536, pa := 0, gpa := 0 }, area := [] }]
def tClose (n : Nat) : CloseRec := { cid := 6, t := tT, fid := 0, win := 1, stk := 0, wid := 9, acks := n }
def tHome (a n : Nat) : HomeReq :=
  { kind := .store, addr := a, size := n, val := BitVec.allOnes 1024, cmp := 0, sg := false, mask := 0 }

theorem witness_MemoryStepsAnswerGrantAndClose :
    (∃ p, (tS (tPd (.zext 8))).firing? tT 0 = some (tPd (.zext 8)) ∧ (tPd (.zext 8)).pend = [p] ∧ p.src = .remote 7 ∧ p.mask = 0 ∧
      p.how = .zext 8) ∧
    (∃ p, (tS (tPd .octet)).firing? tT 0 = some (tPd .octet) ∧ (tPd .octet).pend = [p] ∧ p.src = .remote 7 ∧ p.how = .octet) ∧
    (let w := tWt (tReg1 true sa) false
     ((tW tF w tFull).stack 0).waits = [w] ∧ w.decided = false ∧ w.winner = none ∧ w.rid = 7 ∧ firstConflict (tW tF w tFull) 0 (tReg1 true sa) = none ∧
       regsFit (tW tF w tFull) [(0, tReg1 true sa)] = true ∧ wtUsed ((tW tF w tFull).stack 0) + (tReg1 true sa).pages.length = 4096) ∧
    (let w := tWt (tReg1 true sa) false
     let s := tW tF w [tRival]
     firstConflict s 0 (tReg1 true sa) = some tRival ∧ ∃ s1,
       (match w.logged s 0 with | some (i, src, obj) => raceDecided s i src obj (holderValue tRival.holder) | none => some s) = some s1) ∧
    (let w := tWt (tReg1 true sa) true
     ((tW tF w []).stack 0).waits = [w] ∧ w.rid = 7 ∧ w.decided = true ∧ w.who = .window tT 0 2 ∧ (tW tF w []).firing? tT 0 = some tF ∧
       tF.loops = [] ∧ ∃ b, (tReg1 true sa).area = [b]) ∧
    (∀ n, { tS tF with closes := [tClose n] }.closes = [tClose n] ∧ (tClose n).cid = 6 ∧ (tClose n).notice = none) ∧ 1 < (tClose 2).acks ∧ (tClose 1).acks ≤ 1 ∧
    (let r := tHome 0x1040 64
     r.kind = .store ∧ r.addr % 128 + r.size ≤ 128 ∧ 1 ≤ r.size ∧ busFailed (tS tF) r.addr = false ∧ Memory.wf (tS tF).mem = true) :=
  ⟨⟨_, rfl, rfl, rfl, rfl, rfl⟩, ⟨_, rfl, rfl, rfl, rfl⟩, by decide +kernel, ⟨rfl, _, rfl⟩,
   ⟨rfl, rfl, rfl, rfl, rfl, rfl, ⟨_, rfl⟩⟩, fun n => ⟨rfl, rfl, rfl⟩, by decide,
   by decide, by decide +kernel⟩

/-- A machine whose context 0 admits context 3 of device 30, and a request of device d for 128 bytes at 0x1000 of that context. -/
def tPeer : State := { tS tF with ctxs := [(0, { tCtx with peers := [(30, BitVec.ofNat 32 (2 ^ 31 + 2 ^ 30 + 30 * 2 ^ 16 + 3))] })] }
def tAsk (k : HomeKind) (d : Nat) : RemReq :=
  { srcDev := d, srcStk := 3, srcCtx := 3, rid := 77, agent := 0, stk := 0, rctx := 0, va := 0x7C000000001000, off := 0x1000, isOpen := false
    openW := false, rowb := 0, pitch := 0, rows := 0, req := { tHome 0 128 with kind := k } }
def tDone : State := tPeer.setStack 0 { tPeer.stack 0 with served := [(30, 3, 77, .data 0)] }
/-- A load of another device in flight, due at cycle n. -/
def tFar (n : Nat) : RemOut :=
  { rid := 7, stk := 0, ctx := 0, dev := 30, dstk := 1, rctx := 3, va := 0x1000, off := 0x1000, key := 0x1000, who := .load tT 0
    req := { tHome 0 8 with kind := .load }, isOpen := false, openW := false, rowb := 0, pitch := 0, rows := 0, due := n }
def tFarOut (n : Nat) : State := ({ tS (tPd (.zext 8)) with remote := [tFar n] }).setStack 0 { cyc := 24000 }
def isFine {α : Type} (x : Except FInfo α) : Bool := match x with | .ok _ => true | _ => false
theorem is_fine {α : Type} {x : Except FInfo α} (h : isFine x = true) : ∃ a, x = .ok a := by
  unfold isFine at h; split at h
  · exact ⟨_, rfl⟩
  · cases h

/-- The page of the request. -/
def tAskP : XPage :=
  match ownerXlate tPeer 0 0 0x1000 false 0x7C000000001000 0 with
  | .ok p => p
  | _ => { stk := 0, key := 0, off := 0, size := 0, gpa := 0, leaf := none, step := none }
theorem fine_eq {x : Except FInfo XPage} {d : XPage} (h : isFine x = true) : x = .ok (match x with | .ok p => p | _ => d) := by
  obtain ⟨a, rfl⟩ := is_fine h; rfl

/-- The page at LOWN 1 is context 3's at stack 1 of device 30; the firing has a window there, a reservation and its address in slot 16. -/
def ra : Nat := 0x4000000001000
def tFr : Firing :=
  { tF with wins := [(2, { w := true, base := BitVec.ofNat 64 ra, rowb := 128, pitch := 128, rows := 1, wid := 8, stk := 0, remote := true
                           key := awayKey 30 1 3 0x1000 })]
            slots := tF.slots ++ [(16, BitVec.ofNat 64 ra)], resv := some { va := BitVec.ofNat 64 ra, size := 8, granule := none } }
def tRs : State :=
  { (tS tFr).setStack 0 { routes := [(30, 0)] } with
      ctxs := [(0, { tCtx with omap := tCtx.omap ++ [(1, BitVec.ofNat 32 (2 ^ 31 + 30 * 2 ^ 16 + 2 ^ 14 + 3))] })] }

theorem witness_RequestsBetweenDevicesAreServedOnce :
    (Issues tRs tT tFr 0 ∧ Usable tFr (sl 1023 ++ sl 16 ++ sl 3) ∧ Usable tFr (octSlots 127 ++ sl 16) ∧ effAddr tFr 16 0 64 = ra ∧
      effAddr tFr 16 0 8 = ra ∧ ra % 64 = 0 ∧
      waveOkAfter tFr.waveLast wFirst = true ∧ covered tFr ra 64 false = true ∧ routed tRs tT.stk 30 = true ∧
      (∀ k w, locate tRs (accessOf tRs tT tFr k w ra) = .ok (.away 30 1 3 0x1000)) ∧ relReady tRs tT tFr = true ∧
      (ownBytes tRs tT tFr.id (awayKey 30 1 3 0x1000)).2 / 2 ^ (awayKey 30 1 3 0x1000 % 128) % 2 ^ 64 ≠ 2 ^ 64 - 1 ∧
      awayKey 30 1 3 0x1000 % 128 = 0 ∧ rdcFind tRs tT.stk (tRs.ctxOf tFr) (awayKey 30 1 3 0x1000) = none ∧
      tFr.resv.any (fun r => decide (r.va.toNat = ra) && decide (r.size = 8)) = true ∧ tFr.resend = none ∧
      ∃ s1, atomicTurn tRs tT tFr ra = .ok (.inl s1)) ∧
    ((tAsk .load 31).req.kind = .load ∧ isPeer tPeer 0 30 31 3 = false ∧ tPeer.wasReset = false ∧ { tPeer with wasReset := true }.wasReset = true ∧
      isPeer tPeer 0 30 30 3 = true ∧ ownerXlate tPeer 0 0 0x1000 false 0x7C000000001000 0 = .ok tAskP ∧
      windowTouched (noteUse tPeer tAskP) tAskP.key = none ∧ lineSound (noteUse tPeer tAskP) tAskP.key = .ok ()) ∧
    (isPeer tDone 0 30 30 3 = true ∧ (tAsk .store 30).req.kind = .store ∧ servedBefore (tDone.stack 0) (tAsk .store 30) = some (.data 0)) ∧
    (∀ q ∈ tPeer.remote, q.rid ≠ 7) ∧
    ((tFarOut 24000).remote = [tFar 24000] ∧ (tFar 24000).who = .load tT 0 ∧ (tFar 24000).sent = true ∧ (tFar 24000).req.kind = .load ∧
      (tFarOut 24000).firing? tT 0 = some (tPd (.zext 8)) ∧ (tPd (.zext 8)).wait = .remote (tFar 24000).rid ∧ (tFar 24000).due ≠ 0 ∧
      (tFar 24000).due ≤ (tFarOut 24000).cyc 0 ∧ (tFarOut 24001).cyc 0 < (tFar 24001).due) :=
  ⟨⟨⟨rfl, rfl, by decide, rfl⟩, fun d hd => ⟨by revert d; decide, rfl⟩, fun d hd => ⟨by revert d; decide, rfl⟩, by decide, by decide,
     by decide, by decide, by decide, by decide, (by intro k w; cases w <;> cases k <;> decide +kernel), by decide, by decide, by decide, by decide, by decide, rfl, ⟨_, rfl⟩⟩,
   ⟨rfl, by decide +kernel, rfl, rfl, by decide +kernel, fine_eq (d := { stk := 0, key := 0, off := 0, size := 0, gpa := 0, leaf := none, step := none }) (by decide +kernel), by decide +kernel,
      by decide +kernel⟩,
   ⟨by decide +kernel, rfl, rfl⟩, (by intro q h; cases h), ⟨rfl, rfl, rfl, rfl, rfl, rfl, by decide, by decide +kernel, by decide +kernel⟩⟩
/-! ## Firings and instances -/

/-- A tile whose actor 18 has one input and one output port, a frame of 32 slots, and an indexed token of tag 0. -/
def hdr1 : CodeWord := { word := BitVec.ofNat 64 (32 * 2 ^ 53 + 1 * 2 ^ 50 + 1 * 2 ^ 47), header := true }
def tActor (l : List Firing) (x : Tile) : Tile :=
  { x with code := (0, hdr1) :: x.code.drop 1, nodes := [(18, 1)], firings := l, outs := [(portKey 18 0, { tOut with dnode := 19 })]
           edges := [(portKey 18 0, { tEdge with fifo := [{ tok := tTok, indexed := true }] }), (portKey 19 0, { tEdge with fifo := [] })]
           sources := [(18, 0, 0)] }
def tBorn (l : List Firing) : State := tSx tF (tActor l)
def tWaiting : Firing := { tF with st := .waiting, id := 31 }
/-- 31 entries are held by frames of 272 slots in all, so that one of 32 slots fits. -/
def tOthers : List Firing := (List.range 31).map (fun k => { tF with id := k, entry := k, frame := if k < 17 then 16 else 0 })
def tStalled (w : Wait) : Firing := { tF with st := .stalled, wait := w }
def tDrain : Firing := { tF with st := .draining, rstep := 4 }
def tDrain0 : Firing := { tF with st := .draining, wins := [] }
def tLaunched (st : LSt) : State := { tS { tF with st := .suspended } with launches := [{ tLaunch with lid := 0, st }] }
/-- An instance that has not been placed, with its configuration in the cache. -/
def tCfg : PlacedCfg := { key := [1], hash := [], w := 1, h := 1, tiles := [], loaded := 0 }
def tFresh : State :=
  { State.reset with boot := .running, parts := [(0, tPart)], cache := [(0, [tCfg])], insts := [{ tInst with armed := false, cfg := [1] }] }
/-- An instance whose tile holds nothing, at cycle n of its stack. -/
def tIdle (f : List Firing) (n : Nat) : State :=
  ({ tM { inst := some 0, firings := f } with insts := [tInst] }).setStack 0 { cyc := n }

theorem witness_FiringsLiveFromRuleToRetire :
    ((((tBorn []).tile tT).inst = some tInst.id ∧ ((tBorn []).tile tT).stopped = false ∧ ((tBorn []).tile tT).isActor 18 = true ∧
      hdrNin (((tBorn []).tile tT).header 18) = 1 ∧ mayFire (tBorn []) tT 18 0 = true ∧ (∃ x' l,
      assignPorts 18 (((tBorn []).tile tT).header 18) 0 (hdrNin (((tBorn []).tile tT).header 18)) 0 ((tBorn []).tile tT) [] = some (x', l))) ∧
     ((tBorn []).inst? 0 = some tInst ∧ tInst.armed = true ∧ tInst.halting = false ∧
      (((tBorn []).tile tT).sources.find? (fun q => decide (q.1 = 18) && decide (q.2.1 = 0))) = some (18, 0, 0) ∧
      hdrNout (((tBorn []).tile tT).header 18) ≠ 0)) ∧
    (let s := tBorn (tOthers ++ [tWaiting])
     (s.tile tT).firings.find? (fun f => decide (f.st = .waiting)) = some tWaiting ∧ freeEntry (s.tile tT) = some 31 ∧
       granulesUsed (s.tile tT) + hdrGranules ((s.tile tT).header tWaiting.node) ≤ 512) ∧
    (let s := fun w p => tSx (tStalled w) (fun x => { x with tagP := [(18, p)] })
     (∀ w p, (s w p).firing? tT 0 = some (tStalled w)) ∧ ((s .none 0).tile tT).stopped = false ∧
     ((s (.tags 0x8000) 0x8000).tile tT).tagPend tF.node &&& 0x8000#16 ≠ 0 ∧ ((s (.tags 0x8000) 0).tile tT).tagPend tF.node &&& 0x8000#16 = 0 ∧
     (0 : Nat) ≤ ((s .none 0).plane 7).gseq.toNat ∧ (∀ c ∈ cwaitSet ((s .none 0).tile tT) (tStalled .none) (some 4), c.st = .done) ∧
     (∀ c < 8, (0x80 : BitVec 8).getLsbD c = true → loadingCtx ((s .none 0).tile tT) c = false)) ∧
    (∀ f ∈ [{ tDrain with wins := [] }, tDrain0], (tS f).firing? tT 0 = some f ∧ f.failed = none ∧ owedBy ((tS f).tile tT) 0 = none ∧
      workDone ((tS f).tile tT) f = true ∧ f.wins = [] ∧ relReady (tS f) tT f = true ∧ hdrOrd (((tS f).tile tT).header f.node) = false ∧
      ∃ g, (if f.rstep < 4 then releaseTokens (tS f) tT f else tS f).firing? tT 0 = some g ∧ g.out = [] ∧ g.exitStatus = none) ∧
    (tS { tF with st := .aborted }).firing? tT 0 = some { tF with st := .aborted } ∧
    ((tLaunched .running).firing? tT 0 = some { tF with st := .suspended } ∧ tF.wait = .none ∧
      (∀ p ∈ (tLaunched .running).stks, p.2.regs = []) ∧
      (tLaunched .running).inst? 0 = some tInst ∧ ((tLaunched .running).launch? 0 0).isSome = true) ∧
    (let i := { tInst with armed := false, cfg := [1] }
     tFresh.inst? 0 = some i ∧ i.armed = false ∧ i.saved = false ∧ (∀ u ∈ i.rect, (tFresh.tile u).inst ≠ some 0) ∧ instCfg tFresh i = some tCfg ∧
      ∃ j, (cacheTouch (placeTiles tFresh i tCfg) 0 [1]).inst? 0 = some j) ∧
    (tIdle [] 0).inst? 0 = some tInst ∧ instEnded (tIdle [] 0) tInst = true ∧
    (let s := tIdle [tF] (2 ^ 20)
     instEnded s tInst = false ∧ tInst.resident = false ∧ tInst.dhold = false ∧ (∀ f ∈ liveFirings s tInst, waitHolds f = false) ∧
       tInst.wd + 2 ^ (s.part tInst.part).wdlog.toNat ≤ s.cyc tInst.stk) ∧
    (tIdle [tF] (2 ^ 20 - 1)).cyc tInst.stk < tInst.wd + 2 ^ ((tIdle [tF] 0).part tInst.part).wdlog.toNat := by
  refine ⟨⟨⟨rfl, by decide, by decide, by decide, by decide, ⟨_, _, rfl⟩⟩, ⟨rfl, rfl, rfl, rfl, by decide⟩⟩, ?_, ?_, ?_, rfl, ?_, ?_, rfl,
    by decide, ?_, by decide⟩
  · exact ⟨by decide +kernel, by decide +kernel, by decide +kernel⟩
  · exact ⟨fun _ _ => rfl, by decide, by decide, by decide, by decide, by decide, by decide⟩
  · intro f h
    simp only [List.mem_cons, List.not_mem_nil, or_false] at h
    rcases h with rfl | rfl
    · exact ⟨rfl, rfl, rfl, by decide, rfl, by decide, by decide, ⟨_, rfl, rfl, rfl⟩⟩
    · exact ⟨rfl, rfl, rfl, by decide, rfl, by decide, by decide, ⟨_, rfl, rfl, rfl⟩⟩
  · exact ⟨rfl, rfl, by decide, rfl, by decide⟩
  · exact ⟨rfl, rfl, rfl, by decide, rfl, ⟨_, rfl⟩⟩
  · exact ⟨by decide, rfl, rfl, by decide, by decide⟩
/-! ## Tokens and tiles -/

/-- A token in the network, and the machine with it alone, at the tile of an actor with an edge of depth 2 on port 5. -/
def tFly (k : Token) (a : TileId) : NetTok := { id := 3, tok := k, at_ := a, tries := 0, src := tT, direct := false }
def tNet (k : Token) (a : TileId) (l : List FTok) : State :=
  let s := tSx tF (fun x => { x with nodes := [(18, 1)], edges := [(portKey 18 5, { tEdge with fifo := l, expect := 0xFFFF })] })
  { s with net := [tFly k a] }
def tTok1 : Token := { tTok with seq := 0xFFFF }
def fTok : FTok := { tok := tTok, indexed := false }
def tAt (x y : Nat) : TileId := { stk := 0, x, y }

theorem witness_TokensReachTheirPorts :
    (∀ a, (tNet tTok1 a []).net = [tFly tTok1 a] ∧ (tFly tTok1 a).refused = false ∧ (tNet tTok1 a []).badHops = [] ∧ (tNet tTok1 a []).errs = []) ∧
    (tFly tTok1 tT).tok.dev.toNat = (tNet tTok1 tT []).dev ∧ tTok1.tile = tT ∧ (tAt 0 0).x < tTok1.tile.x ∧ tTok1.tile.x < (tAt 16 0).x ∧ (tAt 1 15).x = tTok1.tile.x ∧ tTok1.tile.y < (tAt 1 15).y ∧
    { tTok1 with ty := 15 }.tile.x = (tAt 1 0).x ∧ (tAt 1 0).y < { tTok1 with ty := 15 }.tile.y ∧
    (({ tTok1 with dev := 4095 } : Token).dev.toNat ≠ (tNet tTok1 tT []).dev ∧ tabFind ((tNet tTok1 tT []).stack 0).routes 4095 = none) ∧
    ({ tTok1 with bytes := 65 }.malformed = true ∧ (State.reset.tile tT).inst = none ∧ { tTok1 with bytes := 65, kind := 1 }.malformed = true) ∧ { tTok1 with bytes := 64 }.malformed = false ∧
    (let s := tNet tTok1 tT [fTok]
     (s.tile tT).inst = some tInst.id ∧ s.inst? 0 = some tInst ∧ tInst.ctx = tTok1.ctx.toNat ∧ tTok1.kind = 0 ∧
       tabFind (s.tile tT).edges (portKey 18 6) = none ∧
       (∃ e, tabFind (s.tile tT).edges (portKey 18 5) = some e ∧ tTok1.seq = e.expect ∧ e.fifo.length < e.depth ∧ e.early = []) ∧
       (s.tile tT).isActor 18 = true ∧ tTok1.skip = 0 ∧
       ∃ e, tabFind ((tNet tTok1 tT [fTok, fTok]).tile tT).edges (portKey 18 5) = some e ∧ e.depth ≤ e.fifo.length) ∧
    (∃ o, tabFind ((tSx tF tMat).tile tT).outs (portKey 16 3) = some o ∧ o.waiting = [] ∧ o.reqs = []) ∧
    (∃ e, tabFind ((tNet tTok1 tT []).tile tT).edges (portKey 18 5) = some e ∧ 1 < e.depth ∧ e.early = [] ∧ e.fifo = [] ∧ e.asked ≤ e.arrived) ∧
    (∃ e, tabFind ((tNet tTok1 tT [fTok]).tile tT).edges (portKey 18 5) = some e ∧ e.fifo ≠ []) :=
  ⟨fun a => ⟨rfl, rfl, rfl, rfl⟩, by decide, by decide, by decide, by decide, by decide, by decide, by decide, by decide,
   ⟨by decide, rfl⟩, ⟨by decide +kernel, rfl, by decide +kernel⟩, by decide +kernel, ⟨rfl, rfl, rfl, rfl, rfl, ⟨_, rfl, by decide, by decide, rfl⟩, by decide, rfl, ⟨_, rfl, by decide⟩⟩, ⟨_, rfl, rfl, rfl⟩,
   ⟨_, rfl, by decide, rfl, rfl, by decide⟩, ⟨_, rfl, by decide⟩⟩

/-- A tile with one node n of mode sub, tokens at its input ports, a parameter block and a state. -/
def tSo (n sub : Nat) (es : List (Nat × Token)) (ps : List Byte) (v : SoState) : State :=
  tM { inst := some 0, nodes := [(n, BitVec.ofNat 96 (sub * 2 ^ 84))], params := [(n, ps)], so := [(n, v)]
       edges := es.map (fun q => (portKey n q.1, { tEdge with pull := false, fifo := [{ tok := q.2, indexed := false }] })) }
def tMp (v : SoState) : State := tSo 14 0 [] [] v
/-- An MPORT with a latch of 64 KiB at an address; owner 1 is stack 0 of device 5. -/
def tLatch (a : Nat) : Latch := { va := a, size := 65536, dev := 0, stk := 0, base := none, off := 0, gpa := 0, why := none }
def tMpAt (a : Nat) : State :=
  let s := tMp { latches := [tLatch a] }
  { s with ctxs := [(0, { tCtx with omap := [(0, 0x80000000), (1, 0x80050003)] })], stks := [(0, { routes := [(5, 0)] })] }
def tFound (a : Nat) : Except FInfo Place := locate (tMpAt a) (mpAccess (tMpAt a) tT 0 false a)
def tHalting (p : Bool) : State := tSx tF (fun x => { x with halting := true, firings := if p then [{ tF with st := .ready, held := false }] else [] })
def tDbg (d : DbgState) (l : List Firing) : State := tSx tF (fun x => { x with dbg := d, firings := l })

theorem witness_TilesHaltHoldAndRelatch :
    (∀ a, ((tMpAt a).tile tT).bound 14 = true ∧ ((tMpAt a).tile tT).inst = some tInst.id ∧ ((tMpAt a).tile tT).soOf 14 = { latches := [tLatch a] } ∧
      (tMpAt a).inst? 0 = some tInst ∧ mpBusy (tMpAt a) { latches := [tLatch a] } = false) ∧
    mpBusy (tMpAt sa) { asked := [(0, 1)] } = true ∧
    (∀ a ∈ [sa, 2 ^ 51, 2 ^ 50], [tLatch a].find? (fun q => decide (q.va ≤ a + 65535) && decide (a + 65535 < q.va + q.size)) = some (tLatch a) ∧
      [tLatch a].find? (fun q => decide (q.va ≤ a + 65536) && decide (a + 65536 < q.va + q.size)) = none ∧
      (areaNext (mpHull (((tMpAt a).tile tT).block 14) 0) a).getD a = a) ∧
    (∃ g, tFound sa = .ok (.here g)) ∧ (∃ e, tFound (2 ^ 51) = .error e) ∧
    (tFound (2 ^ 50) = .ok (.away 5 0 3 0) ∧ routed (tMpAt (2 ^ 50)) 0 5 = true) ∧
    (((tS tF).tile tT).inst = some tInst.id ∧ ((tS tF).tile tT).resident = false ∧ ((tS tF).tile tT).halting = false) ∧
    (∀ p, ((tHalting p).tile tT).halting = true ∧ ((tHalting p).tile tT).atHalt = false ∧ ∀ f ∈ ((tHalting p).tile tT).firings, f.failed = none) ∧ tileStill (tHalting false) tT = true ∧
    (∃ s, (s.tile tT).halting = true ∧ (s.tile tT).atHalt = false ∧ tileStill s tT = false) ∧
    ((tS tF).tile tT).dbg.halt = false ∧
    ((tDbg { halt := true, halted := true } [{ tF with st := .ready }]).tile tT).dbg = { halt := true, halted := true } ∧
    (∃ f ∈ ((tDbg { halt := true, halted := true } [{ tF with st := .ready }]).tile tT).firings, f.st = .ready) ∧
    (((tSo 0 0 [] [] { dead := true }).tile tT).inst = some tInst.id ∧ (tSo 0 0 [] [] { dead := true }).inst? 0 = some tInst ∧
      (((tSo 0 0 [] [] { dead := true }).tile tT).soOf 0).dead = true) :=
  ⟨fun a => ⟨rfl, rfl, rfl, rfl, rfl⟩, by decide, by decide, ⟨_, rfl⟩, ⟨_, rfl⟩, by decide,
   ⟨rfl, rfl, rfl⟩, fun p => ⟨by cases p <;> rfl, by cases p <;> rfl, by cases p <;> decide⟩, by decide,
   ⟨tSx tF (fun x => { x with halting := true, me := { queue := [tJob] } }), by decide, by decide, by decide⟩, rfl, rfl,
   ⟨_, List.mem_singleton_self _, rfl⟩, ⟨rfl, rfl, rfl⟩⟩

/-! ## Stream operators -/

/-- A token of 16 elements, FP32; and a node that may take it. -/
def kk : Token := { tTok with fmt := 6, payload := 0x3F800000 }
def k0 : Token := { tTok with fmt := 6, payload := 0 }
def kl : Token := { kk with last := true }
def soReady (s : State) (n : Nat) (k : Token) : Bool :=
  decide (headAt s tT n 0 = some (.tok k)) && ((s.tile tT).soOf n).serves (.tok k) && canEmit s tT n 0 1 && canEmit s tT n 1 1 &&
    canEmit s tT n statPort 1
/-- IFMT and OFMT FP32, TPR, TROWS, and SKEN. -/
def ps (tpr trows sken : Byte) : List Byte := [6, 6, tpr, trows, 0, 0, 0, 0, sken, 0, 0, 0, 0, 0, 0, 0]
def conv1 : State := tSo 1 1 [(0, kk)] (ps 2 8 1) {}
def conv0 : State := tSo 0 0 [(0, k0)] (ps 2 8 1) {}
def adde0 (j : Token) : State := tSo 3 0 [(0, kk), (1, j)] (ps 2 8 0) {}
def adde1 : State := tSo 3 1 [(0, kk)] (ps 2 8 0) { pos := 15 }
def vecs1 (n sub : Nat) : State := tSo n sub [(0, kl)] (ps 2 8 0) { vecs := [0] }
def mule0 : State := tSo 4 0 [(0, kl), (1, kk)] (ps 2 8 0) {}
def one (n sub : Nat) (k : Token) (v : SoState) : State := tSo n sub [(0, k)] (ps 2 8 0) v
/-- A block of zeros in EXDC's stream. -/
def zeroBlock : List Byte := [1, 0xF8, 0, 0]

theorem witness_ComputingNodesSendTheirResults :
    (Takes conv1 tT 1 ∧ soReady conv1 1 kk = true ∧ tabFind (conv1.tile tT).edges (portKey 1 1) = none ∧
      (tokLanes 6 kk).length * codeBits 6 / 8 ≤ 64 ∧ pSken ((conv1.tile tT).block 1) = true ∧ kk.last = false) ∧
    (Takes conv0 tT 0 ∧ soReady conv0 0 k0 = true ∧ recSub ((conv0.tile tT).rec_ 0) ≠ 1 ∧ pSken ((conv0.tile tT).block 0) = true ∧
      k0.last = false ∧ packLanes (codeBits 6) ((tokLanes 6 k0).map (fun y => (codeEnc 6 (codeVal 6 y)).1)) = 0) ∧
    (Takes (adde0 kk) tT 3 ∧ soReady (adde0 kk) 3 kk = true ∧ headAt (adde0 kk) tT 3 1 = some (.tok kk) ∧ pairBad kk kk = false) ∧
    (Takes (adde0 { kk with tag := 1 }) tT 3 ∧ soReady (adde0 { kk with tag := 1 }) 3 kk = true ∧ pairBad kk { kk with tag := 1 } = true ∧
      headAt (adde0 { kk with tag := 1 }) tT 3 1 = some (.tok { kk with tag := 1 })) ∧
    (Takes adde1 tT 3 ∧ soReady adde1 3 kk = true ∧ recSub ((adde1.tile tT).rec_ 3) = 1 ∧ tabFind (adde1.tile tT).edges (portKey 3 1) = none ∧
      tabFind ((adde1.tile tT).soOf 3).sizes (((adde1.tile tT).soOf 3).pos % tileLen ((adde1.tile tT).block 3)) = none) ∧
    (∀ q ∈ [(2, 3), (4, 2)], soReady (vecs1 q.1 q.2) q.1 kl = true ∧ recSub (((vecs1 q.1 q.2).tile tT).rec_ q.1) = q.2 ∧
      vecCount (pTrows (((vecs1 q.1 q.2).tile tT).block q.1)) ≤ (((vecs1 q.1 q.2).tile tT).soOf q.1).vecs.length) ∧
    (Takes (vecs1 2 3) tT 2 ∧ Takes (vecs1 4 2) tT 4) ∧
    (Takes mule0 tT 4 ∧ soReady mule0 4 kl = true ∧ headAt mule0 tT 4 1 = some (.tok kk) ∧ pairBad kl kk = false) ∧
    (Takes (one 5 0 kk {}) tT 5 ∧ soReady (one 5 0 kk {}) 5 kk = true ∧ kk.bytes = 64) ∧
    (Takes (one 6 3 kl {}) tT 6 ∧ soReady (one 6 3 kl {}) 6 kl = true) ∧
    (Takes (one 11 1 kl {}) tT 11 ∧ soReady (one 11 1 kl {}) 11 kl = true ∧ recSub (((one 11 1 kl {}).tile tT).rec_ 11) < 2) ∧
    (Takes (one 11 3 kl {}) tT 11 ∧ soReady (one 11 3 kl {}) 11 kl = true ∧ 2 ≤ recSub (((one 11 3 kl {}).tile tT).rec_ 11)) ∧
    (∀ v ∈ [14, 15], soReady (one 12 0 kk { pos := v }) 12 kk = true ∧
      (v = 14 → v % tileLen (((one 12 0 kk { pos := v }).tile tT).block 12) + 1 ≠ tileLen (((one 12 0 kk { pos := v }).tile tT).block 12)) ∧
      (v = 15 → v % tileLen (((one 12 0 kk { pos := v }).tile tT).block 12) + 1 = tileLen (((one 12 0 kk { pos := v }).tile tT).block 12))) ∧
    (Takes (one 12 0 kk { pos := 14 }) tT 12 ∧ Takes (one 12 0 kk { pos := 15 }) tT 12) ∧
    (Takes (one 15 1 kk {}) tT 15 ∧ soReady (one 15 1 kk {}) 15 kk = true ∧ recSub (((one 15 1 kk {}).tile tT).rec_ 15) ≠ 0) ∧
    (Takes (one 15 0 kk { bytes := zeroBlock }) tT 15 ∧ recSub (((one 15 0 kk { bytes := zeroBlock }).tile tT).rec_ 15) = 0 ∧
      ∃ c m, ec8Decode zeroBlock = .block c m) ∧
    (Takes (one 15 0 kk { bytes := [1] }) tT 15 ∧ soReady (one 15 0 kk { bytes := [1] }) 15 kk = true ∧ ec8Decode [1] = .more) := by
  refine ⟨⟨?_, by decide +kernel⟩, ⟨?_, by decide +kernel⟩, ⟨?_, by decide +kernel⟩, ⟨?_, by decide +kernel⟩, ⟨?_, by decide +kernel⟩,
    by decide +kernel, ⟨?_, ?_⟩, ⟨?_, by decide +kernel⟩, ⟨?_, by decide +kernel⟩, ⟨?_, by decide +kernel⟩, ⟨?_, by decide +kernel⟩,
    ⟨?_, by decide +kernel⟩, by decide +kernel, ⟨?_, ?_⟩, ⟨?_, by decide +kernel⟩, ⟨?_, by decide, ⟨_, _, rfl⟩⟩, ⟨?_, by decide +kernel, rfl⟩⟩ <;>
    exact ⟨by decide, by intro p h; interval_cases p <;> rfl, rfl, rfl⟩
/-- A node with its whole word, and an instance that serves one tag. -/
def tSoI (n : Nat) (w : BitVec 96) (i : Inst) (es : List (Nat × Token)) (outs : Tab OutEdge) (ps : List Byte) (v : SoState) : State :=
  { tM { inst := some 0, nodes := [(n, w)], params := [(n, ps)], so := [(n, v)], outs := outs
         edges := es.map (fun q => (portKey n q.1, { tEdge with pull := false, fifo := [{ tok := q.2, indexed := false, stamp := q.1 }] })) ++
                  [(portKey 19 0, { tEdge with pull := false, fifo := [] })] } with insts := [i] }
def iTag : Inst := { tInst with ntags := 1 }
def outTo (n port : Nat) : Tab OutEdge := [(portKey n port, { tOut with dnode := 19 })]
def steer (outs : Tab OutEdge) : State := tSoI 7 0 iTag [(0, { kk with stv := true, steer := 7 })] outs [] {}
def ks : Token := { kk with stv := true, steer := 7 }
def fork1 : State := tSoI 9 0 iTag [(0, kk)] (outTo 9 3) [] {}
def chanWord : BitVec 96 := BitVec.ofNat 96 (15 * 2 ^ 92)
/-- The far context is context 1023 of device d. -/
def chanBlock (d : Nat) : List Byte := bytesOf 8 (d * 2 ^ 27) ++ bytesOf 2 1023
def chan (d : Nat) (v : SoState) (i : Inst) : State := tSoI 18 chanWord i [(0, kk)] [] (chanBlock d) v
def merge (sub : Nat) (v : SoState) : State :=
  tSoI 10 (BitVec.ofNat 96 (sub * 2 ^ 84)) iTag [(3, kk)] (outTo 10 0) [6, 6, 0, 0, 0, 0, 0, 0, 0, 0, 0, 0, 4] v
/-- An MPORT over 64 bytes of scratch: WBYTES 64, NDIM 1, BASE `sa`, a dimension of 2; its page latched. -/
def mpBlock : List Byte := [6, 6, 0, 0, 0, 0, 0, 0, 0, 0, 0, 0, 64, 1, 0, 0, 0, 0, 0, 0, 0, 0, 0, 0] ++ bytesOf 8 sa ++ bytesOf 8 (64 * 2 ^ 32 + 2)
def mpV (pos : Nat) : SoState :=
  { mpos := pos, latches := [{ va := sa, size := 65536, dev := 0, stk := 0, base := some (sP.key - sP.off), off := 0, gpa := 0, why := none }] }
def mpR (pos : Nat) : State := tSoI 13 0 iTag [] (outTo 13 0) mpBlock (mpV pos)
def mpW : State := tSoI 14 (BitVec.ofNat 96 (2 ^ 84)) iTag [(0, kk)] (outTo 14 0) mpBlock (mpV 0)
def piecesOf (s : State) (n : Nat) (w : Bool) (pos : Nat) : Except FInfo (List (Nat × Place × Nat)) :=
  let p := (s.tile tT).block n
  mpPieces s (mpAccess s tT 0 w (mpAddr p pos 0)) ((s.tile tT).soOf n).latches 4 (mpAddr p pos 0) (pC p) []
def piecesHere (x : Except FInfo (List (Nat × Place × Nat))) : Bool :=
  match x with
  | .ok l => l.all (fun q => match q.2.1 with | .here _ => true | _ => false)
  | .error _ => false
theorem pieces_here {x : Except FInfo (List (Nat × Place × Nat))} (h : piecesHere x = true) :
    ∃ ps, x = .ok ps ∧ ∀ q ∈ ps, ∀ a b c d, q.2.1 ≠ .away a b c d := by
  unfold piecesHere at h
  split at h
  · refine ⟨_, rfl, fun q hq a b c d e => ?_⟩
    simpa [e] using List.all_eq_true.mp h q hq
  · cases h
/-- Every piece of a read is at hand. -/
def readHere (s : State) (pos : Nat) : Bool :=
  match piecesOf s 13 false pos with
  | .ok ps => (match mpRead s ((s.tile tT).soOf 13) ps [] [] with | .ok (_, []) => true | _ => false)
  | .error _ => false

/-- The write of the MPORT's token at a position goes through. -/
def mpWriteOk (pos : Nat) : Option State :=
  match piecesOf mpW 14 true pos with
  | .ok ps => (match mpWrite tT 14 0 ps mpW (bytesOf 64 kk.payload.toNat) with | (s, true) => some s | _ => none)
  | .error _ => none

theorem witness_RoutingNodesPortsAndChannels :
    (∀ o ∈ [outTo 7 7, []], Takes (steer o) tT 7 ∧ headTok (steer o) tT 7 0 = some ks ∧ passRoom (steer o) tT 7 7 ks = true ∧
      recSub (((steer o).tile tT).rec_ 7) ≠ 1 ∧ (steer o).inst? 0 = some iTag) ∧
    outBound (steer (outTo 7 7)) tT (portKey 7 7) = true ∧ outBound (steer []) tT (portKey 7 7) = false ∧
    (Takes fork1 tT 9 ∧ headTok fork1 tT 9 0 = some kk ∧ ∀ o < 4, passRoom fork1 tT 9 o kk = true) ∧
    (∀ v ∈ [{ bound := true }, {}, { discard := true }], Takes (chan 4095 v iTag) tT 18 ∧ headTok (chan 4095 v iTag) tT 18 0 = some kk ∧
      ((chan 4095 v iTag).tile tT).isChan 18 = true ∧ ((chan 4095 v iTag).tile tT).soOf 18 = v) ∧
    (Takes (merge 0 {}) tT 10 ∧ recSub (((merge 0 {}).tile tT).rec_ 10) = 0 ∧ replaying (merge 0 {}) 0 = false ∧
      mergeFirst ((merge 0 {}).tile tT) 10 (pC (((merge 0 {}).tile tT).block 10)) = some 3 ∧ headTok (merge 0 {}) tT 10 3 = some kk ∧
      passRoom (merge 0 {}) tT 10 0 kk = true ∧
      ∃ s1, record (merge 0 {}) 0 { kind := 1, src := 0, obj := 0, val := 3 } [] = some s1) ∧
    (Takes (merge 1 { merged := 7 }) tT 10 ∧ recSub (((merge 1 { merged := 7 }).tile tT).rec_ 10) ≠ 0 ∧
      canEmit (merge 1 { merged := 7 }) tT 10 0 1 = true ∧
      headAt (merge 1 { merged := 7 }) tT 10 (7 % Nat.max 1 (pC (((merge 1 { merged := 7 }).tile tT).block 10))) = some (.tok kk)) ∧
    (∀ pos ∈ [0, 1], Takes (mpR pos) tT 13 ∧ ((mpR pos).tile tT).isMport 13 0 = true ∧ mpReady (mpV pos) = true ∧ (mpV pos).wrote = false ∧
      canEmit (mpR pos) tT 13 0 1 = true ∧ (mpV pos).mtag < iTag.ntags ∧ pos < mpCount mpBlock ∧
      mpAddr mpBlock pos 0 % mpAlign (pC mpBlock) = 0 ∧ readHere (mpR pos) pos = true) ∧ mpCount mpBlock = 2 ∧
    (Takes mpW tT 14 ∧ (mpW.tile tT).isMport 14 1 = true ∧ headAt mpW tT 14 0 = some (.tok kk) ∧ kk.bytes.toNat ≤ pC mpBlock ∧
      canEmit mpW tT 14 0 1 = true ∧ ((mpW.tile tT).soOf 14).wrote = false ∧
      (let s := tSoI 14 (BitVec.ofNat 96 (2 ^ 84)) iTag [(0, kk)] (outTo 14 0) mpBlock { mpV 0 with wrote := true }
       soRuns s tT 14 = true ∧ ((s.tile tT).soOf 14).wrote = true ∧ ((s.tile tT).soOf 14).inflight = [] ∧ ((s.tile tT).soOf 14).outq = [] ∧
         ((s.tile tT).soOf 14).stall = none ∧ headAt s tT 14 0 = some (.tok kk) ∧ canEmit s tT 14 0 1 = true) ∧
      (mpWriteOk 0).isSome = true ∧
      ∃ ps, piecesOf mpW 14 true 0 = .ok ps ∧ ∀ q ∈ ps, ∀ a b c d, q.2.1 ≠ .away a b c d) ∧
    (let v : SoState := { dones := [(0, 2)] }
     Takes (tSoI 14 (BitVec.ofNat 96 (2 ^ 84)) iTag [] [] mpBlock v) tT 14 ∧ v.inflight = [] ∧ pCdst mpBlock = 0) ∧
    (let s := tSoI 13 0 iTag [] (outTo 13 0) mpBlock { outq := [(0, kk)] }
     (s.tile tT).isMport 13 0 = true ∧ soRuns s tT 13 = true ∧ canEmit s tT 13 0 1 = true) ∧
    (∀ d ∈ [0, 4095], bitsNat (pRoute (((chan d {} { iTag with binding := 1 }).tile tT).block 18)) 38 27 = d) ∧
    (let s := chan 4095 {} { iTag with binding := 1 }
     s.dev = 0 ∧ (s.tile tT).isChan 18 = true ∧ (∀ r ∈ s.remote, r.who ≠ .chan tT 18) ∧ routed s 0 4095 = false ∧
       routed (s.setStack 0 { routes := [(4095, 0)] }) 0 4095 = true) ∧
    (∃ r : RemOut, r.who = .chan tT 18) := by
  refine ⟨?_, by decide, by decide, ⟨⟨by decide, by intro p h; interval_cases p <;> rfl, rfl, rfl⟩, rfl, by decide⟩, ?_,
    ⟨⟨by decide, by intro p h; interval_cases p <;> rfl, rfl, rfl⟩, by decide, by decide, by decide, rfl, by decide, ⟨_, rfl⟩⟩,
    ⟨⟨by decide +kernel, by intro p h; interval_cases p <;> rfl, rfl, rfl⟩, by decide +kernel, by decide +kernel, by decide +kernel⟩, ?_, by decide +kernel,
    ⟨⟨by decide +kernel, by intro p h; interval_cases p <;> rfl, rfl, rfl⟩, by decide +kernel,
      by decide +kernel, by decide +kernel, by decide +kernel,
      rfl, by decide +kernel, by decide +kernel, pieces_here (by decide +kernel)⟩,
    ⟨⟨by decide, by intro p h; interval_cases p <;> rfl, rfl, rfl⟩, rfl, by decide +kernel⟩, by decide, by decide,
    ⟨by decide, by decide, (by intro r h; cases h), by decide, by decide⟩, ⟨{ tFar 0 with who := .chan tT 18 }, rfl⟩⟩
  · intro o h
    simp only [List.mem_cons, List.not_mem_nil, or_false] at h
    rcases h with rfl | rfl <;> exact ⟨⟨by decide, by intro p h; interval_cases p <;> rfl, rfl, rfl⟩, rfl, by decide, by decide, rfl⟩
  · intro o h
    simp only [List.mem_cons, List.not_mem_nil, or_false] at h
    rcases h with rfl | rfl | rfl <;> exact ⟨⟨by decide, by intro p h; interval_cases p <;> rfl, rfl, rfl⟩, rfl, by decide, rfl⟩
  · intro o h
    simp only [List.mem_cons, List.not_mem_nil, or_false] at h
    rcases h with rfl | rfl <;>
      exact ⟨⟨by decide, by intro p h; interval_cases p <;> rfl, rfl, rfl⟩, by decide, by decide, by decide, by decide, by decide +kernel,
        by decide +kernel, by decide +kernel⟩
/-! ## Launches -/

def tBig : PlacedCfg := { tCfg with w := 16, h := 16 }
/-- The launch record of a launch with one level, and the same with a level too many. -/
def recBytes (nlev : Byte) : List Byte := [0x4C, 1, 0, 3, 0, 0, nlev, 0] ++ List.replicate 48 0 ++ List.replicate 200 0
def queued (x : Ctx) (l : List Launch) : State :=
  { State.reset with boot := .running, devid := 0x1000, mem := tMem, ctxs := [(0, { x with part := some 0 })], parts := [(0, tPart)], launches := l }
def tQ (d : List Nat) (st : LSt) : Launch := { tLaunch with st, deps := d, levels := [{ count := 1, domain := 0, scope := 0 }] }
def tEv : Ctx := { evq := { en := true } }
def head1 (x : Ctx) (d : List Nat) : State := queued { x with queues := [(3, [1])] } [tQ d .queued]
def gotLaunch (x : LaunchRead) : Bool := match x with | .got _ _ => true | _ => false
theorem got_launch {x : LaunchRead} (h : gotLaunch x = true) : ∃ b s, x = .got b s := by
  unfold gotLaunch at h; split at h
  · exact ⟨_, _, rfl⟩
  · cases h
/-- An image without nodes, and one that is none. -/
def emptyImage : List Byte := [0x31, 0x49, 0x47, 0x5A, 1, 0] ++ List.replicate 122 0
def placedAs (x : Except LStatus (Nat × Nat × List TileCfg)) : Bool := match x with | .ok _ => true | _ => false
theorem placed_as {x : Except LStatus (Nat × Nat × List TileCfg)} (h : placedAs x = true) : ∃ w k l, x = .ok (w, k, l) := by
  unfold placedAs at h; split at h
  · exact ⟨_, _, _, rfl⟩
  · cases h
theorem refused_as {x : Except LStatus (Nat × Nat × List TileCfg)} (h : placedAs x = false) : ∃ e, x = .error e := by
  cases x with
  | error e => exact ⟨e, rfl⟩
  | ok v => cases h
def tHashed (img : List Byte) : Launch := { tQ [] .eligible with ghash := (sha512 img).take 32 }
def tOne : Launch := { tQ [] .eligible with placed := some tCfg, cfg := [1] }
def tAdm : State := queued {} [tOne]
def tRun : Launch := { tQ [] .running with insts := [0], quant := 1 }
/-- A running launch on its tile, and beside it l. -/
def tQuant (l : List Launch) : State :=
  ({ tIdle [tF] 1024 with launches := tRun :: l, insts := [{ tInst with lid := 1 }] })
def tWants : Launch := { tQ [] .eligible with lid := 2, placed := some tBig, cfg := [1] }
def tHl : Launch := { tQ [] .halting with insts := [0], ghash := List.replicate 32 7 }
def tHaltd (base : BitVec 64) : State :=
  { tM { inst := some 0, halting := true, atHalt := true } with
      launches := [tHl], insts := [{ tInst with lid := 1 }]
      parts := [(0, { tPart with carvbase := [(0, base)], carvsize := [(0, 16)] })] }
/-- The instances of the halted launch and the data of its image; the launch with an instance of no tile. -/
def tHi (s : State) : List Inst := (launchInsts s tHl).filter (fun i => !i.saved)
def tHd (s : State) : ImageData := imageData s 0 0 0 [tHl.nowSaved] ((tHi s).map (snapshot s)) none
def tNoTile : State := { tHaltd 0x100001 with insts := [{ tInst with lid := 1, w := 0, h := 0 }] }
/-- The launch saved, in an image that lists no tile, and admitted again; stack 0 has k registrations of one page. -/
def tSaved (k : Nat) : State :=
  let s := tHaltd 0x100001
  let b := imageBytes (imageData s 0 0 0 [tHl.nowSaved] ((tHi s).map (fun i => { snapshot s i with tiles := [], inst := { i with sways := 0 } })) none)
  { s with mem := s.mem ++ (b.zipIdx.filter (fun q => decide (q.1 ≠ 0))).map (fun q => (0x100000 + q.2, q.1))
           images := [{ stk := 0, addr := 0x100000, len := b.length, ctx := 0, lid := 1, wide := false, given := false, insts := [0] }]
           launches := [{ tHl with st := .admitted }], insts := [{ tInst with lid := 1, saved := true }]
           stks := [(0, { regs := [{ tRival with pages := List.replicate k { va := 0, len := 65536, pa := 0, gpa := 0 } }] })] }
def tBack (s : State) : List Inst := (launchInsts s tHl).filter (fun i => i.saved)
def tFnd (s : State) : List (Inst × Nat × SavedInst) := (tBack s).filterMap (fun i => (savedOf s i).map (fun q => (i, q)))
def tFree (s : State) : State := (tFnd s).foldl (fun s p => unparkRegs s p.1) s
/-- The registrations to be made again, all on this device's pages, meet none that stands and fit, or do not. -/
def tRestores (s : State) (b : Bool) : Prop :=
  tBack s ≠ [] ∧ (tFnd s).length = (tBack s).length ∧ restorePulls ((tFnd s).flatMap (fun p => winClaims (tFree s) p.2.2 p.1)) = [] ∧
    restorePulls ((tFnd s).flatMap (fun p => winClaims (unparkRegs s p.1) p.2.2 p.1)) = [] ∧
    restoreBlocked (tFree s) ((tFnd s).flatMap (fun p => winClaims (tFree s) p.2.2 p.1)) = b
theorem again_free : tRestores (tSaved 4096) false := by unfold tRestores; decide +kernel
theorem again_blocked : tRestores (tSaved 4097) true := by unfold tRestores; decide +kernel
/-- The launch rebuilt, its instance armed, and what goes on of it. -/
def tRebuilt : State := { tHaltd 0 with launches := [{ tHl with st := .admitted }], insts := [{ tInst with lid := 1, halting := true }] }
def tGoes : List Inst := tRebuilt.insts.filter (fun i => decide (i.ctx = 0) && decide (i.lid = 1) && i.comesBack tRebuilt)
/-- A resize to columns c, with an instance on column 1 of stack 0. -/
def tResize (c : BitVec 64) : State := { tS tF with parts := [(0, { tPart with resizing := some (tKt, 0, 5, c) })] }

theorem witness_LaunchesQueuePlaceRunAndRest :
    ((queued {} []).boot = .running ∧ (queued {} []).devid.getLsbD 12 = true ∧ ((queued {} []).ctx 0).part.isSome = true ∧
      ((queued {} []).ctx 0).evq.en = false ∧ ((queued tEv []).ctx 0).evq.en = true ∧ ((queued tEv []).ctx 0).inbox = [] ∧ recordOk (recBytes 1) = true ∧
      64 ≤ queueLen (queued { tEv with queues := [(3, List.replicate 64 9)] } []) 0 (byteAt (recBytes 1) 3) ∧
      queueLen (queued { tEv with queues := [(3, List.replicate 63 9)] } []) 0 (byteAt (recBytes 1) 3) < 64 ∧
      recordOk (recBytes 9) = false ∧ (∀ l ∈ (queued tEv []).launches, l.ctx = 0 → l.record = false)) ∧
    (∀ d ∈ [[], [5], [6]], (tabGet [] ((head1 { done := [(6, 1)] } d).ctx 0).queues 3).head? = some 1 ∧
      (head1 { done := [(6, 1)] } d).launch? 0 1 = some (tQ d .queued) ∧ (tQ d .queued).st = .queued ∧ (tQ d .queued).devp = none) ∧
    depState { done := [(6, 1)] } [6] = .failed ∧ depState { done := [(6, 1)] } [5] = .waiting ∧ depState { done := [(6, 1)] } [] = .met ∧
    ((head1 { enabled := false } []).ctx 0).enabled = false ∧
    (∃ b s1, launchRead (head1 {} []) (tQ [] .queued) 0 0 = .got b s1) ∧
    ((queued {} [tHashed emptyImage]).launch? 0 1 = some (tHashed emptyImage) ∧ (tHashed emptyImage).placed = none ∧
      (sha512 []).take 32 ≠ (tQ [] .eligible).ghash ∧ (sha512 emptyImage).take 32 = (tHashed emptyImage).ghash ∧
      (∃ w h tiles, utund emptyImage (tHashed emptyImage).levels = .ok (w, h, tiles)) ∧ (∃ e, utund [] (tHashed []).levels = .error e) ∧
      planeLevelsOk (queued {} [tHashed emptyImage]) (tHashed emptyImage) = true) ∧
    (tAdm.parts = [(0, tPart)] ∧ tAdm.launches = [tOne] ∧ candidates tAdm 0 = [tOne] ∧ tOne.placed = some tCfg ∧ tOne.cfg = tCfg.key ∧
      tOne.reserved = [] ∧ tOne.chosen = [] ∧ asksOf tAdm tOne 1 1 ≠ [] ∧ stacksOf tAdm 0 (asksOf tAdm tOne 1 1) ≠ [] ∧
      (fitLaunch tAdm 0 tOne (stacksOf tAdm 0 (asksOf tAdm tOne 1 1))).isSome = true) ∧
    (let i := { tInst with lid := 1 }
     (tQuant [tWants]).launch? 0 1 = some tRun ∧ (tQuant [tWants]).timers = [] ∧ quantumOf (tQuant [tWants]) tRun = some 1024 ∧
       (launchInsts (tQuant [tWants]) tRun).filter (fun i => decide (i.stk = 0) && i.armed && !i.saved && !i.halting) = [i] ∧
       (tQuant [tWants]).inst? 0 = some i ∧ instEnded (tQuant [tWants]) i = false ∧ i.qstart + 1024 ≤ ((tQuant [tWants]).stack 0).cyc ∧
       quantumWanted (tQuant [tWants]) 0 0 tRun.cls = true ∧ quantumWanted (tQuant []) 0 0 tRun.cls = false) ∧
    (∀ b ∈ [0x100001, 0], ((tHaltd b).ctx 0).halting = false ∧ (tHaltd b).launch? 0 1 = some tHl ∧
      launchHalted (tHaltd b) tHl = true ∧ tHi (tHaltd b) ≠ []) ∧ (∀ n, carvPlace (tHaltd 0) 0 0 n = none) ∧
    (tNoTile.launch? 0 1 = some tHl ∧ launchHalted tNoTile tHl = true ∧ tHi tNoTile ≠ [] ∧
      (carvPlace tNoTile 0 0 (imageBytes (tHd tNoTile)).length).isSome = true) ∧
    ((∀ k, (tSaved k).launch? 0 1 = some { tHl with st := .admitted }) ∧ tRestores (tSaved 4096) false ∧ tRestores (tSaved 4097) true) ∧
    (tRebuilt.launch? 0 1 = some { tHl with st := .admitted } ∧ tBack tRebuilt = [] ∧ tGoes ≠ [] ∧ (∀ i ∈ tGoes, opensOut tRebuilt i = false) ∧
      ∃ l1, (tGoes.foldl goOn tRebuilt).launch? 0 1 = some l1 ∧ ∀ i ∈ launchInsts (tGoes.foldl goOn tRebuilt) l1, i.armed = true) ∧
    (∀ c ∈ [1, 0], ((tResize c).part 0).resizing = some (tKt, 0, 5, c)) ∧ leavers (tResize 1) 0 1 = [] ∧ leavers (tResize 0) 0 0 ≠ [] := by
  refine ⟨⟨rfl, by decide, rfl, rfl, rfl, rfl, by decide +kernel, by decide, by decide, by decide +kernel, (by intro l h; cases h)⟩, ?_, by decide,
    by decide, rfl, rfl, got_launch (by decide +kernel), ⟨rfl, rfl, by decide +kernel, rfl, placed_as (by decide +kernel),
    refused_as (by decide +kernel), by decide⟩, ⟨rfl, rfl, ?_, rfl, rfl, rfl, rfl, by decide, by decide, by decide +kernel⟩, ?_, ?_, ?_, ?_, ?_, ?_, ?_,
    by decide, by decide⟩
  · decide
  · decide +kernel
  · exact ⟨rfl, rfl, rfl, rfl, rfl, by decide, by decide, by decide +kernel, by decide +kernel⟩
  · exact fun b _ => ⟨rfl, rfl, rfl, List.cons_ne_nil _ _⟩
  · exact fun n => rfl
  · exact ⟨rfl, rfl, List.cons_ne_nil _ _, by decide +kernel⟩
  · exact ⟨fun k => rfl, again_free, again_blocked⟩
  · exact ⟨rfl, by decide, by decide, by decide, ⟨_, rfl, by decide⟩⟩
  · exact fun c _ => rfl
/-! ## Pages, planes and links -/

/-- Stage 2 of partition 0 maps the page at 0 onto itself; the page at 0x10000 is at the source. -/
def tPageMem : List Host.Cell := [(0x10000, 1), (0x10002, 2), (0x20000, 1), (0x20002, 5), (0x50000, 0x0F), (0x50008, 0x80)]
def tPg : State := { tS tF with mem := tPageMem, ctxs := [(0, tCtx)] }
def leafOf (x : Except WalkErr Leaf) : Leaf := match x with | .ok l => l | .error _ => { e := 0, base := 1, size := 0, at_ := 1 }
def tRp : Repoint := { sdev := 30, sstk := 3, sctx := 1023, ddev := 0, dstk := 0, dctx := 0 }
def tSt (peers : List Nat) (n : Nat) : RepointSt := { ctx := 0, msg := tRp, plane := 8, peers, sends := n }
def tInv (v : BitVec 64) (l : List Reg) : State := (tS tF).setStack 0 { mtlbinv := v, regs := l }

/-- An MPORT has latched the page that is invalidated; it has been asked, and has not answered, or has. -/
def tInvM : State := (tMp { latches := [tLatch 0] }).setStack 0 { mtlbinv := 2#64 <<< 62 }
def tAsked (r : Bool) : State :=
  { tInvM.setStack 0 { mtlbinv := 2#64 <<< 62, invMports := [(tT, 14, 0)] } with acts := if r then [relatchAct (tT, 14, 0)] else [] }
/-- Stage 2 names device 1 as the owner of the pages from 0x20000000, which no route reaches. -/
def tMig : State :=
  { tS tF with mem := [(0x10000, 1), (0x10002, 2), (0x20000, 0x4F), (0x20008, 0x80), (0x2000A, 1), (0x30000, 1), (0x30002, 4), (0x40000, 0x0F),
                       (0x40008, 0x0F), (0x4000B, 0x20)] }
theorem witness_PagesMoveAndPeersFollow_lost :
    Memory.wf tMig.mem = true ∧
    (∃ e, stage2 tMig.mem 0 (tabGet 0 (tMig.part 0).s2root 0).toNat 0x20000000 = .error e) ∧
    (∃ e, ownerXlate tMig 0 0 0x20000000 false 0 0 = .error e ∧ e.pull = some (0, 0, 0x20000000, 1, 0)) ∧ 1 ≠ tMig.dev ∧
    tabFind (tMig.stack 0).routes 1 = none := by
  have a : (match stage2 tMig.mem 0 (tabGet 0 (tMig.part 0).s2root 0).toNat 0x20000000 with | .ok _ => false | .error _ => true) = true := by decide +kernel
  have b : (match ownerXlate tMig 0 0 0x20000000 false 0 0 with
    | .ok _ => false | .error e => decide (e.pull = some (0, 0, 0x20000000, 1, 0))) = true := by decide +kernel
  refine ⟨by decide, ?_, ?_, by decide, by decide⟩
  · split at a
    · cases a
    · next e h => exact ⟨e, h⟩
  · split at b
    · cases b
    · next e h => exact ⟨e, h, by simpa using b⟩

theorem witness_PagesMoveAndPeersFollow :
    Memory.wf tPg.mem = true ∧ (let l := leafOf (stage2 tPg.mem 0 (tabGet 0 (tPg.part 0).s2root 0).toNat 0xFFFF)
      stage2 tPg.mem 0 (tabGet 0 (tPg.part 0).s2root 0).toNat 0xFFFF = .ok l ∧ l.size = 65536 ∧ l.at_ % 8 = 0 ∧
        busFailed tPg l.at_ = false) ∧
    ((tabGet 0 (tPg.part 0).s2root 0).toNat.testBit 0 = true ∧ tPg.pulls = [] ∧ movedCtx tPg 0 = none ∧
      absentAt tPg.mem 0 0x10000 3 (entryAddr (tabGet 0 (tPg.part 0).s2root 0).toNat) = some 0x50008 ∧ busFailed tPg 0x50008 = false) ∧
    (∀ q, { tS tF with repoints := [q] }.repoints = [q]) ∧ (5 ∈ (tSt [5, 6] 2).peers ∧ ∃ d ∈ (tSt [5, 6] 2).peers, d ≠ 5) ∧
    ((tSt [5] 0).peers = [5] ∧ (tSt [5] 0).msg.sdev ≠ (tS tF).dev ∧ (tSt [5] 0).msg.ddev = (tS tF).dev ∧ (tSt [5] 0).sends < 3 ∧
      (tSt [5] 3).sends = 3 ∧ ({ tRp with sdev := 0 } : Repoint).sdev = (tS tF).dev) ∧
    ((tInv 1 []).stack 0).mtlbinv ≠ 0 ∧ ((tInv 0 []).stack 0).mtlbinv = 0 ∧ ((tInv 1 []).stack 0).invMports = [] ∧
    (((1#64 <<< 62) &&& 0xEFFDFFFFFFFF000F#64 : Word)).toNat / 2 ^ 62 = 1 ∧ (((1#64 <<< 63) &&& 0xEFFDFFFFFFFF000F#64 : Word)).toNat / 2 ^ 62 = 2 ∧
    invHeld (tInv (2#64 <<< 62) [tReg1 true sa]) 0 = true ∧ invHeld (tInv (2#64 <<< 62) []) 0 = false ∧ invLatches (tInv (2#64 <<< 62) []) 0 = [] ∧
    wtUsed (tPg.stack 0) ≤ 4096 ∧
    (invHeld tInvM 0 = false ∧ invLatches tInvM 0 ≠ [] ∧ (tInvM.stack 0).invMports = []) ∧
    (∀ r, ((tAsked r).stack 0).mtlbinv ≠ 0 ∧ ((tAsked r).stack 0).invMports ≠ [] ∧ ((tAsked r).stack 0).invMports.any (owesRelatch (tAsked r)) = r) := by
  refine ⟨by decide, by decide +kernel, ⟨by decide, rfl, rfl, by decide +kernel, by decide +kernel⟩, fun q => rfl, ?_, ?_, by decide,
    by decide, rfl, by decide, by decide, by decide +kernel, by decide +kernel, by decide +kernel, by decide, by decide +kernel, by decide +kernel⟩
  · exact ⟨by decide, ⟨6, by decide, by decide⟩⟩
  · exact ⟨rfl, by decide, rfl, by decide, rfl, rfl⟩

/-- A flit of group 5 at a position, and plane 1 with deliveries up to 7. -/
def tFlit (pos : Nat) (w : BitVec 512) : PFlit :=
  { src := 1, gid := 5, key := 15, mtype := 0, cidx := 0xFFFF, n := 2, lty := 0, op := 0, pos := BitVec.ofNat 64 pos, payload := w, ring := 0, resent := false }
def tColl : CollAcc :=
  { plane := 1, idx := 0xFFFF, n := 2, ty := ltyOf 0, op := 0, cnt := 1, acc := 0, flags := 0, failed := false, complete := false, released := false }
def tPs (p : Plane) (l : List CollAcc) : State :=
  { tP with planes := [(1, p)], ctxs := [(0, { tP.ctx 0 with colls := l })] }
def tQueued : Plane := { tPl with queue := [(0, tFlit 0 1)], holder := 0 }

theorem witness_PlanesDeliverInSequence :
    (tPl.up = true ∧ (tPs tPl []).plane 1 = tPl ∧ (∀ l ∈ (tPs tPl []).launches, l.record = false ∧ l.replay = false) ∧
      tabAbove 0 (tPs tPl []).ctxs = true ∧ tPl.pendingDel = [] ∧ tPl.gapLast = none ∧ (tFlit 7 0).pos.toNat ≤ tPl.gseq.toNat ∧
      tPl.gseq.toNat + 1 < (tFlit 9 0).pos.toNat ∧ (tFlit 8 0).pos.toNat = tPl.gseq.toNat + 1 ∧ 0 ∈ boundCtxs (tPs tPl []) 1 5 ∧
      1 ∉ boundCtxs (tPs tPl []) 1 5 ∧ ((tPs tPl []).ctx 0).colls = [] ∧
      (((tPs tPl [tColl]).ctx 0).colls.find? (fun a => decide (a.plane = 1) && decide (a.idx = (tFlit 8 0).cidx.toNat))) = some tColl ∧
      tColl.n = (tFlit 8 0).n.toNat ∧ tColl.ty = ltyOf (tFlit 8 0).lty ∧ tColl.op = (tFlit 8 0).op.toNat ∧
      (tFlit 8 1).payload.toNat % 2 ^ 16 ≠ (tPs tPl []).dev ∧ (tFlit 8 0).payload.toNat % 2 ^ 16 = (tPs tPl []).dev) ∧
    (tPl.ring.length < 64 ∧ (tFlit 8 0).payload.getLsbD 15 = false ∧ (tFlit 8 (1#512 <<< 15)).payload.getLsbD 15 = true) ∧
    (({} : Plane).up = false ∧ (tPs {} []).devid.getLsbD 12 = true ∧ ({} : Plane).ring.length < 64) ∧
    (tPl.gseq = (tFlit 7 1).pos ∧ tPl.holder = (tFlit 7 1).ring.toNat ∧ (tFlit 7 1).payload.toNat % 256 ≠ ringIndex tPl (tPs tPl []).dev) ∧
    ((tFlit 7 0).payload.toNat % 256 = ringIndex tQueued (tPs tQueued []).dev ∧ tQueued.queue = [(0, tFlit 0 1)] ∧ tQueued.silent = [] ∧
      tQueued.packs = [] ∧ tQueued.repairs = [] ∧ tQueued.gapLast = none ∧ 2 ≤ tQueued.ring.length) ∧
    (tPl.passed = none ∧ { tPl with passed := some 7, resends := 2 }.passed = some 7 ∧ { tPl with passed := some 7, resends := 2 }.resends < 3) ∧
    (let s := fun n => (tPs { tPl with gapLast := some 8 } []).setStack 0 { cyc := n }
     ((s 0).plane 1).gapLast ≠ none ∧ ((s 0).plane 1).up = true ∧
       ((s 23999).stack 0).cyc < ((s 23999).plane 1).gapSince + planeRemto (s 23999) 1 ∧
       ((s 24000).plane 1).gapSince + planeRemto (s 24000) 1 ≤ ((s 24000).stack 0).cyc) :=
  ⟨⟨rfl, rfl, (by intro l h; cases h), by decide, rfl, rfl, by decide +kernel, by decide +kernel, by decide +kernel, by decide +kernel,
    by decide +kernel, rfl, by decide +kernel, rfl, rfl, rfl, by decide +kernel, by decide +kernel⟩, by decide +kernel, ⟨rfl, by decide +kernel, by decide⟩,
   ⟨by decide +kernel, rfl, by decide +kernel⟩, ⟨by decide +kernel, rfl, rfl, rfl, rfl, rfl, by decide⟩,
   ⟨rfl, rfl, by decide⟩, ⟨by decide, rfl, by decide +kernel, by decide +kernel⟩⟩

/-- Link 5 on 16 lanes, with flits 3 and 4 not acknowledged. -/
def tL : Link :=
  { up := true, peer := 1, wide := true, rxMap := 0xFFFF, txMap := 0xFFFF, trained := true, replay := [(3, 0), (4, 0)], txNext := 5 }
def tLk (l : Link) : State := { tS tF with links := [(5, l)] }
/-- Lane 0 of group 0 about to be erased. -/
def tBad : Link := { tL with rxMap := 0x3FFF, crc := [(0, 15)] }
/-- A beat of zeros, which is sound, and the same with its check bits wrong. -/
theorem crc8_zeros (v n : Nat) (h : ∀ i < n, v.testBit i = false) : crc8 v n 0 = 0 := by
  induction n with
  | zero => rfl
  | succ n ih => simpa [crc8, h n (Nat.lt_succ_self n)] using ih (fun i hi => h i (Nat.lt_succ_of_lt hi))
theorem sound_beat : beatSound 0 = true := by
  unfold beatSound; rw [crc8_zeros _ _ (fun i _ => by simp)]; rfl
theorem unsound_beat : beatSound (BitVec.ofNat 104 (2 ^ 96)) = false := by
  unfold beatSound
  rw [crc8_zeros _ _ (fun i hi => by rw [show (BitVec.ofNat 104 (2 ^ 96)).toNat = 2 ^ 96 by decide]; exact Nat.testBit_two_pow_of_ne (by omega))]
  decide +kernel

theorem witness_LinksDeliverFlitsInOrder :
    (∀ l, (tLk l).link 5 = l) ∧ tL.up = true ∧ ({} : Link).up = false ∧
    (flitSound 0 = true ∧ 65534 = { tL with rxNext := 65534 }.rxNext ∧ 65534 < 65535 ∧ 31 ≤ { tL with rxSince := 31 }.rxSince ∧ tL.rxSince = 0) ∧
    flitSound 1 = false ∧ 5 ≠ tL.rxNext ∧ tL.restripe = none ∧ tL.nakFrom ≠ some tL.rxNext ∧ (tL.nakFrom = none ∧ tL.rxRefused < 7 ∧ ¬{ tL with rxRefused := 7 }.rxRefused < 7) ∧ 0 < { tL with rxSince := 1 }.rxSince ∧
    ((∀ p ∈ tL.replay, p.1 ≠ 5) ∧ tL.replay = [(3, 0)] ++ (4, 0) :: [] ∧ (∀ p ∈ [((3 : Nat), (0 : BitVec 656))], p.1 ≠ 4) ∧ tL.txQueue = [] ∧
      tL.txStop = false) ∧
    ((groupsOf tL.rxMap)[99]? = none ∧ (∃ g, (groupsOf tL.rxMap)[1]? = some g ∧ g.length = 8 ∧ tabGet (0, 0, 0) tL.rxBits 1 = (0, 0, 0) ∧ tL.deskew = [] ∧
      (∀ j ∈ g, tL.rxErased.getLsbD j = false) ∧ laneBeat.wordsOf ((List.replicate 8 (0 : BitVec 104)).dropLast.map (fun b => b.toNat % 2 ^ 96)) / 2 ^ 656 < 65535)) ∧
    (∀ n, ∀ b ∈ List.replicate n (0 : BitVec 104), beatSound b = true) ∧ beatSound (BitVec.ofNat 104 (2 ^ 96)) = false ∧
    (∃ g i r, (groupsOf tBad.rxMap)[0]? = some g ∧ g = i :: r ∧ i = 0 ∧ i ∉ r ∧
      (tabGet (0, 0, 0) tBad.rxBits 0).1 + 96 * (g.length - 1) < 672 ∧ (∀ j ∈ g, tBad.rxErased.getLsbD j = false) ∧
      (∀ j ∈ r, tabGet 0 tBad.crc j < 16) ∧ 15 ≤ tabGet 0 tBad.crc i ∧
      tBad.rxMap.getLsbD i = true ∧ twoLost tBad.rxMap (tBad.rxErased ||| BitVec.ofNat 16 (2 ^ i)) = false) := by
  refine ⟨fun l => rfl, rfl, rfl, ⟨by decide +kernel, rfl, by decide, by decide, rfl⟩, by decide +kernel, by decide, rfl, by decide, by decide, by decide,
    ⟨by decide, rfl, by decide, rfl, rfl⟩, ⟨by decide, ⟨_, rfl, ?_⟩⟩,
    fun n b h => by rw [List.eq_of_mem_replicate h]; exact sound_beat, unsound_beat, ⟨_, _, _, rfl, rfl, rfl, ?_⟩⟩
  · decide +kernel
  · decide +kernel

theorem witness_LinksDeliverFlitsInOrder_groups :
    (groupsOf tL.rxMap).length = 2 ∧ (0 < 2 ∧ 0 ≠ 1 ∧ tabGet 0 tL.beatNo 0 ≤ tabGet 0 tL.beatNo 1) ∧
    (∀ j < 2, j ≠ 1 → tabGet 0 { tL with beatNo := [(0, 1)] }.beatNo 1 < tabGet 0 { tL with beatNo := [(0, 1)] }.beatNo j) := by decide

theorem witness_LanesAreLostMappedAndTrained :
    (∀ l, (tLk l).link 5 = l) ∧ tL.up = true ∧
    (0x8000 &&& tL.rxMap &&& ~~~tL.rxErased ≠ 0 ∧ twoLost tL.rxMap 0x8000 = false ∧ tL.restripe = none) ∧
    (let m := tL.rxMap &&& ~~~(0x0003#16) &&& ~~~tL.rxParked
     twoLost tL.rxMap 0x0003 = true ∧ 2 ≤ Machine.laneCount m) ∧
    (0x8000 &&& { tL with rxErased := 0x8000 }.rxMap &&& ~~~{ tL with rxErased := 0x8000 }.rxErased = 0) ∧
    (twoLost tL.rxMap 0xFFFF = true ∧ Machine.laneCount (tL.rxMap &&& ~~~(0xFFFF#16) &&& ~~~tL.rxParked) < 2 ∧ ∀ r ∈ (tLk tL).remote, r.due = 0) ∧
    ((tP.plane 1).up = true ∧ Machine.laneCount (BitVec.ofNat 16 ((0x00C0#16).toNat % 256)) = 2 ∧ (tP.plane 1).lanesLost = 0 ∧ (tP.plane 1).txLost = 0 ∧
      Machine.laneCount (BitVec.ofNat 16 ((0x0080#16).toNat % 256)) = 1) ∧ ({} : Link).up = false ∧
    (2 ≤ Machine.laneCount (tL.txMap &&& ~~~(0x8000#16)) ∧ Machine.laneCount (tL.txMap &&& ~~~(0xFFFF#16)) < 2) ∧
    (1 : BitVec 8) ≠ tL.txEpoch ∧
    (let l := { tL with txStop := true, mapped := true, txLoss := some (0, 3) }
     l.txStop = true ∧ l.mapped = true ∧ l.txLoss = some (0, 3) ∧ l.txQueue = [] ∧ l.replay = [(3, 0)] ++ (4, 0) :: []) ∧
    (∀ a, { tL with restripe := some (0, 0xFFFC, a) }.restripe = some (0, 0xFFFC, a) ∧ { tL with restripe := some (0, 0xFFFC, a) }.planned = none) ∧
    ({ tL with restripe := some (0, 0xFFFC, false), planned := some 4 }.planned ≠ none ∧ ahead tL.rxNext 0 < 32768 ∧ 32768 ≤ ahead tL.rxNext 5) ∧
    ((tLk tL).cyc tL.stk < 0 + 2700 ∧ 0 + 2700 ≤ ((tLk tL).setStack 0 { cyc := 2700 }).cyc tL.stk ∧
      0 + 3000 ≤ ((tLk tL).setStack 0 { cyc := 3000 }).cyc tL.stk) ∧
    { tL with txStop := true }.txLoss = none ∧
    (0x8000 &&& tL.rxMap ≠ 0 ∧ mapUsable (liveLanes tL tL.rxMap &&& ~~~(0x8000#16)) = true ∧
      mapUsable (liveLanes tL tL.rxMap &&& ~~~(0xFFFF#16)) = false) ∧
    ((0x8000 &&& { tL with rxParked := 0x8000 }.rxParked) ≠ 0 ∧ (0x8000 &&& tL.rxParked) = 0) ∧
    (let l := { tL with rxMap := 0x7FFF, rxErased := 0x8000 }
     let m := (l.rxMap ||| (0x8000#16 &&& l.rxErased)) &&& ~~~(l.rxErased &&& ~~~(0x8000#16 &&& l.rxErased)) &&& ~~~l.rxParked
     l.trained = true ∧ (0x8000#16 &&& l.rxErased) ≠ 0 ∧ m ≠ l.rxMap ∧ 2 ≤ Machine.laneCount m ∧ (1#16 &&& l.rxErased) = 0) ∧
    (linkExists 5 = true ∧ linkExists 65535 = false) ∧
    ((tLk {}).devid.getLsbD 12 = true ∧ (tLk {}).boot = .running ∧ 4095 ≠ (tLk {}).dev ∧ (0 : Nat) = (tLk {}).dev ∧
      State.reset.devid.getLsbD 12 = false) :=
  ⟨fun l => rfl, rfl, by decide, by decide, by decide, ⟨by decide, by decide, (by intro r h; cases h)⟩, ⟨rfl, by decide, rfl, rfl, by decide⟩, rfl, by decide, by decide,
   ⟨rfl, rfl, rfl, rfl, rfl⟩, fun a => ⟨rfl, rfl⟩, by decide, by decide, rfl, by decide, by decide, by decide,
   ⟨by decide, by simp [linkExists]⟩, ⟨by decide, rfl, by decide, rfl, by decide⟩⟩

/-- Bus 127 of stack 0 with lines 0 to 15 failing, one fewer or one more than the spares hold. -/
def tBus : State := { tS tF with buses := [(127, { sbt := 0x20000000 })] }
theorem witness_BusesTemperatureScrubAndPower :
    (tabGet {} tBus.buses (0 * 128 + 127)).sbt.getLsbD 29 = true ∧ (tabGet {} tBus.buses (0 * 128 + 126)).sbt.getLsbD 29 = false ∧
    (Instr.vbRetestForced 0 127 []) ∈ [Instr.vbRetest 0 127 [], .vbRetestForced 0 127 []] ∧
    Instr.thermalStop 3 105 ∈ [Instr.temperatureSwing 3 105, .thermalStop 3 105, .templimExceeded 3 105, .templimRecovered 3 105] ∧
    (tBus.templim.toNat < 96 ∧ 90 + 5 ≤ tBus.templim.toNat ∧ 95 ≤ tBus.templim.toNat ∧ tBus.templim.toNat < 95 + 5 ∧ tBus.trip = false) ∧
    (tBus.powercap.toNat < 3001 ∧ 3000 ≤ tBus.powercap.toNat ∧ 9 * tBus.powercap.toNat ≤ 10 * 3000 ∧ 10 * 2699 < 9 * tBus.powercap.toNat) :=
  ⟨by decide, by decide, by simp, by simp, by decide, by decide⟩
/-! ## Bring-up, the host, management writes -/

/-- A host's operation on 64 bytes of DRAM at the end of a line. -/
def hVa : Word := 0x1040
def hOp (w : Bool) : HostOp := { op := 1, ctx := 0, w := w, va := 0x1040, data := if w then List.replicate 64 7 else [], n := 64, regs := [] }
def hS : State := tM { inst := some 0 }
def hS0 : State := { hS with nextId := 3 }
def hClaim (w : Bool) : Except FInfo Claim :=
  claim hS0 ((hOp w).access hVa.toNat) (.host 0) true 2 [{ base := hVa.toNat, rowb := 64, pitch := 0, rows := 1 }] (engineInfo 4 hVa.toNat)
def hReg (w : Bool) : Reg × List XPage :=
  match hClaim w with
  | .ok (.here _ r u) => (r, u)
  | _ => (tReg1 w 0, [])
def hClaimOk (w : Bool) : Bool := match hClaim w with | .ok (.here k _ _) => decide (k = 0) | _ => false
theorem h_claim {w : Bool} (h : hClaimOk w = true) : hClaim w = .ok (.here 0 (hReg w).1 (hReg w).2) := by
  unfold hClaimOk at h
  unfold hReg
  split at h
  · next k r u e => rw [e]; simp at h; simp [h]
  · cases h
def hS1 (w : Bool) : State :=
  { enterRegs hS0 [(0, (hReg w).1)] (hReg w).2 with hostOps := [{ hOp w with regs := [(0, 2)] }] }
/-- The cached translation of the page. -/
def hEntry (w : Bool) : MtlbEntry :=
  ((hS1 w).stack 0).mtlb.headD { part := 0, ctx := 0, off := 0, len := 0, gpa := 0, pa := 0, w1 := false, r1 := false, w2 := false, r2 := false, dirty := false, l1 := 0, l2 := 0 }

/-- Whether or not the translation is still cached, the address lies at 0x1040 of the DRAM of stack 0. -/
theorem owner_hit {s : State} {stk ctx off va kind : Nat} {w : Bool} {e : MtlbEntry} (hm : (s.stack stk).mtlb = [e])
    (hs : e.serves (s.partOfCtx ctx) ctx off w = true) (hh : Config.mtlbHit (s.tick * 2 ^ 49 + off) = true)
    (h1 : (tabGet 0 (s.ctx ctx).s1root stk).toNat.testBit 0 = true)
    (h2 : (tabGet 0 (s.part (s.partOfCtx ctx)).s2root stk).toNat.testBit 0 = true) (ho : ¬2 ^ 49 ≤ off) :
    ownerXlate s stk ctx off w va kind = .ok
      { stk := stk, key := dramKey stk (e.pa + (off - e.off)), off := off - e.off, size := e.len, gpa := e.gpa, leaf := none, step := none } := by
  simp only [ownerXlate, hm, List.find?_cons, hs, hh, h1, h2, if_neg ho, Bool.and_self]
theorem owner_miss {s : State} {stk ctx off va kind : Nat} {w : Bool} (hh : Config.mtlbHit (s.tick * 2 ^ 49 + off) = false) :
    ownerXlate s stk ctx off w va kind = ownerXlate { s with stks := [] } stk ctx off w va kind := by
  have : (State.stack { s with stks := [] } stk).mtlb = [] := rfl
  simp only [ownerXlate, hh, Bool.and_false, this, List.find?_nil]
  simp only [List.find?_eq_none.mpr (fun _ _ => Bool.false_ne_true)]
  rfl
def missPlace (w : Bool) : XPage :=
  match ownerXlate { hS1 w with stks := [] } 0 0 0x1040 w 0x1040 5 with
  | .ok p => p
  | _ => { stk := 0, key := 0, off := 0, size := 0, gpa := 0, leaf := some 0, step := none }

theorem h_place (w : Bool) : ∃ p, locate (hS1 w) ((hOp w).access hVa.toNat) = .ok (.here p) ∧ p.leaf = none ∧ p.key = 0x1040 := by
  have l : locate (hS1 w) ((hOp w).access hVa.toNat) = (agentXlate (hS1 w) 0 0 0x1040 w 0x1040 AccKind.host.num).map .here := by
    cases w <;> rfl
  rw [l, agentXlate]
  cases h : Config.mtlbHit ((hS1 w).tick * 2 ^ 49 + 0x1040) with
  | false =>
    rw [owner_miss h]
    cases w
    · exact ⟨_, rfl, by decide +kernel, by decide +kernel⟩
    · exact ⟨_, rfl, by decide +kernel, by decide +kernel⟩
  | true =>
    rw [owner_hit (e := hEntry w) (by cases w <;> decide +kernel) (by cases w <;> decide +kernel) h (by cases w <;> decide +kernel) (by cases w <;> decide +kernel) (by decide)]
    exact ⟨_, rfl, rfl, by cases w <;> decide +kernel⟩

theorem witness_BringUpIdentityAndHostOperations :
    State.reset.boot ≠ .boot ∧ ({ State.reset with boot := .boot }.boot = .boot ∧ State.reset.bundle = none ∧
      { State.reset with bundle := some [] }.bundle ≠ none) ∧ ((leField [0x42, 0x57, 0x46, 0x57] 0 4 = 0x57465742 ∨ True) ∧
      leField [] 0 4 ≠ 0x57465742) ∧ hS.boot = .running ∧ hS.devid.getLsbD 12 = true ∧ { hS with devid := 0 }.devid.getLsbD 12 = false ∧
    State.reset.boot ≠ .running ∧ endpointOpen hS 0 = true ∧ endpointOpen hS 1023 = false ∧
    ((0xFC000000000000 : Word).extractLsb' 50 6 = 63#6 ∧ hVa.extractLsb' 50 6 ≠ 63#6) ∧
    (hVa.toNat % 128 + 64 ≤ 128 ∧ (∀ h ∈ hS.hostOps, h.op ≠ hS.nextId) ∧ (∀ q ∈ hS.remote, q.who ≠ .host hS.nextId) ∧
      ∀ w, hClaim w = .ok (.here 0 (hReg w).1 (hReg w).2) ∧ firstConflict hS0 0 (hReg w).1 = none ∧
        regsFit hS0 [(0, (hReg w).1)] = true ∧ (∃ p, locate (hS1 w) ((hOp w).access hVa.toNat) = .ok (.here p) ∧ p.leaf = none ∧
          p.key = 0x1040) ∧ busFailed (hS1 w) (0x1040 / 128 * 128) = false ∧ Memory.wf (hS1 w).mem = true ∧ lineSound (hS1 w) 0x1040 = .ok ()) := by
  refine ⟨by decide, ⟨rfl, rfl, by decide⟩, ⟨.inl (by decide), by decide⟩, rfl, by decide, by decide, by decide, by decide, by decide, by decide, by decide,
    (by intro h q; cases q), (by intro h q; cases q), fun w => ⟨h_claim ?_, ?_, ?_, h_place w, ?_, ?_, ?_⟩⟩ <;>
    cases w <;> decide +kernel

/-- A queue of the hypervisor with room for one record, and one that is full; a log entry of 64 bytes. -/
def tRec : List Byte := List.replicate 64 9
def tHv (head : BitVec 32) : RQueue := { base := 0x2000, size := 16, en := true, head, tail := 0xFFFFFFF0, waiting := [tRec] }
def tHvS (head : BitVec 32) : State := { tS tF with parts := [(15, { tPart with hvq := [(3, tHv head)] })] }
def tMgS : State := { tS tF with mgq := { ring := List.replicate 255 tRec, waiting := [tRec] } }
def tFull16 : Word := 16 * 256 + 1
theorem witness_ManagementWritesAndRecords :
    ((tHvS 0xFFFFFFFF).queue (.hv 15 3) = tHv 0xFFFFFFFF ∧ (tHv 0xFFFFFFFF).en = true ∧ (tHv 0xFFFFFFFF).sent = none ∧
      ((tHv 0xFFFFFFFF).head - (tHv 0xFFFFFFFF).tail).toNat < (tHv 0xFFFFFFFF).size.toNat ∧ (tHv 0xFFFFFFFF).waiting = tRec :: [] ∧
      tRec.length = 64 ∧ (let x := tHv 0xFFFFFFFF
        let a := 3 * 2 ^ 49 + (x.base.toNat / 64 * 64 + 64 * (x.head.toNat % x.size.toNat)) % 2 ^ 49
        busFailed (tHvS 0xFFFFFFFF) (a / 128 * 128) = false) ∧ Memory.wf (tHvS 0xFFFFFFFF).mem = true) ∧
    ((tHv 0).size.toNat ≤ ((tHv 0).head - (tHv 0).tail).toNat ∧ (tHvS 0).queue (.hv 15 3) = tHv 0) ∧
    (((tS tF).queue (.ev 1023)).en = false ∧ ((tS tF).queue (.ev 1023)).waiting = []) ∧
    (tMgS.mgq.en = false ∧ tMgS.mgq.ring.length < 256 ∧ tMgS.mgq.waiting = tRec :: []) ∧
    (let n := (tFull16.extractLsb' 8 24).toNat
     16 ≤ n ∧ n ≤ 2 ^ 20 ∧ n = 2 ^ n.log2 ∧ n ≤ 2 ^ 23) ∧
    (¬(24 : Nat) = 2 ^ (24 : Nat).log2) ∧ tabWf 0 ((tS tF).ctx 0).omap = true ∧ (16 : Nat) % 32 ≤ 16 ∧ 16 < (17 : Nat) % 32 ∧
    (tabFind ((tS tF).tile tT).so 15 = none ∧ (tabFind (conv1.tile tT).so 1).isSome = true) ∧
    (((tS tF).ctx 1023).part = none ∧ ((tS tF).part ((tS tF).partOfCtx 0)).planes.getLsbD 7 = false ∧
      ((tS tF).ctx 0).part.isSome = true ∧ ((tS tF).part ((tS tF).partOfCtx 0)).planes.getLsbD 0 = true ∧ tabWf 0 ((tS tF).ctx 0).binds = true) ∧
    ((tP.plane 0).up = false ∧ (tP.plane 1).up = true ∧ 2 ≤ (tP.plane 1).ring.length ∧ bindV (tP.binding 0 1) = true ∧
      bindV (tP.binding 0 0) = false) ∧
    mregOf ((1 : Word).toNat % 2 ^ 32) = none := by
  refine ⟨⟨rfl, rfl, rfl, by decide, rfl, by decide, by decide +kernel, by decide⟩, ⟨by decide, rfl⟩, ⟨rfl, rfl⟩, ⟨rfl, by decide +kernel, rfl⟩,
    by decide +kernel, by decide +kernel, by decide, by decide, by decide, ⟨rfl, by decide⟩, ⟨rfl, by decide, rfl, by decide, by decide⟩,
    ⟨rfl, rfl, by decide, by decide, by decide⟩, by decide⟩

/-! ## Engines -/

def gotRead (x : EngRead) : Bool := match x with | .got _ _ => true | _ => false
theorem got_read {x : EngRead} (h : gotRead x = true) : ∃ b s, x = .got b s := by
  unfold gotRead at h; split at h
  · exact ⟨_, _, rfl⟩
  · cases h
/-- The small machine with a command, and with another tile. -/
def tEng (k : CmdKind) : State := tSx tF (fun x => { tOm x with cmds := [{ tCmd with kind := k }] })
def tEngC (k : CmdKind) : Cmd := { tCmd with kind := k }
/-- The machine with a copy whose chunk n is next. -/
def tCpC (n : Nat) (o : Option Nat) : Cmd := { tCmd with kind := .cpy sa (sa + 0x400) 128, chunk := n, sent := o }
def tCpS (n : Nat) (o : Option Nat) : State := tSx tF (fun x => { x with cmds := [tCpC n o] })
/-- The machine with a fill of one plane whose piece n is next. -/
def tFl (n : Nat) : Cmd := { tCmd with kind := .oload 15 tDesc 0 0 0 0, chunk := n }
def tFlS (n : Nat) : State := tSx tF (fun x => { tOm x with cmds := [tFl n] })
/-- The next chunk is there, its bytes can be read, and they can be written. -/
def chunkReady (s : State) (c : Cmd) : Bool :=
  match (chunksOf c.kind)[c.chunk]? with
  | none => false
  | some ps =>
    match fetchChunk tT c ps s [] with
    | .inl _ => false
    | .inr (ws, s1) =>
      let n := (ws.map (fun w => w.2.length)).sum
      match writeAll tT c.id ws (s1.setCmd tT { c with st := .running, sent := some n }) with
      | .error _ => false
      | .ok s2 => (s2.cmd? tT c.id).isSome
def tLj (n : Nat) : LevalJob :=
  { owner := 0, q := 0, n := 2, next := n, sig := 0, orphan := false, stamp := 0, begun := some (7, []), bound := true, settled := true }
def tMe : State :=
  tSx tF (fun x => { x with om := [(15, { claimed := true, filling := true, armed := some 0, nplanes := 1, got := 14 })]
                            edges := [(portKey 16 15, { tEdge with fifo := [fTok] })] })

theorem witness_EngineStepsMoveTheirCommands :
    (∀ n ∈ [14, 15], (tFlS n).cmd? tT 4 = some (tFl n) ∧ (tFl n).pending = true ∧ (tFl n).acq = false ∧
      pathBusy (tFlS n) tT (tFl n) (ownPath (tFlS n) tT (tFl n) (fillAddr tDesc 0 0 n)) = false ∧
      ∃ b s1, readPlane (tFlS n) tT (tFl n) tDesc 0 0 (tDesc.plo + n / 16) (64 * (n % 16)) 64 = .got b s1) ∧
    (14 + 1 < 16 * tDesc.planes ∧ 16 * tDesc.planes ≤ 15 + 1) ∧
    (let s := tSx tF (fun x => { x with me := { queue := [tJob] } })
     (s.tile tT).me.queue = tJob :: [] ∧ s.errs = [] ∧ tabAbove 0 (s.tile tT).me.acc = true) ∧
    (∀ n ∈ [0, 1], ∀ o ∈ [none, some 128], (tCpS n o).cmd? tT 4 = some (tCpC n o) ∧ (tCpC n o).isCopy = true ∧ (tCpC n o).pending = true ∧
      (tCpC n o).acks = 0 ∧ acqMet ((tCpS n o).tile tT) (tCpC n o) = true ∧ relMet (tCpS n o) tT (tCpC n o) = true ∧ (tCpC n o).acq = false ∧
      (tCpC n o).missed = false) ∧
    (chunkReady (tCpS 0 none) (tCpC 0 none) = true ∧ (chunksOf (tCpC 1 none).kind)[(tCpC 1 none).chunk]? = none) ∧
    (∀ k ∈ [CmdKind.ltload 7 sa, .lwire 7 sa], ((tEng k).tile tT).cmds = [tEngC k] ∧ (tEngC k).pending = true ∧
      (tEngC k).acq = false ∧
      usesCtx ((tEng k).tile tT) 7 (tEngC k).id = false ∧
      (∃ b s1, cmdRead (tEng k) tT (tEngC k) sa (if k = .ltload 7 sa then 8192 else 16384) = .got b s1)) ∧
    (∀ n, let s := tSx tF (fun x => { x with lcb := { job := some (tLj n) } })
      (s.tile tT).lcb.job = some (tLj n) ∧ s.errs = [] ∧ tabAbove 0 (s.tile tT).lcb.plane = true ∧ (tLj n).bound = true ∧
      (tLj n).failed = false ∧ (tLj n).settled = true ∧ (s.tile tT).halting = false ∧ (s.tile tT).atHalt = false ∧
      (∀ c, loadBefore (s.tile tT) c (tLj n).stamp = false) ∧ (s.tile tT).lcb.invalid = 0) ∧ (0 + 1 < (tLj 0).n ∧ (tLj 1).n ≤ 1 + 1) ∧
    (let m := (tMe.tile tT).slotOf 15
     headTok tMe tT 16 15 = some tTok ∧ tTok.skip = 0 ∧ m.claimed = true ∧ m.filling = true ∧ m.armed = some 0 ∧ m.got + 1 < 16 * m.nplanes ∧
       tTok.last = false) := by
  refine ⟨?_, by decide +kernel, ⟨rfl, rfl, by decide⟩, by decide +kernel, by decide +kernel, ?_,
    fun n => ⟨rfl, rfl, rfl, rfl, rfl, rfl, rfl, rfl, fun c => rfl, rfl⟩, by decide, ⟨rfl, rfl, rfl, rfl, rfl, by decide, rfl⟩⟩
  · intro n h
    simp only [List.mem_cons, List.not_mem_nil, or_false] at h
    rcases h with rfl | rfl <;> exact ⟨rfl, by decide, rfl, by decide +kernel, got_read (by decide +kernel)⟩
  · intro k h
    simp only [List.mem_cons, List.not_mem_nil, or_false] at h
    rcases h with rfl | rfl <;> exact ⟨rfl, by decide, rfl, by decide, got_read (by decide +kernel)⟩
/-! ## Well-formed terms

One term that each check refuses. -/

theorem refused_integer_and_control_terms :
    Instr.wf (.add { a := true, g := 8, d := 0, s := 0, t := 0, w := .w64 }) = false ∧
    Instr.wf (.shli { a := false, g := 0, d := 0, s := 0, imm := 64 }) = false ∧
    Instr.wf (.ltop { a := false, g := 0, d := 0, imm := 64 }) = false ∧
    Instr.wf (.bfx { a := false, g := 0, d := 0, s := 0, pos := 33, len1 := 31 }) = false ∧
    Instr.wf (.cmpEq { a := false, g := 0, p := 0, s := 0, t := 0, w := .w64 }) = false ∧
    Instr.wf (.loop { g := 0, lc := 0, s := 0, len := 0 }) = false ∧
    Instr.wf (.waitp { g := 0, m := 0 }) = false ∧
    Instr.wf (.nop { g := 0, wave := some { seq := 0x3E, pred := 0, succ := 0 } }) = false ∧
    Instr.wf (.steert { g := 0, port := 0, stv := false, steer := 1 }) = false ∧
    Instr.wf (.sendd { g := 0, q := 0, t := 0, steer := 0, stv := false, last := false, bytes := 65 }) = false := by decide +kernel
theorem refused_vector_terms :
    Instr.wf (.req { g := 0, port := 0, n := 257 }) = false ∧
    Instr.wf (.reconf { g := 0, port := 0, n := 1 }) = false ∧
    Instr.wf (.vcmp { g := 0, d := 0, s := 0, t := 0, ty := .int8, cc := 7 }) = false ∧
    Instr.wf (.vfcmp { g := 0, d := 0, s := 0, t := 0, ty := .fp16, cc := 5 }) = false ∧
    Instr.wf (.vext { g := 0, d := 0, s := 0, ty := .int .int32, lane := 16 }) = false ∧
    Instr.wf (.vshuf { g := 0, d := 0, s := 0, ty := .int .int8, op := 7, k := 0 }) = false ∧
    Instr.wf (.vplane { g := 0, d := 0, s := 0, ty := .int16 }) = false ∧
    Instr.wf (.vplane16 { g := 0, d := 0, s := 0, ty := .uint8 }) = false ∧
    Instr.wf (.vunplane16 { g := 0, d := 127, s := 0, ty := .int16 }) = false ∧
    Instr.wf (.wopenr { g := 0, win := 0, s := 1021 }) = false := by decide +kernel
theorem refused_memory_terms :
    Instr.wf (.lda { g := 0, d := 0, s := 0, scope := .tile, order := .rel, size := .d, sg := false, off := 0 }) = false ∧
    Instr.wf (.stl { g := 0, d := 0, s := 0, scope := .tile, order := .acq, size := .d, sg := false, off := 0 }) = false ∧
    Instr.wf (.stl { g := 0, d := 0, s := 0, scope := .tile, order := .rel, size := .d, sg := true, off := 0 }) = false ∧
    Instr.wf (.amin { g := 0, d := 0, s := 0, t := 0, scope := .tile, order := .ar, size := .h, sg := true, off := 0 }) = false ∧
    Instr.wf (.aadd { g := 0, d := 0, s := 0, t := 0, scope := .tile, order := .ar, size := .w, sg := true, off := 0 }) = false ∧
    Instr.wf (.bwait { g := 0, d := 0, s := 0, plane := 0, key := 1, gseq := true, acq := false }) = false ∧
    Instr.wf (.bseq { g := 0, d := 0, plane := 0, key := 0, sel := 3, acq := false }) = false ∧
    Instr.wf (.coll { g := 0, d := 0, s := 0, t := 0, plane := 0, ty := .int .int8, op := 3, acq := false, rel := false }) = false ∧
    Instr.wf (.cpy { g := 0, d := 0, q := 0, acq := false, rel := false, scope := .tile }) = false ∧
    Instr.wf (.oload { g := 0, o := 0, q := 0, t := 0, acq := false, scope := .firing, wake := 17, bit := 0 }) = false := by decide +kernel
theorem refused_engine_terms :
    Instr.wf (.mwait { g := 0, m := 0 }) = false ∧
    Instr.wf (.cwait { g := 0, s := 1, all := true }) = false ∧
    Instr.wf (.lbind { g := 0, o := 0, sig := 64 }) = false ∧
    Instr.wf (.leval { g := 0, q := 0, n1 := 0, sig := 4 }) = false ∧
    Instr.wf (.lwait { g := 0, m := 0 }) = false ∧
    Instr.wf (.srd { g := 0, d := 0, idx := 0x13 }) = false ∧
    Instr.wf (.swr { g := 0, s := 0, idx := 0x11 }) = false := by decide +kernel

/-! ## Words

Each word is put together from the fields of R49 and R55 by the tables of R56, R63 to R66, R168 and R176. -/

theorem words_of_integer_forms :
    decodeWord 0x02200381004A0000#64 = .ok (.form (.mulh { a := false, g := 0, d := 7, s := 8, t := 9, w := .w16 })) ∧
    decodeWord 0x8381FF8000010000#64 = .ok (.form (.clz { a := true, g := 0, d := 1023, s := 0, w := .w32 })) ∧
    decodeWord 0x04C00280C000003F#64 = .ok (.form (.sari { a := false, g := 0, d := 5, s := 6, imm := 63 })) ∧
    decodeWord 0x052002801FFFFFFF#64 = .ok (.form (.lui { a := false, g := 0, d := 5, imm := 0x1FFFFFFF })) ∧
    decodeWord 0x06400280C038081F#64 = .ok (.form (.bfi { a := false, g := 0, d := 5, s := 6, t := 7, pos := 32, len1 := 31 })) ∧
    decodeWord 0x07C00380C02B0000#64 = .ok (.form (.cmpTst { a := false, g := 0, p := 7, s := 6, t := 5, w := .w8 })) ∧
    decodeWord 0x08A00080C0040000#64 = .ok (.form (.cmpiLeu { a := false, g := 0, p := 1, s := 6, imm := 0x40000 })) := by decide +kernel
theorem words_of_control_token_and_float_forms :
    decodeWord 0x09C00100C000003F#64 = .ok (.form (.pld { a := false, g := 0, p := 2, s := 6, bit := 63 })) ∧
    decodeWord 0x8A000280DFC0E000#64 = .ok (.form (.agen { g := 0, d := 5, s := 6, q := 127, m1 := 7 })) ∧
    decodeWord 0x9100000000000005#64 = .ok (.form (.call { g := 0, off := 5 })) ∧
    decodeWord 0x922001FFFFF00FFF#64 = .ok (.form (.loopi { g := 0, lc := 3, count := 0xFFFFE, len := 0xFFF })) ∧
    decodeWord 0x9360000000008000#64 = .ok (.form (.waitp { g := 0, m := 0x8000 })) ∧
    decodeWord 0x1400028200003F40#64 = .ok (.form (.send { g := 0, port := 5, q := 2, steer := 7, stv := true, last := true, pri := 2, bytes := 64 })) ∧
    decodeWord 0x1580048000000000#64 = .ok (.form (.tqry { g := 0, d := 9 })) := by decide +kernel
theorem words_of_vector_forms :
    decodeWord 0x18A00481003E0000#64 = .ok (.form (.ffma { g := 0, d := 9, s := 8, t := 7, ty := .bf16 })) ∧
    decodeWord 0x19E0048100050000#64 = .ok (.form (.frnd { g := 0, d := 9, s := 8, ty := .fp16 })) ∧
    decodeWord 0x1A800181003F0000#64 = .ok (.form (.fcmpUn { g := 0, p := 3, s := 8, t := 7, ty := .fp32 })) ∧
    decodeWord 0x1B2004810007C000#64 = .ok (.form (.cvtfi { g := 0, d := 9, s := 8, fty := .fp32, ity := .uint32 })) ∧
    decodeWord 0x21E0040200040000#64 = .ok (.form (.vpopc { g := 0, d := 1, s := 2, ty := .uint16 })) ∧
    decodeWord 0x2260040200C70000#64 = .ok (.form (.vffma { g := 0, d := 1, s := 2, t := 3, ty := .fp32 })) ∧
    decodeWord 0x2300040200C26000#64 = .ok (.form (.vcmp { g := 0, d := 1, s := 2, t := 3, ty := .int32, cc := 6 })) := by decide +kernel
theorem words_of_memory_forms :
    decodeWord 0x2480040200030000#64 = .ok (.form (.vredmin { g := 0, d := 1, s := 2, ty := .uint8 })) ∧
    decodeWord 0x2541F80200010000#64 = .ok (.form (.vplane16 { g := 0, d := 126, s := 2, ty := .int16 })) ∧
    decodeWord 0xA9A000009FFFBF7E#64 = .ok (.form (.stz { g := 0, s := 4, off := 0x3FF, wave := { seq := 61, pred := 0x3E, succ := 0x3F } })) ∧
    decodeWord 0xAA2003FF80000000#64 = .ok (.form (.wopenw { g := 0, win := 7, s := 1020 })) ∧
    decodeWord 0xAB600280C03C9A00#64 = .ok (.form (.stx { g := 0, d := 5, s := 6, t := 7, scope := .stack, order := .sc, size := .d, sg := false, off := 0x200 })) ∧
    decodeWord 0xAD0000000007C000#64 = .ok (.form (.fence { g := 0, acq := true, rel := true, scope := .system })) ∧
    decodeWord 0xAE60000080081FFC#64 = .ok (.form (.ppref { g := 0, s := 4, off := 1, wave := { seq := 0, pred := 0x3F, succ := 0x3E } })) := by decide +kernel
theorem words_of_engine_and_system_forms :
    decodeWord 0xB04007840144412F#64 = .ok (.form (.oload { g := 0, o := 15, q := 4, t := 40, acq := true, scope := .tile, wake := 18, bit := 15 })) ∧
    decodeWord 0x3160018000003FF0#64 = .ok (.form (.mdrain { g := 0, acc := 3, route := 7, last := true, rows1 := 63 })) ∧
    decodeWord 0xB260048400034000#64 = .ok (.form (.gath { g := 0, d := 9, q := 4, acq := false, rel := true, scope := .device })) ∧
    decodeWord 0xB3600402004DBF80#64 = .ok (.form (.coll { g := 0, d := 1, s := 2, t := 9, plane := 7, ty := .flt .fp32, op := 2, acq := true, rel := false })) ∧
    decodeWord 0x3480040000003FF8#64 = .ok (.form (.leval { g := 0, q := 1, n1 := 7, sig := 0x7F8 })) ∧
    decodeWord 0xB800048000000081#64 = .ok (.form (.srd { g := 0, d := 9, idx := 0x81 })) ∧
    decodeWord 0xB980040120000000#64 = .ok (.form (.qpop { g := 0, q := 1, s := 9 })) := by decide +kernel

/-! The words that the spec prints beside their fields (R99, R124, R140, R142, R152 to R172, R182 to R216). -/

theorem printed_words_of_integer_and_vector_forms :
    decodeWord 0x8A00010020802000#64 = .ok (.form (.agen { g := 0, d := 2, s := 1, q := 2, m1 := 1 })) ∧
    decodeWord 0x8A20008000800000#64 = .ok (.form (.ainc { g := 0, d := 1, q := 2, k := 0 })) ∧
    decodeWord 0x1B600200A0072000#64 = .ok (.form (.cvtf8 { g := 0, d := 4, s := 5, fty := .fp32, e5m2 := true })) ∧
    decodeWord 0x18A0050160670000#64 = .ok (.form (.ffma { g := 0, d := 10, s := 11, t := 12, ty := .fp32 })) ∧
    decodeWord 0x23000C0100812000#64 = .ok (.form (.vcmp { g := 0, d := 3, s := 1, t := 2, ty := .int16, cc := 2 })) ∧
    decodeWord 0x24A0040000050000#64 = .ok (.form (.vfredadd { g := 0, d := 1, s := 0, ty := .fp16 })) ∧
    decodeWord 0x2500080100030000#64 = .ok (.form (.vplane { g := 0, d := 2, s := 1, ty := .uint8 })) ∧
    decodeWord 0xAA20010280000000#64 = .ok (.form (.wopenw { g := 0, win := 2, s := 20 })) ∧
    decodeWord 0xA98008008010207C#64 = .ok (.form (.stv { g := 0, d := 2, s := 4, off := 2, wave := { seq := 1, pred := 0, succ := 0x3E } })) := by decide +kernel
theorem printed_words_of_memory_and_plane_forms :
    decodeWord 0xAB600500605D5002#64 = .ok (.form (.stx { g := 0, d := 10, s := 3, t := 11, scope := .device, order := .rel, size := .w, sg := false, off := 2 })) ∧
    decodeWord 0xACE00280C03F9800#64 = .ok (.form (.acas { g := 0, d := 5, s := 6, t := 7, scope := .system, order := .sc, size := .d, sg := false, off := 0 })) ∧
    decodeWord 0xAD40000000038000#64 = .ok (.form (.gfence { g := 0, acq := false, rel := true, scope := .plane })) ∧
    decodeWord 0xB300060300038980#64 = .ok (.form (.bpost { g := 0, d := 12, q := 3, plane := 1, key := 3, rel := true })) ∧
    decodeWord 0xB3200681C0058980#64 = .ok (.form (.bwait { g := 0, d := 13, s := 14, plane := 1, key := 3, gseq := false, acq := true })) ∧
    decodeWord 0xB360100501479700#64 = .ok (.form (.coll { g := 0, d := 4, s := 5, t := 40, plane := 2, ty := .flt .fp32, op := 0, acq := true, rel := true })) ∧
    decodeWord 0x14000082000000C0#64 = .ok (.form (.send { g := 0, port := 1, q := 2, steer := 0, stv := false, last := false, pri := 1, bytes := 64 })) ∧
    decodeWord 0x1460000000000010#64 = .ok (.form (.req { g := 0, port := 0, n := 16 })) ∧
    decodeWord 0x1540000000000004#64 = .ok (.form (.tpset { g := 0, m := 4 })) := by decide +kernel
theorem printed_words_of_token_and_engine_forms :
    decodeWord 0xB0400184014541E2#64 = .ok (.form (.oload { g := 0, o := 3, q := 4, t := 40, acq := true, scope := .device, wake := 30, bit := 2 })) ∧
    decodeWord 0x3100000000000333#64 = .ok (.form (.mpair { g := 0, v := 0x333 })) ∧
    decodeWord 0x3140008060280000#64 = .ok (.form (.mma { g := 0, acc := 1, oa := 3, ob := 5 })) ∧
    decodeWord 0x31600000000017F0#64 = .ok (.form (.mdrain { g := 0, acc := 0, route := 2, last := true, rows1 := 63 })) ∧
    decodeWord 0xB2A004860003C000#64 = .ok (.form (.cpyr { g := 0, d := 9, q := 6, acq := false, rel := true, scope := .system })) ∧
    decodeWord 0x3480080000000C00#64 = .ok (.form (.leval { g := 0, q := 2, n1 := 1, sig := 1024 })) ∧
    decodeWord 0x3460010000000000#64 = .ok (.form (.lbind { g := 0, o := 2, sig := 0 })) := by decide +kernel

/-- The changes to them that the spec says raise ILLEGAL at decode. -/
def refuses (w : Word) : Bool := match decodeWord w with | .error _ => true | .ok _ => false
theorem printed_refused :
    [0x98A0050160670000#64, 0x23000C0100872000#64, 0x24A0040000058000#64, 0x2500080100010000#64, 0xB300060300034980#64,
     0xB300060300078980#64, 0xAB600500605D3002#64, 0xB0400184014761E2#64, 0x31400080602C0000#64, 0xB040018401454052#64,
     0x32A004860003C000#64].all refuses = true := by decide +kernel
/-! ## Steps whose results the spec prints -/

def run (i : Instr) (f : Firing) : Option Firing :=
  match exec i (tS f) with
  | .next s => s.firing? tT 0
  | _ => none
/-- Slot d after the form, and the flags and predicates. -/
def slotAfter (i : Instr) (l : Tab Word) (d : Nat) : Option Word := (run i { tF with slots := l }).map (fun f => f.slot d)
def fpfAfter (i : Instr) (l : Tab Word) : Option (BitVec 4) := (run i { tF with slots := l }).map (fun f => f.fpf)

/-- The full 64-bit constant of R96. -/
theorem test_full_constant :
    slotAfter (.lui { a := false, g := 0, d := 5, imm := 0x11A2B3C4 }) [] 5 = some 0xFE34567880000000 ∧
    slotAfter (.li { a := false, g := 0, d := 6, imm := 0x1ABCDEF0 }) [] 6 = some 0xFFFFFFFFFABCDEF0 ∧
    slotAfter (.bfx { a := false, g := 0, d := 6, s := 6, pos := 0, len1 := 28 }) [(6, 0xFFFFFFFFFABCDEF0)] 6 = some 0x1ABCDEF0 ∧
    slotAfter (.or { a := false, g := 0, d := 5, s := 5, t := 6, w := .w64 }) [(5, 0xFE34567880000000), (6, 0x1ABCDEF0)] 5 =
      some 0xFE3456789ABCDEF0 := by decide +kernel
/-- ABSD.b of −128 and 127 writes 255; a zero divisor gives 2^n − 1 (R93). -/
theorem test_distance_and_division :
    slotAfter (.absd { a := false, g := 0, d := 3, s := 1, t := 2, w := .w8 }) [(1, 0x80), (2, 0x7F)] 3 = some 255 ∧
    slotAfter (.divu { a := false, g := 0, d := 3, s := 1, t := 2, w := .w16 }) [(1, 7)] 3 = some 0xFFFF := by decide +kernel
/-- The 4 × 3 walk of R101: index 11 lies at 515, and index 12 is outside. -/
def tWalk : Tab Word := [(1, 11), (2, 12), (16, 0x100000004), (17, 0x10000000003)]
theorem test_walk :
    slotAfter (.agen { g := 0, d := 3, s := 1, q := 2, m1 := 1 }) tWalk 3 = some 515 ∧
    slotAfter (.ainc { g := 0, d := 1, q := 2, k := 0 }) tWalk 1 = some 12 ∧
    (run (.achk { g := 0, p := 1, s := 2, q := 2, m1 := 1 }) { tF with slots := tWalk, preds := 2 }).map (fun f => f.pred 1) = some false := by
  decide +kernel
/-- The narrowings of R132: 300.0, 500.0, 2^−10 and 2^−17. Flags are IV, OV, UF, IX from bit 3 down. -/
def e4m3 (w : Word) : Option Word × Option (BitVec 4) :=
  let i : Instr := .cvtf8 { g := 0, d := 4, s := 5, fty := .fp32, e5m2 := false }
  (slotAfter i [(5, w)] 4, fpfAfter i [(5, w)])
def e5m2 (w : Word) : Option Word × Option (BitVec 4) :=
  let i : Instr := .cvtf8 { g := 0, d := 4, s := 5, fty := .fp32, e5m2 := true }
  (slotAfter i [(5, w)] 4, fpfAfter i [(5, w)])
theorem test_narrowing :
    (e4m3 0x43960000).1 = some 0x79 ∧ (e4m3 0x43FA0000).1 = some 0x7E ∧ (e4m3 0x3A800000).1 = some 0x00 ∧ (e4m3 0x7FC00000).1 = some 0x7F ∧
    (e5m2 0x43960000).1 = some 0x5D ∧ (e5m2 0x7F800000).1 = some 0x7B ∧ (e5m2 0x37800000).1 = some 0x01 ∧ (e5m2 0x37000000).1 = some 0x00 ∧
    (e5m2 0x37800000).2 = some 0 ∧ (e5m2 0x37000000).2 = (e4m3 0x3A800000).2 ∧ (e4m3 0x43FA0000).2 ≠ (e4m3 0x43960000).2 := by
  decide +kernel
/-- The pairwise sum of R140: 0x6801 and IX, where a sum from lane 0 upward would give 0x6800. -/
theorem test_pairwise_sum :
    slotAfter (.vfredadd { g := 0, d := 1, s := 0, ty := .fp16 }) [(0, 0x3C003C003C006800)] 8 = some 0x6801 ∧
    fpfAfter (.vfredadd { g := 0, d := 1, s := 0, ty := .fp16 }) [(0, 0x3C003C003C006800)] = (e4m3 0x43960000).2 := by decide +kernel
/-- The planes of 0 to 63 of R142. -/
def bytesUp : Tab Word :=
  (List.range 8).map (fun k => (8 + k, BitVec.ofNat 64 (((List.range 8).map (fun j => (8 * k + j) * 2 ^ (8 * j))).foldl (· + ·) 0)))
theorem test_planes :
    (run (.vplane { g := 0, d := 2, s := 1, ty := .uint8 }) { tF with slots := bytesUp }).map (fun f => (List.range 8).map (fun k => f.slot (16 + k))) =
      some [0xAAAAAAAAAAAAAAAA, 0xCCCCCCCCCCCCCCCC, 0xF0F0F0F0F0F0F0F0, 0xFF00FF00FF00FF00, 0xFFFF0000FFFF0000, 0xFFFFFFFF00000000, 0, 0] := by
  decide +kernel
/-- An evaluation of one layer into slots 16 to 23, past its binding step. -/
def cellJob : LevalJob :=
  { owner := 0, q := 2, n := 1, next := 0, sig := 1024, orphan := false, stamp := 0, begun := some (0, []), bound := true, settled := true }
/-- The majority cell of chapter 11 and the exclusive-or of R216: the slots 16 and 17 that the evaluation writes. -/
def tCell (table : Word) (wire : BitVec 128) (a b c : Word) : State :=
  tSx tF (fun x => { x with lcb := { plane := [(0, a), (1, b), (2, c)], tables := [(0, table)], wiring := [(0, wire)], job := some cellJob } })
def evaluated (s : State) : Option (Word × Word) :=
  match execLevalLayer tT s with
  | .next s => (s.firing? tT 0).map (fun f => (f.slot 16, f.slot 17))
  | _ => none
theorem test_lookup_cells :
    evaluated (tCell 0xE8E8E8E8E8E8E8E8 0x30000000000000800800#128 0xAAAAAAAAAAAAAAAA 0xCCCCCCCCCCCCCCCC 0xF0F0F0F0F0F0F0F0) =
      some (0xE8E8E8E8E8E8E8E8, 0) ∧
    evaluated (tCell 0x4000000000000002 0x30000080100200400800#128 0xFF00FF00FF00FF00 0xF0F0F0F0F0F0F0F0 0) = some (0x0FF00FF00FF00FF0, 0) := by
  decide +kernel
/-- The header of the example of R45. -/
theorem test_header :
    ({ dev := 5, stk := 2, tx := 3, ty := 7, node := 200, port := 1, pri := 1, kind := 0, ctx := 37, tag := 0x102, seq := 9, skip := 2, fmt := 6
       last := false, stv := false, steer := 0, bytes := 64, rsv := 0, payload := 0, par := 0 } : Token).header =
      0x00586E640A0250000010200090260400 := by decide
/-- The block of R30: its 13 words, and the elements that a decoder reads. -/
def block64 : List Nat :=
  List.replicate 4 0x00 ++ (List.range 40).map (fun i => if i % 2 = 0 then 0x38 else 0xBD) ++ List.replicate 10 0x44 ++ List.replicate 8 0xB3 ++
    List.replicate 2 0x4E
def block64Words : List Nat :=
  [0x0000390D, 0xD0D0D0D0, 0xD0D0D0D0, 0xD0D0D0D0, 0xD0D0D0D0, 0xD0D0D0D0, 0x44444444, 0xBBBBBB44, 0xF87F66BB, 0x00FE1FC3, 0x00000000, 0xB6DB6DB0,
   0x07BD5555]
theorem test_block_encodes : ec8Encode block64 = block64Words.flatMap (bytesOf 4) := by decide +kernel
theorem test_block_decodes : ec8Decode (block64Words.flatMap (bytesOf 4)) = .block block64 52 := by decide +kernel
end Sys2Proof.Tests
end

section
/-! SUPPORT. Bytes and numbers, folds over the state, and what a record's post keeps. -/

namespace Sys2Proof.Machine

/-! ## Bytes and numbers (R5) -/

@[simp] theorem bytesOf_length (n v : Nat) : (bytesOf n v).length = n := by
  induction n generalizing v with
  | zero => rfl
  | succ n ih => simp [bytesOf, ih]

@[simp] theorem beBytes_length (n v : Nat) : (beBytes n v).length = n := by
  induction n with
  | zero => rfl
  | succ n ih => simp [beBytes, ih]

theorem sha512_length (m : List Byte) : (sha512 m).length = 64 := beBytes_length _ _

@[simp] theorem padTo_length (n : Nat) (b : List Byte) : (padTo n b).length = n := by
  simp [padTo]

/-- The bytes of a number give it back, as far as they reach. -/
theorem wordOfBytes_bytesOf (n v : Nat) : wordOfBytes (bytesOf n v) = v % 256 ^ n := by
  induction n generalizing v with
  | zero => simp [bytesOf, wordOfBytes, Nat.mod_one]
  | succ n ih =>
    rw [bytesOf, wordOfBytes, ih, BitVec.toNat_ofNat, Nat.pow_succ' (m := 256)]
    exact Nat.mod_mul.symm

theorem wordOfBytes_bytesOf_of_lt {n v : Nat} (h : v < 256 ^ n) : wordOfBytes (bytesOf n v) = v :=
  (wordOfBytes_bytesOf n v).trans (Nat.mod_eq_of_lt h)

theorem wordOfBytes_lt (l : List Byte) : wordOfBytes l < 256 ^ l.length := by
  induction l with
  | nil => simp [wordOfBytes]
  | cons b r ih =>
    simp only [wordOfBytes, List.length_cons, Nat.pow_succ']
    have := b.isLt
    omega

/-- A word that has room for bytes keeps the number that they make. -/
theorem toNat_ofNat_wordOfBytes {l : List Byte} {w : Nat} (h : 8 * l.length = w) : (BitVec.ofNat w (wordOfBytes l)).toNat = wordOfBytes l := by
  have hlt := wordOfBytes_lt l
  rw [show 256 ^ l.length = 2 ^ (8 * l.length) from (Nat.pow_mul 2 8 _).symm, h] at hlt
  rw [BitVec.toNat_ofNat, Nat.mod_eq_of_lt hlt]

/-- Bytes are the bytes of the number they make. -/
theorem bytesOf_wordOfBytes (l : List Byte) : bytesOf l.length (wordOfBytes l) = l := by
  induction l with
  | nil => rfl
  | cons b r ih =>
    have h := b.isLt
    have hd : (b.toNat + 256 * wordOfBytes r) / 256 = wordOfBytes r := by omega
    have hm : BitVec.ofNat 8 (b.toNat + 256 * wordOfBytes r) = b := by
      apply BitVec.eq_of_toNat_eq; rw [BitVec.toNat_ofNat]; omega
    simp only [List.length_cons, wordOfBytes, bytesOf, hd, hm, ih]

/-- A byte of the number that bytes make. -/
theorem byte_wordOfBytes (l : List Byte) (i : Nat) : BitVec.ofNat 8 (wordOfBytes l / 2 ^ (8 * i)) = l.getD i 0 := by
  induction l generalizing i with
  | nil => simp [wordOfBytes]
  | cons b r ih =>
    have h := b.isLt
    cases i with
    | zero => apply BitVec.eq_of_toNat_eq; simp [wordOfBytes]; omega
    | succ i =>
      have hd : wordOfBytes (b :: r) / 2 ^ (8 * (i + 1)) = wordOfBytes r / 2 ^ (8 * i) := by
        rw [show 2 ^ (8 * (i + 1)) = 256 * 2 ^ (8 * i) by rw [Nat.mul_succ, Nat.add_comm, Nat.pow_add], ← Nat.div_div_eq_div_mul]
        congr 1
        simp only [wordOfBytes]; omega
      rw [hd, ih]; rfl

/-- A field of joined bytes that lies where one part of them does. -/
theorem leField_part {a b : List Byte} (c : List Byte) {off size : Nat} (ha : a.length = off) (hb : b.length = size) :
    leField (a ++ (b ++ c)) off size = wordOfBytes b := by
  subst ha hb
  simp [leField]

theorem leField_first {b : List Byte} (c : List Byte) {size : Nat} (hb : b.length = size) : leField (b ++ c) 0 size = wordOfBytes b :=
  leField_part (a := []) c rfl hb

theorem memBytes_eq (m : List Host.Cell) (k n : Nat) : memBytes m k n = (List.range' k n).map (tabGet 0 m) := by
  induction n generalizing k with
  | zero => rfl
  | succ n ih => simp [memBytes, ih, List.range'_succ]
@[simp] theorem memBytes_length (m : List Host.Cell) (k n : Nat) : (memBytes m k n).length = n := by simp [memBytes_eq]

/-- Some of the bytes read at a key. -/
theorem memBytes_part (m : List Host.Cell) (k : Nat) {o n size : Nat} (h : o + n ≤ size) :
    ((memBytes m k size).drop o).take n = (List.range n).map (fun i => tabGet 0 m (k + o + i)) := by
  refine List.ext_getElem (by simp; omega) fun i _ _ => ?_
  simp [memBytes_eq, Nat.add_assoc]

/-! ## Folds that establish a fact of each element -/

/-- A fold whose every step keeps an invariant, establishes a fact of its own element and keeps those of the others
leaves the facts of all its elements. -/
theorem foldl_establishes {σ β : Type} {f : σ → β → σ} (I : σ → Prop) (P : β → σ → Prop)
    (keep : ∀ s a, I s → I (f s a)) (own : ∀ s a, I s → P a (f s a)) (others : ∀ s a b, I s → P b s → P b (f s a))
    (l : List β) (s : σ) (h : I s) : I (l.foldl f s) ∧ ∀ b ∈ l, P b (l.foldl f s) := by
  have stays : ∀ (l : List β) (s : σ) b, I s → P b s → P b (l.foldl f s) := by
    intro l
    induction l with
    | nil => intro s b _ hp; exact hp
    | cons a r ih => intro s b hi hp; exact ih _ _ (keep s a hi) (others s a b hi hp)
  induction l generalizing s with
  | nil => exact ⟨h, by simp⟩
  | cons a r ih =>
    obtain ⟨hi, hr⟩ := ih _ (keep s a h)
    refine ⟨hi, List.forall_mem_cons.2 ⟨stays r _ a (keep s a h) (own s a h), hr⟩⟩

/-- Messages are sent one after another. -/
theorem foldl_send {β : Type} (f : β → OutMsg) (l : List β) (s : State) :
    l.foldl (fun s x => s.send (f x)) s = { s with outbox := s.outbox ++ l.map f } := by
  induction l generalizing s with
  | nil => simp
  | cons a r ih => exact (ih _).trans (by simp [State.send])

/-! ## What a record's post keeps (R401, R420) -/

/-- A record joins a queue: of the machine a context, a partition or the management queue changes, and what is scheduled. -/
theorem post_frame (s : State) (q : QSel) (b : Nat) : ∃ c p m a, s.post q b = { s with ctxs := c, parts := p, mgq := m, acts := a } := by
  simp only [State.post]
  split
  · cases q <;> exact ⟨_, _, _, _, rfl⟩
  · exact ⟨_, _, _, _, rfl⟩

@[simp] theorem post_stks (s : State) (q : QSel) (b : Nat) : (s.post q b).stks = s.stks := by
  obtain ⟨_, _, _, _, h⟩ := post_frame s q b; rw [h]
@[simp] theorem post_buses (s : State) (q : QSel) (b : Nat) : (s.post q b).buses = s.buses := by
  obtain ⟨_, _, _, _, h⟩ := post_frame s q b; rw [h]
@[simp] theorem post_defects (s : State) (q : QSel) (b : Nat) : (s.post q b).defects = s.defects := by
  obtain ⟨_, _, _, _, h⟩ := post_frame s q b; rw [h]
@[simp] theorem post_outbox (s : State) (q : QSel) (b : Nat) : (s.post q b).outbox = s.outbox := by
  obtain ⟨_, _, _, _, h⟩ := post_frame s q b; rw [h]
@[simp] theorem post_hostOps (s : State) (q : QSel) (b : Nat) : (s.post q b).hostOps = s.hostOps := by
  obtain ⟨_, _, _, _, h⟩ := post_frame s q b; rw [h]

end Sys2Proof.Machine
end

section
/-! SUPPORT. Bring-up (R412 steps 1 to 4): what it leaves unchanged, and what it does for each stack. -/

namespace Sys2Proof.Machine

/-! ## What bring-up leaves unchanged (R412) -/

/-- The machine without what a bring-up may touch: scheduled steps, the management queue, tiles, stacks, buses, defects and the
thermal state. Steps that keep this view leave every other field as it was. -/
def State.still (s : State) : State :=
  { s with acts := [], mgq := {}, tiles := [], stks := [], buses := [], defects := [], trip := false, throttled := false }

theorem foldl_still {β : Type} {f : State → β → State} (h : ∀ s a, (f s a).still = s.still) (l : List β) (s : State) :
    (l.foldl f s).still = s.still := by
  induction l generalizing s with
  | nil => rfl
  | cons a r ih => exact (ih _).trans (h s a)

theorem still_boot {s s' : State} (h : s'.still = s.still) : s'.boot = s.boot := congrArg (·.boot) h
theorem still_tick {s s' : State} (h : s'.still = s.still) : s'.tick = s.tick := congrArg (·.tick) h

/-- A record for the management queue joins it, and its writing is scheduled; nothing else changes. -/
theorem post_mg (s : State) (b : Nat) : ∃ m, s.post .mg b = { s with mgq := m, acts := s.acts ++ [.recordPost .mg] } := by
  simp [State.post, State.later, State.setQueue]

@[simp] theorem post_mg_still (s : State) (b : Nat) : (s.post .mg b).still = s.still := by
  obtain ⟨m, h⟩ := post_mg s b; rw [h]; rfl

/-! ## Buses as bring-up tests them (R412 step 2, R397) -/

/-- The SBT entry that a bus gets when it is tested at a step. -/
def testedSbt (n tick : Nat) : BitVec 32 := BitVec.ofNat 32 (sbtEntry (Config.busTest n tick))

theorem bootBus_buses (k : Nat) (s : State) (b : Nat) : (bootBus k s b).buses =
    tabSet s.buses (k * 128 + b) { sbt := testedSbt (k * 128 + b) s.tick, temp := (s.stack k).temp, since := 0 } := by
  simp only [bootBus]
  split
  · rfl
  · simp [testedSbt]
@[simp] theorem bootBus_stks (k : Nat) (s : State) (b : Nat) : (bootBus k s b).stks = s.stks := by
  simp only [bootBus]
  split <;> simp
@[simp] theorem bootBus_defects (k : Nat) (s : State) (b : Nat) : (bootBus k s b).defects = s.defects := by
  simp only [bootBus]
  split <;> simp
@[simp] theorem bootBus_still (k : Nat) (s : State) (b : Nat) : (bootBus k s b).still = s.still := by
  simp only [bootBus]
  split
  · rfl
  · exact post_mg_still _ _

/-- Bring-up has tested a stack's buses: each has its entry, tested at the stack's temperature. -/
theorem bootBuses_tested (k : Nat) (s : State) : ∀ b < 128,
    tabGet {} ((List.range 128).foldl (bootBus k) s).buses (k * 128 + b) =
      { sbt := testedSbt (k * 128 + b) s.tick, temp := (s.stack k).temp, since := 0 } := by
  have := foldl_establishes (f := bootBus k) (fun x => x.stks = s.stks ∧ x.still = s.still)
    (fun b x => tabGet {} x.buses (k * 128 + b) = { sbt := testedSbt (k * 128 + b) s.tick, temp := (s.stack k).temp, since := 0 })
    (fun x b hx => ⟨(bootBus_stks k x b).trans hx.1, (bootBus_still k x b).trans hx.2⟩)
    (fun x b hx => by simp [bootBus_buses, State.stack, hx.1, still_tick hx.2])
    (fun x a b hx hb => by
      by_cases h : b = a
      · simp [h, bootBus_buses, State.stack, hx.1, still_tick hx.2]
      · rw [bootBus_buses, tabGet_tabSet, if_neg (by omega), hb])
    (List.range 128) s ⟨rfl, rfl⟩
  exact fun b hb => this.2 b (List.mem_range.2 hb)

/-- The buses of the other stacks stand as they did. -/
theorem bootBuses_others (k : Nat) (s : State) {n : Nat} (h : ∀ b < 128, n ≠ k * 128 + b) :
    tabGet {} ((List.range 128).foldl (bootBus k) s).buses n = tabGet {} s.buses n := by
  refine List.foldlRecOn (List.range 128) (bootBus k) (motive := fun x => tabGet {} x.buses n = tabGet {} s.buses n) rfl ?_
  intro x hx b hb
  rw [bootBus_buses, tabGet_tabSet, if_neg (h b (List.mem_range.1 hb)), hx]

theorem bootBuses_stks (k : Nat) (s : State) : ((List.range 128).foldl (bootBus k) s).stks = s.stks :=
  List.foldlRecOn (List.range 128) (bootBus k) (motive := fun x => x.stks = s.stks) rfl
    fun x hx b _ => (bootBus_stks k x b).trans hx
theorem bootBuses_still (k : Nat) (s : State) : ((List.range 128).foldl (bootBus k) s).still = s.still :=
  foldl_still (bootBus_still k) _ s
theorem bootBuses_defects (k : Nat) (s : State) : ((List.range 128).foldl (bootBus k) s).defects = s.defects :=
  List.foldlRecOn (List.range 128) (bootBus k) (motive := fun x => x.defects = s.defects) rfl
    fun x hx b _ => (bootBus_defects k x b).trans hx

/-! ## A stack's temperature at bring-up (R398, R418) -/

/-- Halts touch the tiles and what is scheduled. -/
theorem dbgHaltAll_frame (l : List TileId) (s : State) : ∃ x a, l.foldl (fun s t => dbgHalt t s) s = { s with tiles := x, acts := a } := by
  induction l generalizing s with
  | nil => exact ⟨s.tiles, s.acts, rfl⟩
  | cons t r ih =>
    have one : ∃ x a, dbgHalt t s = { s with tiles := x, acts := a } := by
      simp only [dbgHalt]
      split
      · exact ⟨s.tiles, s.acts, rfl⟩
      · exact ⟨_, _, rfl⟩
    obtain ⟨x, a, h⟩ := one
    rw [List.foldl_cons, h]
    exact ih _

/-- The thermal stop halts tiles, and is remembered. -/
theorem tripAll_frame (s : State) : ∃ b x a, tripAll s = { s with trip := b, tiles := x, acts := a } := by
  unfold tripAll
  split
  · exact ⟨s.trip, s.tiles, s.acts, rfl⟩
  · exact ⟨true, dbgHaltAll_frame userTiles { s with trip := true }⟩

/-- No bus of a stack asks for a retest while each was tested at the stack's temperature. -/
theorem swingBuses_same {k : Nat} {s : State} (h : ∀ b < 128, (tabGet {} s.buses (k * 128 + b)).temp = (s.stack k).temp) :
    swingBuses k s = s := by
  refine List.foldlRecOn (List.range 128) (swingBus k) (motive := fun x => x = s) rfl ?_
  rintro x rfl b hb
  have hd : distance (x.stack k).temp (tabGet {} x.buses (k * 128 + b)).temp = 0 := by
    rw [h b (List.mem_range.1 hb)]; simp [distance]
  simp only [swingBus, hd, Nat.zero_le, decide_true, Bool.or_true, if_true]

/-- A change of the power status goes to the host of a running part only. -/
theorem powerChange_cold {s t : State} (h : t.boot ≠ .running) : powerChange s t = t := by
  simp [powerChange, toHost, h]

/-- Before firmware runs, a stack whose buses were tested at the temperature it is set to keeps its buses; of the stacks only that
temperature and its mark of heat change. -/
theorem setTemp_cold {k temp : Nat} {s : State} (hb : s.boot ≠ .running)
    (h : ∀ b < 128, (tabGet {} s.buses (k * 128 + b)).temp = temp) :
    (setTemp k temp s).buses = s.buses ∧ (setTemp k temp s).defects = s.defects ∧ (setTemp k temp s).still = s.still ∧
      ∀ j, ((setTemp k temp s).stack j).cyc = (s.stack j).cyc := by
  let c := checkLimit (s.setStack k { s.stack k with temp := temp }) k
  let t := if 105 ≤ temp then tripAll c else c
  have ht : t.stks = c.stks ∧ t.buses = c.buses ∧ t.defects = c.defects ∧ t.still = c.still := by
    simp only [t]; split
    · obtain ⟨b, x, a, h⟩ := tripAll_frame c
      rw [h]; exact ⟨rfl, rfl, rfl, rfl⟩
    · exact ⟨rfl, rfl, rfl, rfl⟩
  obtain ⟨hstks, hbuses, hdefects, hstill⟩ := ht
  have hc : ∀ j, (c.stack j).cyc = (s.stack j).cyc ∧ (j = k → (c.stack j).temp = temp) := by
    intro j
    have : c.stack j = if j = k then _ else _ := State.stack_setStack _ k j _
    by_cases e : j = k
    · subst e; simp [this]
    · simp [this, e, State.stack_setStack]
  have hsw : swingBuses k t = t := by
    refine swingBuses_same fun b hb => ?_
    rw [State.stack, hstks, hbuses]
    exact (h b hb).trans ((hc k).2 rfl).symm
  have e : setTemp k temp s = t := by
    have : setTemp k temp s = powerChange s (swingBuses k t) := rfl
    rw [this, hsw]
    exact powerChange_cold (by rw [still_boot hstill]; exact hb)
  rw [e]
  refine ⟨hbuses, hdefects, hstill, fun j => ?_⟩
  rw [State.stack, hstks]
  exact (hc j).1

/-! ## Bring-up of the stacks (R412 steps 1 to 4) -/

/-- What bring-up has done for a stack: its defects are read, and its buses tested at a step. -/
def StackUp (tick k : Nat) (s : State) : Prop :=
  tabGet 0 s.defects k = Config.fusedDefects k ∧ ∀ b < 128, (tabGet {} s.buses (k * 128 + b)).sbt = testedSbt (k * 128 + b) tick

/-- A machine on its way up: beyond the view that stands still, every cycle counter is at its start. -/
def ComingUp (s0 s : State) : Prop := s.still = s0.still ∧ ∀ j, (s.stack j).cyc = 0

/-- Bring-up of one stack: from a machine whose stack has been set up and its buses tested, the defects are read and the stack's
temperature is set. -/
theorem bootStack_tested (s : State) (k : Nat) : ∃ s2 : State,
    bootStack s k = setTemp k (s2.stack k).temp { s2 with defects := tabSet s2.defects k (Config.fusedDefects k) } ∧
    (∀ j, s2.stack j = if j = k then { temp := Config.dieTemp k s.tick } else s.stack j) ∧ s2.defects = s.defects ∧
    s2.still = s.still ∧
    (∀ b < 128, tabGet {} s2.buses (k * 128 + b) =
      { sbt := testedSbt (k * 128 + b) s.tick, temp := (s2.stack k).temp, since := 0 }) ∧
    ∀ n, (∀ b < 128, n ≠ k * 128 + b) → tabGet {} s2.buses n = tabGet {} s.buses n := by
  let s1 := s.setStack k { temp := Config.dieTemp k s.tick }
  have hstack : ∀ j, ((List.range 128).foldl (bootBus k) s1).stack j = s1.stack j := fun j => by
    rw [State.stack, bootBuses_stks]; rfl
  refine ⟨(List.range 128).foldl (bootBus k) s1, rfl, fun j => ?_, bootBuses_defects k s1, bootBuses_still k s1, fun b hb => ?_,
    fun n hn => bootBuses_others k s1 hn⟩
  · rw [hstack]; exact State.stack_setStack s k j _
  · rw [hstack]; exact bootBuses_tested k s1 b hb

/-- Bring-up of a stack leaves it up, and the others as they were. -/
theorem bootStack_up {s0 s : State} (k : Nat) (hb : s0.boot ≠ .running) (h : ComingUp s0 s) :
    ComingUp s0 (bootStack s k) ∧ StackUp s0.tick k (bootStack s k) ∧
      ∀ j, j ≠ k → StackUp s0.tick j s → StackUp s0.tick j (bootStack s k) := by
  obtain ⟨hstill, hcyc⟩ := h
  obtain ⟨s2, e, hstack, hdef, h2, htest, hothers⟩ := bootStack_tested s k
  obtain ⟨hbuses, hdefects, hs3, hc3⟩ := setTemp_cold (k := k) (s := { s2 with defects := tabSet s2.defects k (Config.fusedDefects k) })
    (temp := (s2.stack k).temp) (still_boot (h2.trans hstill) ▸ hb) (fun b hlt => congrArg (·.temp) (htest b hlt))
  rw [← e] at hbuses hdefects hs3 hc3
  refine ⟨⟨hs3.trans (h2.trans hstill), fun j => ?_⟩, ⟨?_, fun b hlt => ?_⟩, fun j hj ⟨hd, ht⟩ => ⟨?_, fun b hlt => ?_⟩⟩
  · rw [hc3]
    show (s2.stack j).cyc = 0
    rw [hstack]
    split
    · rfl
    · exact hcyc j
  · rw [hdefects]; exact tabGet_tabSet_self _ _ _ _
  · rw [hbuses]; exact (congrArg (·.sbt) (htest b hlt)).trans (by rw [still_tick hstill])
  · rw [hdefects, tabGet_tabSet, if_neg hj, hdef]; exact hd
  · rw [hbuses]; exact (congrArg (·.sbt) (hothers _ fun b' _ => by omega)).trans (ht b hlt)

theorem bootStacks_up {s0 : State} (hb : s0.boot ≠ .running) (hc : ∀ j, (s0.stack j).cyc = 0) (l : List Nat) :
    ComingUp s0 (l.foldl bootStack s0) ∧ ∀ k ∈ l, StackUp s0.tick k (l.foldl bootStack s0) :=
  foldl_establishes (ComingUp s0) (StackUp s0.tick) (fun _ k h => (bootStack_up k hb h).1) (fun _ k h => (bootStack_up k hb h).2.1)
    (fun _ k j h hj => by
      obtain ⟨-, hk, ho⟩ := bootStack_up k hb h
      by_cases e : j = k
      · subst e; exact hk
      · exact ho j e hj)
    l s0 ⟨rfl, hc⟩

theorem coldState_boot (s : State) (again : Bool) : (coldState s again).boot ≠ .running := by simp [coldState, State.reset]
theorem coldState_cyc (s : State) (again : Bool) (j : Nat) : ((coldState s again).stack j).cyc = 0 := rfl

/-- The boot sequencer takes a cold machine to the boot endpoint: outside the view that stands still only the boot state is new, the
cycle counters start, and every stack is up. -/
theorem bootUp_up (s : State) (again : Bool) : ∃ x : State, bootUp s again = { x with boot := .boot } ∧
    ComingUp (coldState s again) x ∧ ∀ k < 4, StackUp s.tick k x := by
  have h := bootStacks_up (coldState_boot s again) (coldState_cyc s again) (List.range 4)
  exact ⟨(List.range 4).foldl bootStack (coldState s again), rfl, h.1, fun k hk => h.2 k (List.mem_range.2 hk)⟩

theorem exec_powerUp (s : State) : exec .powerUp s = .next (bootUp s s.wasReset) := rfl
theorem exec_moduleReset (s : State) : exec .moduleReset s = .next (bootUp s true) := rfl
theorem exec_powerDown (s : State) : exec .powerDown s = .next (coldState s true) := rfl

/-- Bring-up clears the machine, and leaves every stack up at the boot endpoint; messages to the outside stay. -/
theorem bootUp_spec (s : State) (again : Bool) : let s2 := bootUp s again
    s2.boot = .boot ∧ s2.mem = [] ∧ s2.devid = 0 ∧ s2.insts = [] ∧
        s2.launches = [] ∧ s2.ctxs = [] ∧ s2.parts = [] ∧ s2.outbox = s.outbox ∧
        s2.wasReset = again ∧
        ∀ k < 4, (s2.stack k).cyc = 0 ∧ tabGet 0 s2.defects k = Config.fusedDefects k ∧
          ∀ b < 128, (tabGet {} s2.buses (k * 128 + b)).sbt = BitVec.ofNat 32 (sbtEntry (Config.busTest (k * 128 + b) s.tick)) := by
  obtain ⟨x, e, ⟨hstill, hcyc⟩, hup⟩ := bootUp_up s again
  rw [e]
  exact ⟨rfl, congrArg (·.mem) hstill, congrArg (·.devid) hstill, congrArg (·.insts) hstill, congrArg (·.launches) hstill,
    congrArg (·.ctxs) hstill, congrArg (·.parts) hstill, congrArg (·.outbox) hstill, congrArg (·.wasReset) hstill,
    fun k hk => ⟨hcyc k, hup k hk⟩⟩

end Sys2Proof.Machine
end

section
/-! SUPPORT. The firmware bundle, the device number and the attestation report (R413 to R415, R421). -/

namespace Sys2Proof.Machine

/-! ## The firmware bundle (R413, R414) -/

theorem exec_firmwareBundle (b : List Byte) (s : State) : exec (.firmwareBundle b) s = .next (firmwareBundle b s) := rfl

/-- Before or after its time a bundle is refused at the transport. -/
theorem firmwareBundle_untimely {s : State} (h : s.boot ≠ .boot) (b : List Byte) : firmwareBundle b s = s.send (.host noCtx 1 []) := by
  simp [firmwareBundle, h]
theorem firmwareBundle_busy {s : State} (h : s.boot = .boot) (hb : s.bundle ≠ none) (b : List Byte) :
    firmwareBundle b s = s.send (.host noCtx 5 (bytesOf 16 busyCheck)) := by
  simp [firmwareBundle, h, Option.isSome_iff_ne_none.2 hb]
theorem firmwareBundle_begins {s : State} (h : s.boot = .boot) (hb : s.bundle = none) (b : List Byte) :
    firmwareBundle b s = State.later { s with bundle := some b } .bundleCheck := by
  simp [firmwareBundle, h, hb]

/-- A bundle that is being checked leaves an idle machine as it was. -/
theorem discard_bundle {s : State} (hb : s.bundle = none) : { s with bundle := none } = s := by
  cases s; cases hb; rfl

/-- A check that starts from an idle machine ends with the bundle refused, or taken. -/
theorem bundleCheck_refused {s : State} (hb : s.bundle = none) {b : List Byte} {n : Nat} (h : checkBundle s b = .error n) :
    bundleCheck { s with bundle := some b } = s.send (.host noCtx 5 (bytesOf 16 n)) := by
  simp only [bundleCheck, discard_bundle hb, h]
theorem bundleCheck_taken {s : State} (hb : s.bundle = none) {b : List Byte} {l : List Resident} {r : List (List Nat)}
    (h : checkBundle s b = .ok (l, r)) : bundleCheck { s with bundle := some b } = acceptBundle s b l r := by
  simp only [bundleCheck, discard_bundle hb, h]

/-- The first check: the magic number, the length, and the sections within it. -/
theorem checkBundle_malformed (s : State) {b : List Byte} (h : leField b 0 4 ≠ 0x57465742 ∨ b.length < bundleLen b) :
    checkBundle s b = .error 1 := by
  unfold checkBundle
  rw [if_pos]
  rcases h with h | h
  · simp [h]
  · simp [Nat.not_le.2 h]

/-- A bundle that is taken has the fused key's digest and a version that is not below the fused minimum. -/
theorem checkBundle_ok {s : State} {b : List Byte} {q : List Resident × List (List Nat)} (h : checkBundle s b = .ok q) :
    sha512 ((b.drop 0x50).take 516) = Config.fusedDigest ∧ Config.fwMin ≤ leField b 4 4 := by
  unfold checkBundle at h
  dsimp only at h
  split at h
  · cases h
  · split at h
    · cases h
    · rename_i hd
      split at h
      · cases h
      · split at h
        · cases h
        · rename_i hv
          exact ⟨not_not.1 hd, Nat.not_lt.1 hv⟩

/-- What loading a resident graph keeps. -/
def State.Loads (s s' : State) : Prop := s'.mem = s.mem ∧ s'.mgq = s.mgq ∧ s'.fwver = s.fwver ∧ s'.bundleHash = s.bundleHash

theorem foldl_loads {β : Type} {f : State → β → State} (h : ∀ s a, State.Loads s (f s a)) (l : List β) (s : State) :
    s.Loads (l.foldl f s) := by
  induction l generalizing s with
  | nil => exact ⟨rfl, rfl, rfl, rfl⟩
  | cons a r ih =>
    obtain ⟨h1, h2, h3, h4⟩ := h s a
    obtain ⟨i1, i2, i3, i4⟩ := ih (f s a)
    exact ⟨i1.trans h1, i2.trans h2, i3.trans h3, i4.trans h4⟩

theorem cacheInsert_cache (s : State) (k : Nat) (c : PlacedCfg) : ∃ t, cacheInsert s k c = { s with cache := t } := by
  unfold cacheInsert
  dsimp only
  split
  · exact ⟨s.cache, rfl⟩
  · split
    · exact ⟨_, rfl⟩
    · split
      · exact ⟨s.cache, rfl⟩
      · exact ⟨_, rfl⟩

theorem loadResident_loads (k : Nat) (s : State) (q : Resident × Nat × Nat) : s.Loads (loadResident k s q) := by
  obtain ⟨⟨img, h, tiles⟩, y, n⟩ := q
  obtain ⟨t, e⟩ := cacheInsert_cache s.fresh.2 k
    { key := cfgKey s.fresh.2 k img 1 h, hash := (sha512 img).take 32, w := 1, h := h, tiles := tiles, loaded := 0 }
  simp only [loadResident, e]
  exact ⟨rfl, rfl, rfl, rfl⟩

theorem loadStack_loads (l : List Resident) (s : State) (p : List Nat × Nat) : s.Loads (loadStack l s p) :=
  foldl_loads (loadResident_loads p.2) _ s

/-- Steps 6 and 7 of bring-up: the machine runs with the bundle's version, and the records of bring-up have gone to the host. -/
theorem acceptBundle_spec (s : State) (b : List Byte) (l : List Resident) (r : List (List Nat)) : let s2 := acceptBundle s b l r
    s2.boot = .running ∧ s2.fwver = BitVec.ofNat 32 (leField b 4 4) ∧ s2.bundleHash = sha512 (b.take (bundleLen b)) ∧ s2.mem = s.mem ∧
      ∀ x ∈ s.mgq.ring, .mgmt x ∈ s2.outbox := by
  obtain ⟨hm, hq, hv, hh⟩ := foldl_loads (loadStack_loads l) r.zipIdx
    { s with fwver := BitVec.ofNat 32 (leField b 4 4), bundleHash := sha512 (b.take (bundleLen b)) }
  unfold acceptBundle
  dsimp only
  rw [foldl_send]
  refine ⟨rfl, hv, hh, hm, fun x hx => List.mem_append_right _ (List.mem_map_of_mem ?_)⟩
  rw [hq]; exact hx

/-! ## Identity (R415, R421) -/

theorem exec_attestationRequest (nonce : BitVec 256) (s : State) : exec (.attestationRequest nonce) s = .next (attestation nonce s) := rfl
theorem exec_devid (v : Word) (s : State) : exec (.devid v) s = .next (writeDevid v s) := rfl

theorem reportHead_length (s : State) (nonce : BitVec 256) : (reportHead s nonce).length = 512 := by
  simp only [reportHead, List.length_append, bytesOf_length, padTo_length, sha512_length, List.length_replicate]

/-- The report: the head with its fields, the signature, the identity key (R415). -/
theorem report_fields (s : State) (nonce : BitVec 256) (sig key : List Byte) (hs : sig.length = 512) : let r := reportHead s nonce ++ sig ++ key
    leField r 0 4 = 0x41545452 ∧ leField r 4 4 = s.fwver.toNat ∧ leField r 8 8 = Config.serial.toNat ∧ leField r 0x94 32 = nonce.toNat ∧
      r.length = 1024 + key.length := by
  refine ⟨?_, ?_, ?_, ?_, ?_⟩
  · simp only [reportHead, List.append_assoc]
    rw [leField_first _ (bytesOf_length _ _), wordOfBytes_bytesOf_of_lt (by decide)]
  · simp only [reportHead, List.append_assoc]
    rw [leField_part _ (bytesOf_length _ _) (bytesOf_length _ _), wordOfBytes_bytesOf_of_lt s.fwver.isLt]
  · simp only [reportHead, List.append_assoc]
    rw [← List.append_assoc (bytesOf 4 _), leField_part _ (by simp) (bytesOf_length _ _), wordOfBytes_bytesOf_of_lt Config.serial.isLt]
  · obtain ⟨c, e⟩ : ∃ c, reportHead s nonce ++ sig ++ key =
        (bytesOf 4 0x41545452 ++ bytesOf 4 s.fwver.toNat ++ bytesOf 8 Config.serial.toNat ++ padTo 64 s.bundleHash ++
          padTo 64 Config.fusedDigest ++ bytesOf 4 Config.fwMin) ++ (bytesOf 32 nonce.toNat ++ c) :=
      ⟨_, by simp only [reportHead, List.append_assoc]; rfl⟩
    rw [e, leField_part _ (by simp) (bytesOf_length _ _), wordOfBytes_bytesOf_of_lt nonce.isLt]
  · simp [reportHead_length, hs]; omega

theorem attestation_running {s : State} (h : s.boot = .running) (nonce : BitVec 256) :
    attestation nonce s = s.send (.mgmt (reportHead s nonce ++ padTo 512 (Config.sign (reportHead s nonce)) ++ Config.identityKey)) := by
  simp [attestation, h]
theorem attestation_cold {s : State} (h : s.boot ≠ .running) (nonce : BitVec 256) : attestation nonce s = s.send (.host noCtx 1 []) := by
  simp [attestation, h]

/-- A device number with its valid bit (R421). -/
theorem devid_value (v : Word) : BitVec.ofNat 13 (2 ^ 12 + v.toNat % 2 ^ 12) = 0x1000#13 ||| (v.extractLsb' 0 12).setWidth 13 := by
  apply BitVec.eq_of_toNat_eq
  have hlt : v.toNat % 2 ^ 12 < 2 ^ 12 := Nat.mod_lt _ (by decide)
  have hsum : (2 ^ 12 + v.toNat % 2 ^ 12) % 2 ^ 13 = 2 ^ 12 ||| v.toNat % 2 ^ 12 := by
    rw [Nat.mod_eq_of_lt (by omega)]
    exact Nat.two_pow_add_eq_or_of_lt hlt 1
  rw [BitVec.toNat_ofNat, hsum, BitVec.toNat_or, BitVec.toNat_setWidth_of_le (by decide)]
  simp

theorem writeDevid_first {s : State} (h : s.boot = .running) (hd : s.devid.getLsbD 12 = false) (v : Word) :
    writeDevid v s = { s with devid := 0x1000#13 ||| (v.extractLsb' 0 12).setWidth 13 } := by
  simp only [writeDevid, setDevid, h, hd, devid_value, ne_eq, not_true_eq_false, if_false, Bool.false_eq_true]
theorem writeDevid_again {s : State} (h : s.boot = .running) (hd : s.devid.getLsbD 12 = true) (v : Word) : writeDevid v s = s := by
  simp [writeDevid, setDevid, h, hd]
theorem writeDevid_cold {s : State} (h : s.boot ≠ .running) (v : Word) : writeDevid v s = s.send (.host noCtx 1 []) := by
  simp [writeDevid, h]

end Sys2Proof.Machine
end

section
/-! SUPPORT. The host's memory operations (R297, R331, R416). -/

namespace Sys2Proof.Machine

/-! ## Writes at a home -/

@[simp] theorem writeMasked_hostOps (s : State) (line data mask : Nat) : (writeMasked s line data mask).hostOps = s.hostOps := by
  unfold writeMasked
  split
  · rfl
  · split
    · exact post_hostOps _ _ _
    · rfl
@[simp] theorem homeWrite_hostOps (s : State) (k : Nat) (b : List Byte) : (homeWrite s k b).hostOps = s.hostOps :=
  writeMasked_hostOps _ _ _ _

/-- A written line of a bus that works. -/
theorem writeMasked_mem_ok {s : State} {line mask : Nat} (data : Nat) (hm : mask ≠ 0) (hb : busFailed s line = false) :
    (writeMasked s line data mask).mem = maskPut s.mem line data mask 128 := by
  simp [writeMasked, hm, hb]

/-- Bytes written within one line of a bus that works stand there; every other byte stands as it did. -/
theorem homeWrite_byte {s : State} {k : Nat} {b : List Byte} (hw : Memory.wf s.mem = true) (hb : busFailed s (k / 128 * 128) = false)
    (h0 : 0 < b.length) (hn : k % 128 + b.length ≤ 128) (a : Nat) :
    (homeWrite s k b).byte a = if k ≤ a ∧ a < k + b.length then b.getD (a - k) 0 else s.byte a := by
  have hline : k - k % 128 = k / 128 * 128 := by omega
  have hmask : (2 ^ b.length - 1) * 2 ^ (k % 128) ≠ 0 :=
    Nat.mul_ne_zero (Nat.sub_ne_zero_of_lt (Nat.one_lt_two_pow h0.ne')) (Nat.two_pow_pos _).ne'
  have hbit : ∀ i, ((2 ^ b.length - 1) * 2 ^ (k % 128)).testBit i = (decide (k % 128 ≤ i) && decide (i - k % 128 < b.length)) := fun i => by
    rw [Nat.mul_comm, Nat.testBit_two_pow_mul, Nat.testBit_two_pow_sub_one]
  unfold State.byte homeWrite
  dsimp only
  rw [hline, writeMasked_mem_ok _ hmask hb, maskPut_get hw, hbit]
  by_cases h : k ≤ a ∧ a < k + b.length
  · have e : 8 * (a - k / 128 * 128) = 8 * (k % 128) + 8 * (a - k) := by omega
    rw [if_pos h, if_pos (by simp; omega), e, Nat.pow_add, Nat.mul_comm (wordOfBytes b),
      Nat.mul_div_mul_left _ _ (Nat.two_pow_pos _), byte_wordOfBytes]
  · rw [if_neg h, if_neg (by simp; omega)]

/-! ## What the use of a page leaves unchanged (R339) -/

@[simp] theorem dlogAppend_hostOps (s : State) (stk ctx gpa : Nat) : (dlogAppend s stk ctx gpa).hostOps = s.hostOps := by
  unfold dlogAppend
  dsimp only
  split
  · rfl
  · split
    · exact State.setPart_hostOps _ _ _
    · rw [State.setPart_hostOps, homeWrite_hostOps]

theorem noteUse_hostOps (s : State) (p : XPage) : (noteUse s p).hostOps = s.hostOps := by
  unfold noteUse
  split
  · rfl
  · dsimp only
    split
    · exact State.setStack_hostOps _ _ _
    · rw [dlogAppend_hostOps, homeWrite_hostOps, State.setStack_hostOps]

/-- Without a leaf to mark, only the stack's kept translations change. -/
theorem noteUse_leafless {p : XPage} (h : p.leaf = none) (s : State) : ∃ t, noteUse s p = { s with stks := t } := by
  unfold noteUse
  split
  · exact ⟨s.stks, rfl⟩
  · rw [h]; exact ⟨_, rfl⟩

theorem enterRegs_hostOps (s : State) (l : List (Nat × Reg)) (uses : List XPage) : (enterRegs s l uses).hostOps = s.hostOps := by
  have hu : (uses.foldl noteUse s).hostOps = s.hostOps :=
    List.foldlRecOn uses noteUse (motive := fun (x : State) => x.hostOps = s.hostOps) rfl fun x hx p _ => (noteUse_hostOps x p).trans hx
  unfold enterRegs
  dsimp only
  rw [State.laterAll_hostOps]
  exact List.foldlRecOn l _ (motive := fun (x : State) => x.hostOps = s.hostOps) hu fun x hx _ _ => hx

/-! ## Host operations (R297) -/

theorem releaseAway_frame (s : State) (l : List AwayReg) : ∃ o, releaseAway s l = { s with outbox := o } :=
  ⟨_, foldl_send releaseMsg l s⟩
theorem dropRanges_frame (s : State) (l : List (Nat × Nat)) : ∃ t, dropRanges s l = { s with stks := t } := by
  unfold dropRanges
  refine List.foldlRecOn l _ (motive := fun (x : State) => ∃ t, x = { s with stks := t }) ⟨s.stks, rfl⟩ ?_
  rintro x ⟨t, rfl⟩ p -
  exact ⟨_, rfl⟩

/-- An operation that leaves is no more in the list; memory stands as it did. -/
theorem endHostOp_keeps (s : State) (h : HostOp) : (endHostOp s h).mem = s.mem ∧
    (endHostOp s h).hostOps = s.hostOps.filter (fun x => x.op != h.op) := by
  unfold endHostOp
  dsimp only
  generalize h.away ++ _ = l
  obtain ⟨o, ho⟩ := releaseAway_frame s l
  rw [ho]
  obtain ⟨t, ht⟩ := dropRanges_frame { s with outbox := o } h.regs
  rw [ht]
  exact ⟨rfl, rfl⟩

/-- The operation found by a number that no earlier one has. -/
theorem hostOp?_last {s : State} {l : List HostOp} {h : HostOp} (hs : s.hostOps = l ++ [h]) (hl : ∀ x ∈ l, x.op ≠ h.op) :
    s.hostOp? h.op = some h := by
  have : l.find? (fun x => x.op == h.op) = none := List.find?_eq_none.2 (by simpa using hl)
  simp [State.hostOp?, hs, List.find?_append, this]
theorem hostOps_drop_last {l : List HostOp} {h : HostOp} (hl : ∀ x ∈ l, x.op ≠ h.op) : (l ++ [h]).filter (fun x => x.op != h.op) = l := by
  rw [List.filter_append, List.filter_eq_self.2 (by simpa using hl)]
  simp
theorem hostOps_set_last {l : List HostOp} {h h' : HostOp} (hl : ∀ x ∈ l, x.op ≠ h'.op) (he : h.op = h'.op) :
    (l ++ [h]).map (fun x => if x.op = h'.op then h' else x) = l ++ [h'] := by
  have : l.map (fun x => if x.op = h'.op then h' else x) = l :=
    (List.map_congr_left fun x hx => if_neg (hl x hx)).trans (List.map_id' l)
  simp [this, he]

/-- An operation with nothing outstanding completes with what it read. -/
theorem hostSettle_done {s : State} {op : Nat} {h : HostOp} (hf : s.hostOp? op = some h) (ho : h.out = []) :
    hostSettle s op = (endHostOp s h).send (.host h.ctx 3 (if h.w then [] else h.bytes)) := by
  simp [hostSettle, hf, ho]

theorem hostLines_one {s s' : State} {op va n : Nat} {h : HostOp} (hf : s.hostOp? op = some h) (hl : hostLine s h va n = .ok s') :
    hostLines op [(va, n)] s = hostSettle s' op := by
  simp [hostLines, hf, hl]

theorem HostOp.parts_one {h : HostOp} (h0 : 0 < h.n) (hn : h.va % 128 + h.n ≤ 128) : h.parts = [(h.va, h.n)] := by
  have e : Nat.min h.n (128 - h.va % 128) = h.n := Nat.min_eq_left (by omega)
  simp [HostOp.parts, lineParts, h0.ne', e]

theorem hostLine_write {s : State} {h : HostOp} {va n : Nat} {p : XPage} (hl : locate s (h.access va) = .ok (.here p)) (hw : h.w = true) :
    hostLine s h va n = .ok (homeWrite (noteUse s p) p.key ((h.data.drop (va - h.va)).take n)) := by
  simp [hostLine, hl, hw]
theorem hostLine_read {s : State} {h : HostOp} {va n : Nat} {p : XPage} (hl : locate s (h.access va) = .ok (.here p)) (hw : h.w = false)
    (hs : lineSound s p.key = .ok ()) : hostLine s h va n = .ok ((noteUse s p).setHostOp
      { h with lines := h.lines ++ [(va / 128, BitVec.ofNat 1024 (memNat s.mem (p.key / 128 * 128) 128))] }) := by
  simp [hostLine, hl, hw, hs]

/-- The bytes of a line kept as a word. -/
theorem bytesOf_line (m : List Host.Cell) (k : Nat) : bytesOf 128 (BitVec.ofNat 1024 (memNat m k 128)).toNat = memBytes m k 128 := by
  rw [memNat, toNat_ofNat_wordOfBytes (by rw [memBytes_length])]
  simpa using bytesOf_wordOfBytes (memBytes m k 128)

/-- What an operation of one line has read. -/
theorem HostOp.bytes_one {h : HostOp} {m : List Host.Cell} {key : Nat} (h0 : 0 < h.n) (hn : h.va % 128 + h.n ≤ 128)
    (hk : key % 128 = h.va % 128) (hl : h.lines = [(h.va / 128, BitVec.ofNat 1024 (memNat m (key / 128 * 128) 128))]) :
    h.bytes = (List.range h.n).map (fun i => tabGet 0 m (key + i)) := by
  have hkey : key / 128 * 128 + h.va % 128 = key := by omega
  simp only [HostOp.bytes, HostOp.parts_one h0 hn, hl, List.flatMap_cons, List.flatMap_nil, List.append_nil, List.find?_cons, beq_self_eq_true,
    bytesOf_line, memBytes_part m _ hn, hkey]

/-- A write of one line by the last operation listed: its bytes stand at their home, and the operation completes. -/
theorem hostLines_write {s : State} {l : List HostOp} {h : HostOp} {p : XPage} (hops : s.hostOps = l ++ [h]) (hid : ∀ x ∈ l, x.op ≠ h.op)
    (h0 : 0 < h.n) (hn : h.va % 128 + h.n ≤ 128) (hw : h.w = true) (hd : h.data.length = h.n) (ho : h.out = [])
    (hl : locate s (h.access h.va) = .ok (.here p)) (hp : p.leaf = none) (hk : p.key % 128 = h.va % 128)
    (hb : busFailed s (p.key / 128 * 128) = false) (hm : Memory.wf s.mem = true) : let s2 := hostLines h.op h.parts s
    .host h.ctx 3 [] ∈ s2.outbox ∧ s2.hostOps = l ∧
      ∀ a, s2.byte a = if p.key ≤ a ∧ a < p.key + h.n then h.data.getD (a - p.key) 0 else s.byte a := by
  obtain ⟨t, ht⟩ := noteUse_leafless hp s
  let s' := homeWrite { s with stks := t } p.key h.data
  have hwrite : hostLine s h h.va h.n = .ok s' := by simp [hostLine_write hl hw, ht, ← hd, s']
  have hops' : s'.hostOps = l ++ [h] := (homeWrite_hostOps _ _ _).trans hops
  obtain ⟨emem, eops⟩ := endHostOp_keeps s' h
  rw [HostOp.parts_one h0 hn, hostLines_one (hostOp?_last hops hid) hwrite, hostSettle_done (hostOp?_last hops' hid) ho]
  refine ⟨by simp [State.send, hw], ?_, fun a => ?_⟩
  · rw [State.send_hostOps, eops, hops', hostOps_drop_last hid]
  · rw [State.byte, State.send_mem, emem, ← hd]
    exact homeWrite_byte (s := { s with stks := t }) hm hb (by omega) (by omega) a

/-- A read of one line by the last operation listed: the completion carries its bytes. -/
theorem hostLines_read {s : State} {l : List HostOp} {h : HostOp} {p : XPage} (hops : s.hostOps = l ++ [h]) (hid : ∀ x ∈ l, x.op ≠ h.op)
    (h0 : 0 < h.n) (hn : h.va % 128 + h.n ≤ 128) (hw : h.w = false) (ho : h.out = []) (hlines : h.lines = [])
    (hl : locate s (h.access h.va) = .ok (.here p)) (hp : p.leaf = none) (hk : p.key % 128 = h.va % 128)
    (hsound : lineSound s p.key = .ok ()) : let s2 := hostLines h.op h.parts s
    s2.mem = s.mem ∧ s2.hostOps = l ∧ .host h.ctx 3 ((List.range h.n).map (fun i => s.byte (p.key + i))) ∈ s2.outbox := by
  obtain ⟨t, ht⟩ := noteUse_leafless hp s
  let g : HostOp := { h with lines := [(h.va / 128, BitVec.ofNat 1024 (memNat s.mem (p.key / 128 * 128) 128))] }
  let s' := State.setHostOp { s with stks := t } g
  have hread : hostLine s h h.va h.n = .ok s' := by rw [hostLine_read hl hw hsound, ht, hlines]; rfl
  have hops' : s'.hostOps = l ++ [g] := (congrArg _ hops).trans (hostOps_set_last hid rfl)
  obtain ⟨emem, eops⟩ := endHostOp_keeps s' g
  rw [HostOp.parts_one h0 hn, hostLines_one (hostOp?_last hops hid) hread, hostSettle_done (hostOp?_last (h := g) hops' hid) ho]
  refine ⟨emem, ?_, ?_⟩
  · rw [State.send_hostOps, eops, hops', hostOps_drop_last (h := g) hid]
  · rw [if_neg (by simp [g, hw]), HostOp.bytes_one (h := g) h0 hn hk rfl]
    exact List.mem_append_right _ (List.mem_singleton.2 rfl)

/-! ## The host port (R297, R331, R416) -/

theorem exec_hostRmaWrite (ctx : Nat) (va : Word) (b : List Byte) (s : State) :
    exec (.hostRmaWrite ctx va b) s = .next (hostRma true ctx va.toNat b b.length s) := rfl
theorem exec_hostRmaRead (ctx : Nat) (va : Word) (n : Nat) (s : State) :
    exec (.hostRmaRead ctx va n) s = .next (hostRma false ctx va.toNat [] n s) := rfl
theorem exec_hostUnsupported (kind : Nat) (s : State) :
    exec (.hostUnsupported kind) s = .next (s.send (.host noCtx (if s.boot = .running then 4 else 1) [])) := rfl

section
variable {s : State} {w : Bool} {ctx va n : Nat} {data : List Byte}

theorem hostRma_closed (h : endpointOpen s ctx = false) : hostRma w ctx va data n s = s.send (.host ctx 1 []) := by
  simp [hostRma, h]
theorem hostRma_empty (h : endpointOpen s ctx = true) : hostRma w ctx va data 0 s = s.send (.host ctx 3 []) := by
  simp [hostRma, h]

/-- An operation refused for its owner: a record of its context's event queue, and an error completion. -/
theorem hostRefused_owner (s : State) (ctx : Nat) (a : Access) :
    ∃ b, hostRefused s ctx (ownerFault s a) = (s.post (.ev ctx) b).send (.host ctx 4 []) := ⟨_, rfl⟩

/-- LOWN 63 has no meaning for the host: a record of the fault, and an error completion. -/
theorem hostRma_lown (h : endpointOpen s ctx = true) (h0 : 0 < n) (hl : va / 2 ^ 50 % 64 = 63) :
    (hostRma w ctx va data n s).mem = s.mem ∧ (hostRma w ctx va data n s).outbox = s.outbox ++ [.host ctx 4 []] := by
  have e : hostRma w ctx va data n s = hostRefused { s with nextId := s.nextId + 2 } ctx
      (ownerFault { s with nextId := s.nextId + 2 } { stk := 0, ctx := ctx, inst := none, kind := .host, write := w, va := va }) := by
    simp only [hostRma, h, h0.ne', hl, if_true, if_false, Bool.not_true, Bool.false_eq_true]
    rfl
  obtain ⟨b, hb⟩ := hostRefused_owner { s with nextId := s.nextId + 2 } ctx
    { stk := 0, ctx := ctx, inst := none, kind := .host, write := w, va := va }
  rw [e, hb]
  exact ⟨post_mem _ _ b, congrArg (· ++ _) (post_outbox _ _ b)⟩

/-- The operation that HOST_RMA_WRITE and HOST_RMA_READ make, before its range is registered. -/
def newHostOp (s : State) (w : Bool) (ctx va : Nat) (data : List Byte) (n : Nat) : HostOp :=
  { op := s.nextId, ctx := ctx, w := w, va := va, data := data, n := n, regs := [] }

/-- The machine with an operation's range registered, as the only range of the operation. -/
def hostRegistered (s : State) (h : HostOp) (k : Nat) (r : Reg) (uses : List XPage) : State :=
  { enterRegs { s with nextId := s.nextId + 2 } [(k, r)] uses with
    hostOps := s.hostOps ++ [{ h with regs := [(k, s.nextId + 1)] }] }

/-- A range that is free and fits is registered at once, and its lines are performed. -/
theorem hostRma_granted {k : Nat} {r : Reg} {uses : List XPage} (h : endpointOpen s ctx = true) (h0 : 0 < n) (hl : va / 2 ^ 50 % 64 ≠ 63)
    (hc : claim { s with nextId := s.nextId + 2 } ((newHostOp s w ctx va data n).access va) (.host ctx) true (s.nextId + 1)
      [{ base := va, rowb := n, pitch := 0, rows := 1 }] (engineInfo 4 va) = .ok (.here k r uses))
    (hf : firstConflict { s with nextId := s.nextId + 2 } k r = none) (hr : regsFit { s with nextId := s.nextId + 2 } [(k, r)] = true) :
    hostRma w ctx va data n s =
      hostLines s.nextId (newHostOp s w ctx va data n).parts (hostRegistered s (newHostOp s w ctx va data n) k r uses) := by
  have hops := enterRegs_hostOps { s with nextId := s.nextId + 2 } [(k, r)] uses
  simp only [newHostOp] at hc
  simp only [hostRma, State.fresh, h, h0.ne', hl, hc, hf, hr, hops, if_true, if_false, Bool.not_true, Bool.false_eq_true]
  rfl

end

end Sys2Proof.Machine
end

section
/-! Bring-up, identity and the host's operations: O59. -/

namespace Sys2Proof.Machine

/-- LOWN of an address, as a field of the word (R331). -/
theorem lown_eq_iff (va : Word) : va.extractLsb' 50 6 = 63#6 ↔ va.toNat / 2 ^ 50 % 64 = 63 := by
  rw [← BitVec.toNat_inj, BitVec.extractLsb'_toNat, Nat.shiftRight_eq_div_pow]
  rfl

/-- Settles O59: bring-up by what it leaves still and does for each stack, the bundle by the outcome of its check, the host's operations
by the single line that they touch. -/
theorem bringUpIdentityAndHostOperations : Obligations.BringUpIdentityAndHostOperations := by
  unfold Obligations.BringUpIdentityAndHostOperations
  refine ⟨fun s => ⟨?_, ?_, ?_, ?_, ?_, ?_, ?_, ?_⟩, fun s ctx va b n => ⟨?_, ?_, ?_, ?_, ?_⟩⟩
  · intro i hi
    obtain rfl | rfl : i = .powerUp ∨ i = .moduleReset := by simpa using hi
    · exact ⟨_, exec_powerUp s, by simpa using bootUp_spec s s.wasReset⟩
    · exact ⟨_, exec_moduleReset s, by simpa using bootUp_spec s true⟩
  · exact ⟨_, exec_powerDown s, rfl, rfl, rfl, rfl, rfl, rfl, rfl⟩
  · intro b h
    rw [exec_firmwareBundle, firmwareBundle_untimely h]; rfl
  · refine fun b h => ⟨fun hb => ⟨_, exec_firmwareBundle b s, ?_⟩, fun hb => ?_⟩
    · rw [firmwareBundle_begins h hb]
      exact ⟨rfl, by simp [State.later], rfl⟩
    · rw [exec_firmwareBundle, firmwareBundle_busy h hb]; rfl
  · refine fun b _ hb => ⟨fun h => bundleCheck_refused hb (checkBundle_malformed s h), ?_⟩
    split
    case h_1 n hc => exact bundleCheck_refused hb hc
    case h_2 q hc =>
      obtain ⟨hdigest, hmin⟩ := checkBundle_ok hc
      obtain ⟨hboot, hver, hhash, hmem, hring⟩ := acceptBundle_spec s b q.1 q.2
      rw [bundleCheck_taken hb hc]
      exact ⟨hboot, hver, hmin, hdigest, hhash, hmem, hring⟩
  · intro nonce h
    refine ⟨_, by rw [exec_attestationRequest, attestation_running h]; rfl, ?_⟩
    exact report_fields s nonce _ _ (padTo_length _ _)
  · refine fun v h => ⟨fun hd => ?_, fun hd => ?_⟩
    · rw [exec_devid, writeDevid_first h hd]
    · rw [exec_devid, writeDevid_again h hd]
  · intro nonce v h i hi
    obtain rfl | rfl : i = .attestationRequest nonce ∨ i = .devid v := by simpa using hi
    · rw [exec_attestationRequest, attestation_cold h]; rfl
    · rw [exec_devid, writeDevid_cold h]; rfl
  · exact fun kind => exec_hostUnsupported kind s
  · intro h i hi
    obtain rfl | rfl : i = .hostRmaWrite ctx va b ∨ i = .hostRmaRead ctx va n := by simpa using hi
    · rw [exec_hostRmaWrite, hostRma_closed h]; rfl
    · rw [exec_hostRmaRead, hostRma_closed h]; rfl
  · intro h i hi
    obtain rfl | rfl : i = .hostRmaWrite ctx va [] ∨ i = .hostRmaRead ctx va 0 := by simpa using hi
    · rw [exec_hostRmaWrite, List.length_nil, hostRma_empty h]; rfl
    · rw [exec_hostRmaRead, hostRma_empty h]; rfl
  · intro h hl hb hn i hi
    obtain rfl | rfl : i = .hostRmaWrite ctx va b ∨ i = .hostRmaRead ctx va n := by simpa using hi
    · exact ⟨_, exec_hostRmaWrite ctx va b s, hostRma_lown h (List.length_pos_iff.2 hb) ((lown_eq_iff va).1 hl)⟩
    · exact ⟨_, exec_hostRmaRead ctx va n s, hostRma_lown h (Nat.pos_of_ne_zero hn) ((lown_eq_iff va).1 hl)⟩
  · intro w k r uses p h hl len op s0 h0 hn hid _ hc hf hr s1 hp hleaf hk hb hm
    have hrun : hostRma w ctx va.toNat op.data len s = hostLines op.op op.parts s1 :=
      hostRma_granted h h0 (fun e => hl ((lown_eq_iff va).2 e)) hc hf hr
    refine ⟨?_, ?_⟩
    · rintro rfl
      obtain ⟨hout, hops, hbyte⟩ := hostLines_write (h := { op with regs := [(k, s.nextId + 1)] }) (s := s1) rfl hid h0 hn rfl rfl rfl
        hp hleaf hk hb hm
      replace hbyte : ∀ a, (hostLines op.op op.parts s1).byte a =
        if p.key ≤ a ∧ a < p.key + len then b.getD (a - p.key) 0 else s1.byte a := hbyte
      refine ⟨_, (exec_hostRmaWrite ctx va b s).trans (congrArg _ hrun), hout, hops, fun i hi => ?_, fun a ha => ?_⟩
      · rw [hbyte, if_pos (by omega), Nat.add_sub_cancel_left]
      · rw [hbyte, if_neg (by omega)]
    · rintro rfl hsound
      obtain ⟨hmem, hops, hout⟩ := hostLines_read (h := { op with regs := [(k, s.nextId + 1)] }) (s := s1) rfl hid h0 hn rfl rfl rfl
        hp hleaf hk hsound
      exact ⟨_, (exec_hostRmaRead ctx va n s).trans (congrArg _ hrun), hmem, hops, hout⟩

end Sys2Proof.Machine
end

section
/-! SUPPORT. Tables with entries taken out, digits of a sum, and the four ends of a word that issues. -/

namespace Sys2Proof

/-! ## Tables -/

/-- A read of a table out of which entries have been taken by their keys. -/
theorem tabGet_filter {α : Type} {n : Nat} (d : α) (t : Tab α) (p : Nat → Bool) (k : Nat) (h : tabAbove n t = true) :
    tabGet d (t.filter (fun q => p q.1)) k = if p k then tabGet d t k else d := by
  induction t generalizing n with
  | nil => simp
  | cons q r ih =>
    obtain ⟨j, v⟩ := q
    simp only [tabAbove, Bool.and_eq_true, decide_eq_true_eq] at h
    have below : k ≤ j → tabGet d r k = d := fun hk => by
      rw [tabGet_eq_tabFind, tabFind_below r h.2 (by omega), Option.getD_none]
    cases hp : p j
    all_goals
      simp only [List.filter_cons, hp, if_true, Bool.false_eq_true, if_false, tabGet, ih h.2]
      rcases Nat.lt_trichotomy k j with hk | rfl | hk
      · simp [hk, below (Nat.le_of_lt hk)]
      · simp [hp]
      · simp [Nat.lt_asymm hk, Nat.ne_of_gt hk]

theorem tabAbove_tabPut {α : Type} [DecidableEq α] {n k : Nat} {d v : α} {t : Tab α} (h : tabAbove n t = true) (hk : n ≤ k) :
    tabAbove n (tabPut d t k v) = true := by
  unfold tabPut
  split
  · exact tabAbove_tabDel h
  · exact tabAbove_tabSet v h hk

end Sys2Proof

namespace Sys2Proof.Machine

/-! ## Fields of words, and digits of numbers -/

theorem toBits_lt (n : Nat) (v : Int) : toBits n v < 2 ^ n := by
  have h : (0 : Int) < 2 ^ n := by positivity
  have h1 := Int.emod_nonneg v h.ne'
  have h2 := Int.emod_lt_of_pos v h
  unfold toBits
  zify
  omega

theorem ofNat_toBits (n : Nat) (v : Int) : BitVec.ofNat n (toBits n v) = BitVec.ofInt n v := by
  apply BitVec.eq_of_toNat_eq
  rw [BitVec.toNat_ofNat, Nat.mod_eq_of_lt (toBits_lt n v), BitVec.toNat_ofInt]
  rfl

/-- A sum of digits, in the base `b`, stays below the next power. -/
theorem digitSum_lt {F d : Nat → Nat} {b : Nat} (h0 : F 0 = 0) (hs : ∀ n, F (n + 1) = F n + d n * b ^ n) (hd : ∀ n, d n < b) (n : Nat) :
    F n < b ^ n := by
  induction n with
  | zero => simp [h0]
  | succ n ih =>
    have := Nat.mul_le_mul_right (b ^ n) (hd n)
    rw [Nat.succ_mul] at this
    rw [hs, Nat.pow_succ']
    omega

/-- A digit of a sum of digits. -/
theorem digitSum_digit {F d : Nat → Nat} {b : Nat} (h0 : F 0 = 0) (hs : ∀ n, F (n + 1) = F n + d n * b ^ n) (hd : ∀ n, d n < b)
    {m n : Nat} (hm : m < n) : F n / b ^ m % b = d m := by
  have hb : 0 < b := Nat.zero_lt_of_lt (hd 0)
  induction n with
  | zero => omega
  | succ n ih =>
    rw [hs]
    rcases Nat.lt_succ_iff_lt_or_eq.1 hm with h | rfl
    · obtain ⟨k, rfl⟩ := Nat.exists_eq_add_of_lt h
      rw [show d (m + k + 1) * b ^ (m + k + 1) = b ^ m * (b * (d (m + k + 1) * b ^ k)) by ring, Nat.add_mul_div_left _ _ (Nat.pow_pos hb),
        Nat.add_mul_mod_self_left, ih h]
    · rw [Nat.add_mul_div_right _ _ (Nat.pow_pos hb), Nat.div_eq_of_lt (digitSum_lt h0 hs hd m), Nat.zero_add, Nat.mod_eq_of_lt (hd m)]

/-- A field of a number that a word holds. -/
theorem extract_ofNat {w lo k : Nat} (x : Nat) (h : lo + k ≤ w) : (BitVec.ofNat w x).extractLsb' lo k = BitVec.ofNat k (x / 2 ^ lo) := by
  refine BitVec.eq_of_getLsbD_eq fun i hi => ?_
  simp only [BitVec.getLsbD_extractLsb', BitVec.getLsbD_ofNat, Nat.testBit_div_two_pow, Nat.add_comm lo i, hi, show i + lo < w by omega, decide_true,
    Bool.true_and]

theorem ofNat_mod (w x : Nat) : BitVec.ofNat w (x % 2 ^ w) = BitVec.ofNat w x := by
  apply BitVec.eq_of_toNat_eq; simp

theorem toNat_append_add {n m : Nat} (x : BitVec n) (y : BitVec m) : (x ++ y).toNat = x.toNat * 2 ^ m + y.toNat := by
  rw [BitVec.toNat_append, ← Nat.shiftLeft_add_eq_or_of_lt y.isLt, Nat.shiftLeft_eq]

/-! ## The ends of a word that issues (R53, R104, R238) -/

section Issue
variable {s : State} {t : TileId} {f : Firing} {g : BitVec 4} {r : WaveRole} {legal : State → TileId → Firing → Bool}
  {body : State → TileId → Firing → Ex Done}

/-- A word that issues and completes: its program counter moves on. -/
theorem issue_completes {s' : State} {f' : Firing} (h : Issues s t f g) (hl : legal s t f = true)
    (hb : body s t f = .ok { s := s', f := f' }) : issue g r legal body s = .next (s'.setFiring t (f'.afterWave r).advance) := by
  rw [issue_next h.cur h.here, hl, hb, issueOn_done h.on]; rfl
/-- A word that issues and sets the program counter itself, or stands. -/
theorem issue_stands {s' : State} {f' : Firing} (h : Issues s t f g) (hl : legal s t f = true)
    (hb : body s t f = .ok { s := s', f := f', moved := true }) : issue g r legal body s = .next (s'.setFiring t (f'.afterWave r)) := by
  rw [issue_next h.cur h.here, hl, hb, issueOn_done h.on]; rfl
/-- A word that meets a fault takes it. -/
theorem issue_faults {e : FInfo} (h : Issues s t f g) (hl : legal s t f = true) (hb : body s t f = .error (.fault e)) :
    issue g r legal body s = .next (takeFault s t f e) := by
  rw [issue_next h.cur h.here, hl, hb, issueOn_fault h.on]
/-- A word that waits at issue marks its firing. -/
theorem issue_holds (h : Issues s t f g) (hl : legal s t f = true) (hb : body s t f = .error .hold) :
    issue g r legal body s = .next (s.setFiring t { f with held := true }) := by
  rw [issue_next h.cur h.here, hl, hb, issueOn_hold h.on]

end Issue

theorem claimedOk_ok {x : Tile} {o : Nat} (h : (x.slotOf o).claimed = true) : claimedOk x o = .ok () := by
  rw [claimedOk, h]; rfl

end Sys2Proof.Machine
end

section
/-! What reset leaves: O38. -/

namespace Sys2Proof.Machine

/-- The value of a register at reset: 0 but for those that R332, R398 and R417 to R421 give another. -/
def MReg.atReset : MReg → Nat
  | .powercap => 3000
  | .pwrstat => 0x80
  | .tempwin _ => 20
  | .templim => 95
  | .partprm _ => 24000 * 2 ^ 32 + 20
  | _ => 0

@[simp] theorem reset_queue (q : QSel) : State.reset.queue q = {} := by cases q <;> rfl
@[simp] theorem reset_stack (k : Nat) : State.reset.stack k = {} := rfl
@[simp] theorem reset_part (p : Nat) : State.reset.part p = {} := rfl
@[simp] theorem reset_tile (t : TileId) : State.reset.tile t = {} := rfl

theorem value_reset (r : MReg) : r.value State.reset = r.atReset := by
  cases r with
  | pwrstat => decide
  | partprm | tempwin => simp only [MReg.value, reset_part, reset_stack]; rfl
  | qbase | qctl | qtail => simp [MReg.value, MReg.atReset]
  | dlogctl | rlogctl => simp [MReg.value, logCtlBits, MReg.atReset]
  | soflg => simp [MReg.value, flgBits, Tile.soOf, MReg.atReset]
  | _ => rfl

theorem mregRead_reset {a : Nat} {r : MReg} (h : mregOf a = some r) : mregRead State.reset a = BitVec.ofNat 64 r.atReset := by
  rw [mregRead, h, ← value_reset]

/-- Settles O38: each register by its value at reset; no part of the boot sequence has run and no byte of memory is listed. -/
theorem resetLeavesTheStatedValues : Obligations.ResetLeavesTheStatedValues := by
  refine ⟨fun a r h => ?_, rfl, fun _ => rfl, rfl, rfl⟩
  rw [mregRead_reset h]
  cases r <;> rfl

end Sys2Proof.Machine
end

section
/-! The forms of the matrix engine (R13 to R20, R197 to R202): O26. -/

namespace Sys2Proof.Machine

section Forms
variable {s : State} {t : TileId} {f : Firing}

/-! ## PPR and the bits of the banks -/

theorem exec_mpair (o : MPAIRo) (s : State) : exec (.mpair o) s = execMpair o s := rfl
theorem exec_mclr (o : ACCo) (s : State) : exec (.mclr o) s = execMclr o s := rfl
theorem exec_mma (o : MMAo) (s : State) : exec (.mma o) s = execMma o s := rfl
theorem exec_mdrain (o : MDRAINo) (s : State) : exec (.mdrain o) s = execMdrain o s := rfl
theorem exec_mstat (o : OneD) (s : State) : exec (.mstat o) s = execMstat o s := rfl
theorem exec_mwait (o : MWAITo) (s : State) : exec (.mwait o) s = execMwait o s := rfl

theorem mpair_leaves {o : MPAIRo} (h : Issues s t f o.g) : Leaves (.mpair o) s t { f with ppr := o.v } := by
  rw [Leaves, exec_mpair]
  exact issue_completes h rfl rfl

theorem bankBit_getLsbD (a : BitVec 2) {b : Nat} (hb : b < 4) : (bankBit a.toNat).getLsbD b = decide (b = a.toNat) := by
  revert a b; decide

/-- Banks of a mask without one. -/
theorem clearBank_getLsbD (v : BitVec 4) (a : BitVec 2) {b : Nat} (hb : b < 4) :
    (v &&& ~~~(bankBit a.toNat)).getLsbD b = (v.getLsbD b && decide (b ≠ a.toNat)) := by
  rw [BitVec.getLsbD_and, BitVec.getLsbD_not, bankBit_getLsbD a hb]
  simp [hb]

/-- The matrix engine after an MCLR (R198). -/
def Me.cleared (m : Me) (b : Nat) : Me :=
  { m with acc := m.acc.filter (fun p => decide (p.1 / 4096 ≠ b)), ov := m.ov &&& ~~~(bankBit b), abrt := m.abrt &&& ~~~(bankBit b)
           poison := m.poison &&& ~~~(bankBit b), owing := tabDel m.owing b }

theorem mclr_becomes {o : ACCo} (h : Issues s t f o.g) (hr : readable (s.tile t) o.acc.toNat = true) :
    Becomes (.mclr o) s t
      (s.setTile t { s.tile t with me := (s.tile t).me.cleared o.acc.toNat
                                   firings := (s.tile t).firings.map (fun g => { g with banks := g.banks &&& ~~~(bankBit o.acc.toNat) }) })
      { f with banks := f.banks &&& ~~~(bankBit o.acc.toNat) }.advance := by
  rw [Becomes, exec_mclr]
  exact issue_completes h rfl (by simp only [hr]; rfl)

theorem cleared_acc (m : Me) (a b : Nat) {k : Nat} (hk : k < 4096) (h : tabAbove 0 m.acc = true) :
    tabGet 0 (m.cleared a).acc (b * 4096 + k) = if b = a then 0 else tabGet 0 m.acc (b * 4096 + k) := by
  have hb : (b * 4096 + k) / 4096 = b := by omega
  simp only [Me.cleared]
  rw [tabGet_filter 0 m.acc (fun i => decide (i / 4096 ≠ a)) _ h, hb]
  by_cases e : b = a <;> simp [e]

/-! ## MMA -/

theorem pprPa_extract (p : BitVec 11) : pprPa p = (p.extractLsb' 0 4).toNat + 1 := by simp [pprPa]
theorem pprPb_extract (p : BitVec 11) : pprPb p = (p.extractLsb' 4 4).toNat + 1 := by simp [pprPb, Nat.shiftRight_eq_div_pow]

/-- The product that an MMA is to add, of the slots as they stand (R13, R19). -/
def mmaJob (x : Tile) (f : Firing) (o : MMAo) : MmaJob :=
  { owner := f.id, acc := o.acc.toNat, oa := o.oa.toNat, ob := o.ob.toNat, a := x.slotOf o.oa.toNat, b := x.slotOf o.ob.toNat
    ppr := f.ppr, stamp := x.nextCmd }

section Mma
variable {o : MMAo} (h : Issues s t f o.g) (ht : throttleOpen s t = true) (ha : ((s.tile t).slotOf o.oa.toNat).claimed = true)
  (hb : ((s.tile t).slotOf o.ob.toNat).claimed = true)
include h ht ha hb

/-- While a slot fills or the engine is occupied (R19, R199). -/
theorem mma_holds (hw : ((s.tile t).slotOf o.oa.toNat).filling = true ∨ ((s.tile t).slotOf o.ob.toNat).filling = true ∨
    (s.tile t).me.queue ≠ []) : Holds (.mma o) s t f := by
  have hw : (!((s.tile t).slotOf o.oa.toNat).filling && !((s.tile t).slotOf o.ob.toNat).filling && (s.tile t).me.queue.isEmpty) = false := by
    rcases hw with hw | hw | hw <;> simp [hw]
  rw [Holds, exec_mma]
  exact issue_holds h rfl (by simp only [ht, claimedOk_ok ha, claimedOk_ok hb, hw]; rfl)

variable (fa : ((s.tile t).slotOf o.oa.toNat).filling = false) (fb : ((s.tile t).slotOf o.ob.toNat).filling = false)
  (hq : (s.tile t).me.queue = [])
include fa fb hq

theorem mma_becomes (pa : pprPa f.ppr ≤ ((s.tile t).slotOf o.oa.toNat).nplanes) (pb : pprPb f.ppr ≤ ((s.tile t).slotOf o.ob.toNat).nplanes) :
    Becomes (.mma o) s t (s.setMe t { (s.tile t).me with queue := [mmaJob (s.tile t) f o] })
      { f with banks := f.banks ||| bankBit o.acc.toNat }.advance := by
  rw [Becomes, exec_mma]
  exact issue_completes h rfl (by
    simp only [ht, claimedOk_ok ha, claimedOk_ok hb, fa, fb, hq, decide_eq_true pa, decide_eq_true pb]; rfl)

/-- A slot has fewer planes than PPR asks of it (R199). -/
theorem mma_faults_a (pa : ((s.tile t).slotOf o.oa.toNat).nplanes < pprPa f.ppr) : Faults (.mma o) s t f
    { code := .opplane, detail := omDetail o.oa.toNat ((s.tile t).slotOf o.oa.toNat).nplanes (pprPa f.ppr) } := by
  rw [Faults, exec_mma]
  exact issue_faults h rfl (by
    simp only [ht, claimedOk_ok ha, claimedOk_ok hb, fa, fb, hq, decide_eq_false (Nat.not_le.2 pa)]; rfl)
theorem mma_faults_b (pa : pprPa f.ppr ≤ ((s.tile t).slotOf o.oa.toNat).nplanes) (pb : ((s.tile t).slotOf o.ob.toNat).nplanes < pprPb f.ppr) :
    Faults (.mma o) s t f
      { code := .opplane, detail := omDetail o.ob.toNat ((s.tile t).slotOf o.ob.toNat).nplanes (pprPb f.ppr) } := by
  rw [Faults, exec_mma]
  exact issue_faults h rfl (by
    simp only [ht, claimedOk_ok ha, claimedOk_ok hb, fa, fb, hq, decide_eq_true pa, decide_eq_false (Nat.not_le.2 pb)]; rfl)

end Mma

/-! ## Drains -/

/-- The lanes that a drain of n rows takes from a bank. -/
def bankLanes (acc : Tab Int) (bank rows : Nat) : List (BitVec 512) :=
  (List.range (8 * rows)).map (fun n => BitVec.ofNat 512 (drainLanes acc (bank * 4096 + 8 * n) 8))

def drainOf (s : State) (t : TileId) (f : Firing) (o : MDRAINo) : Drain :=
  { owner := f.id, bank := o.acc.toNat, route := o.route.toNat, tag := f.tag, ctx := s.ctxOf f, last := o.last
    lanes := bankLanes (s.tile t).me.acc o.acc.toNat (o.rows1.toNat + 1), stamp := (s.tile t).nextCmd }

section Mdrain
variable {o : MDRAINo} (h : Issues s t f o.g) (hr : readable (s.tile t) o.acc.toNat = true)
include h hr

theorem mdrain_becomes (ho : (tabFind (s.tile t).outs (portKey 16 o.route.toNat)).isSome = true)
    (hp : (s.tile t).me.poison.getLsbD o.acc.toNat = false) :
    Becomes (.mdrain o) s t (s.setMe t { (s.tile t).me with drains := (s.tile t).me.drains ++ [drainOf s t f o] })
      { f with committed := true }.advance := by
  rw [Becomes, exec_mdrain]
  exact issue_completes h rfl (by simp only [hr, ho, hp]; rfl)

theorem mdrain_faults (ho : (tabFind (s.tile t).outs (portKey 16 o.route.toNat)).isNone = true) :
    Faults (.mdrain o) s t f { code := .engine, detail := subDetail 3 o.route.toNat } := by
  have ho : (tabFind (s.tile t).outs (portKey 16 o.route.toNat)).isSome = false := by simpa using ho
  rw [Faults, exec_mdrain]
  exact issue_faults h rfl (by simp only [hr, ho]; rfl)

end Mdrain

/-- Lane m of eight (R20). -/
theorem drainLanes_lane (acc : Tab Int) (base : Nat) {m : Nat} (hm : m < 8) :
    (BitVec.ofNat 512 (drainLanes acc base 8)).extractLsb' (64 * m) 64 = BitVec.ofInt 64 (tabGet 0 acc (base + m)) := by
  rw [extract_ofNat _ (by omega), ← ofNat_mod, Nat.pow_mul,
    digitSum_digit (d := fun n => toBits 64 (tabGet 0 acc (base + n))) rfl (fun n => by rw [← Nat.pow_mul]; rfl) (fun n => toBits_lt 64 _) hm,
    ofNat_toBits]

theorem bankLanes_length (acc : Tab Int) (bank rows : Nat) : (bankLanes acc bank rows).length = 8 * rows := by simp [bankLanes]

/-- Element j of row i of a bank, in the lanes drained. -/
theorem bankLanes_element (acc : Tab Int) (bank : Nat) {rows i j : Nat} (hi : i < rows) (hj : j < 64) :
    ((bankLanes acc bank rows).getD (8 * i + j / 8) 0).extractLsb' (64 * (j % 8)) 64 =
      BitVec.ofInt 64 (tabGet 0 acc (bank * 4096 + 64 * i + j)) := by
  have hn : 8 * i + j / 8 < 8 * rows := by omega
  rw [List.getD_eq_getElem _ _ (by simpa [bankLanes_length] using hn)]
  simp only [bankLanes, List.getElem_map, List.getElem_range]
  rw [drainLanes_lane _ _ (Nat.mod_lt _ (by decide)), show bank * 4096 + 8 * (8 * i + j / 8) + j % 8 = bank * 4096 + 64 * i + j by omega]

/-! ## The state of the engine -/

/-- The fields that MSTAT joins (R201). -/
theorem mstat_value (p : BitVec 11) (ov ab po : BitVec 4) :
    BitVec.ofNat 64 (p.toNat + ov.toNat * 2 ^ 12 + ab.toNat * 2 ^ 16 + po.toNat * 2 ^ 20) = (po ++ ab ++ ov ++ (0 : BitVec 1) ++ p).setWidth 64 := by
  apply BitVec.eq_of_toNat_eq
  simp only [BitVec.toNat_ofNat, BitVec.toNat_setWidth, toNat_append_add, show (0 : BitVec 1).toNat = 0 from rfl]
  omega

theorem mstat_leaves {o : OneD} (h : Issues s t f o.g) (hu : Usable f (sl o.d)) (hq : (s.tile t).me.queue = []) (ho : (s.tile t).me.owing = []) :
    Leaves (.mstat o) s t (f.setSlot o.d.toNat
      (((s.tile t).me.poison ++ (s.tile t).me.abrt ++ (s.tile t).me.ov ++ (0 : BitVec 1) ++ f.ppr : BitVec 24).setWidth 64)) := by
  rw [Leaves, exec_mstat, ← mstat_value]
  exact issue_completes h rfl (by simp only [need_ok hu, hq, owingIn, ho]; rfl)

theorem mwait_leaves {o : MWAITo} (h : Issues s t f o.g) (ho : (s.tile t).me.owing = []) (hm : mwaitMet (s.tile t) o.m = true) :
    Leaves (.mwait o) s t f := by
  rw [Leaves, exec_mwait]
  exact issue_completes h rfl (by simp only [hm, owingIn, ho]; rfl)

theorem mwait_stands {o : MWAITo} (h : Issues s t f o.g) (hm : mwaitMet (s.tile t) o.m = false) :
    Becomes (.mwait o) s t s { f with st := .stalled, wait := .mwait o.m } := by
  rw [Becomes, exec_mwait]
  exact issue_stands h rfl (by simp only [hm]; rfl)

end Forms

/-- Settles O26, form by form: each by the end it comes to at issue, MCLR's and MDRAIN's values by what the bank's table and lanes hold. -/
theorem matrixEngineForms : Obligations.MatrixEngineForms := by
  intro s t f
  refine ⟨fun o h => mpair_leaves h, fun o h hr => ?_, fun o h ht ha hb => ?_, fun o h hr => ⟨fun ho hp => ?_, mdrain_faults h hr⟩,
    fun o h hu hq ho => mstat_leaves h hu hq ho, fun o h ho => ⟨mwait_leaves h ho, mwait_stands h⟩⟩
  · exact ⟨_, mclr_becomes h hr, fun b k hk habove => cleared_acc _ _ b hk habove,
      fun b hb => ⟨clearBank_getLsbD _ _ hb, clearBank_getLsbD _ _ hb, clearBank_getLsbD _ _ hb⟩, rfl, rfl⟩
  · rw [← pprPa_extract, ← pprPb_extract]
    exact ⟨mma_holds h ht ha hb, fun fa fb hq =>
      ⟨mma_becomes h ht ha hb fa fb hq, mma_faults_a h ht ha hb fa fb hq, mma_faults_b h ht ha hb fa fb hq⟩⟩
  · exact ⟨_, mdrain_becomes h hr ho hp, rfl, rfl, rfl, rfl, bankLanes_length _ _ _,
      fun i j hi hj => bankLanes_element _ _ (Nat.lt_succ_of_le hi) hj⟩

end Sys2Proof.Machine
end

section
/-! SUPPORT. Fills of operand memory slots, and the products of the matrix engine (R10 to R20, R34, R40, R192, R199, R309). -/

namespace Sys2Proof.Machine

/-! ## Progress and waking leave tiles and memory (R235, R274) -/

@[simp] theorem progress_tile (s : State) (i : Option Nat) (t : TileId) : (progress s i).tile t = s.tile t := by
  unfold progress; split <;> rfl
@[simp] theorem progress_mem (s : State) (i : Option Nat) : (progress s i).mem = s.mem := by
  unfold progress; split <;> rfl
@[simp] theorem wakeTile_tile (s : State) (t u : TileId) : (wakeTile s t).tile u = s.tile u := rfl
@[simp] theorem wakeTile_mem (s : State) (t : TileId) : (wakeTile s t).mem = s.mem := rfl

/-! ## Fills (R192) -/

theorem acqMet_free {x : Tile} {c : Cmd} (h : c.acq = false) : acqMet x c = true := by simp [acqMet, h]
theorem cmdAcquire_free {c : Cmd} (h : c.acq = false) (s : State) (t : TileId) : cmdAcquire s t c = s := by simp [cmdAcquire, h]

theorem exec_omfillReceive (t : TileId) (cmd n : Nat) (s : State) : exec (.omfillReceive t cmd n) s = .next (fillToken t cmd s) := rfl

/-- A slot with 64 more bytes of a plane (R40). -/
def OmSlot.withBytes (m : OmSlot) (n v : Nat) : OmSlot :=
  { m with planes := tabPut 0 m.planes (n / 16) (BitVec.ofNat 8192 (m.plane (n / 16) + v * 2 ^ (512 * (n % 16)))) }

/-- The next token of a fill enters its slot; the last one ends the fill. -/
theorem fillToken_takes {s s1 : State} {t : TileId} {c : Cmd} {o tr tc wake bit : Nat} {d : Desc} {b : List Byte}
    (hc : s.cmd? t c.id = some c) (hk : c.kind = .oload o d tr tc wake bit) (hp : c.pending = true) (ha : c.acq = false)
    (hb : pathBusy s t c (ownPath s t c (fillAddr d tr tc c.chunk)) = false)
    (hr : readPlane s t c d tr tc (d.plo + c.chunk / 16) (64 * (c.chunk % 16)) 64 = .got b s1) :
    fillToken t c.id s =
      let m := ((s1.tile t).slotOf o).withBytes c.chunk (wordOfBytes b)
      if c.chunk + 1 < 16 * d.planes then
        progress ((s1.setOm t o m).setCmd t { c with st := .running, chunk := c.chunk + 1 }) (some c.inst)
      else forget (endCmd (wakeNode (s1.setOm t o (m.complete d.planes)) t c wake bit) t c .done) t c := by
  simp only [fillToken, hc, hk, hp, acqMet_free ha, hb, cmdAcquire_free ha, hr, ite_self]
  rfl

/-- Bits of a byte beyond the tensor read as zero (R34). -/
theorem blockByte_beyond {d : Desc} {tc n x : Nat} (h : d.dim128 ≤ 128 * tc + 8 * (n % 16) + x) (b : Byte) :
    (d.blockByte tc n b).getLsbD x = false := by
  rw [Desc.blockByte, BitVec.getLsbD_ofNat, Nat.testBit_mod_two_pow]
  simpa using fun _ hx => absurd hx (by omega)

/-- What a consumer reads of a plane block is zero beyond the tensor, wherever the bytes come from (R34). -/
theorem readPlane_beyond {s s1 : State} {t : TileId} {c : Cmd} {d : Desc} {tr tc p off n : Nat} {b : List Byte}
    (hr : readPlane s t c d tr tc p off n = .got b s1) {i x : Nat} (h : d.dim128 ≤ 128 * tc + 8 * ((off + i) % 16) + x) :
    (b.getD i 0).getLsbD x = false := by
  unfold readPlane at hr
  simp only at hr
  split at hr
  case h_1 w s2 _ =>
    injection hr with hb
    subst hb
    rcases Nat.lt_or_ge i (w ++ List.replicate (n - Nat.min n (d.held tr tc - off)) 0).length with hi | hi
    · rw [List.getD_eq_getElem _ _ (by simpa using hi)]
      simp only [List.getElem_map, List.getElem_zipIdx, Nat.zero_add]
      exact blockByte_beyond h _
    · rw [List.getD_eq_default _ _ (by simpa using hi)]
      simp
  case h_2 r hn => exact (hn _ _ hr).elim

/-! ## A stream's fill (R309) -/

theorem exec_mePortFill (t : TileId) (p : Nat) (s : State) : exec (.mePortFill t p) s = .next (mePort t p s) := rfl

theorem headTok_edge {s : State} {t : TileId} {n p : Nat} {k : Token} (h : headTok s t n p = some k) :
    ∃ e, tabFind (s.tile t).edges (portKey n p) = some e := by
  unfold headTok at h
  split at h
  case h_1 e he => exact ⟨e, he⟩
  case h_2 => cases h

@[simp] theorem popTok_mem (s : State) (t : TileId) (n p : Nat) : (popTok s t n p).mem = s.mem := by
  simp only [popTok]; split <;> rfl
@[simp] theorem addSkip_mem (s : State) (t : TileId) (n : Nat) : (addSkip s t n).mem = s.mem := rfl
@[simp] theorem setOm_mem (s : State) (t : TileId) (o : Nat) (m : OmSlot) : (s.setOm t o m).mem = s.mem := rfl
@[simp] theorem addSkip_slotOf (s : State) (t : TileId) (n o : Nat) : ((addSkip s t n).tile t).slotOf o = (s.tile t).slotOf o := by
  simp [addSkip, Tile.slotOf]
@[simp] theorem setOm_slotOf (s : State) (t : TileId) (o : Nat) (m : OmSlot) : ((s.setOm t o m).tile t).slotOf o = m := by
  simp [State.setOm, Tile.setSlotOf, Tile.slotOf]

/-- A token with more to come after it: its bytes enter the slot of its port. -/
theorem mePort_takes {s : State} {t : TileId} {p o : Nat} {k : Token} (hh : headTok s t 16 p = some k) (hs : k.skip = 0)
    (hc : ((s.tile t).slotOf p).claimed = true) (hf : ((s.tile t).slotOf p).filling = true) (ha : ((s.tile t).slotOf p).armed = some o)
    (hn : ((s.tile t).slotOf p).got + 1 < 16 * ((s.tile t).slotOf p).nplanes) (hl : k.last = false) :
    mePort t p s = wakeTile (progress (addSkip ((popTok s t 16 p).setOm t p
      { ((s.tile t).slotOf p).withBytes ((s.tile t).slotOf p).got k.payload.toNat with got := ((s.tile t).slotOf p).got + 1 }) t 0)
        (s.tile t).inst) t := by
  obtain ⟨e, he⟩ := headTok_edge hh
  have h1 : ¬ 16 * ((s.tile t).slotOf p).nplanes ≤ ((s.tile t).slotOf p).got := by omega
  have h2 : ¬ 16 * ((s.tile t).slotOf p).nplanes ≤ ((s.tile t).slotOf p).got + 1 := by omega
  simp [mePort, he, hh, hs, hc, hf, ha, hl, h1, h2, OmSlot.withBytes]

end Sys2Proof.Machine
end

section
/-! SUPPORT. The product that an MMA adds into a bank (R14, R20, R199). -/

namespace Sys2Proof.Machine

/-! ## The weighted sum over plane pairs (R14) -/

theorem popN_eq (n a : Nat) : popN n a = (List.range n).countP (fun x => a.testBit x) := by
  induction n generalizing a with
  | zero => rfl
  | succ n ih =>
    rw [popN, ih, List.range_succ_eq_map, List.countP_cons, List.countP_map, Nat.add_comm]
    simp only [Function.comp_def, Nat.testBit_succ, Nat.testBit_zero]
    rcases Nat.mod_two_eq_zero_or_one a with h | h <;> simp [h]

/-- Row i of plane p of a slot: 128 bits (R10). -/
def OmSlot.row (m : OmSlot) (p i : Nat) : BitVec 128 := (tabGet 0 m.planes p).extractLsb' (128 * i) 128

/-- Bits that a row of one slot and a row of another both have. -/
theorem popN_rows (a b : OmSlot) (p q i k : Nat) :
    popN 128 (Nat.land (a.plane p / 2 ^ (128 * i) % 2 ^ 128) (b.plane q / 2 ^ (128 * k) % 2 ^ 128)) =
      (List.range 128).countP (fun x => (a.row p i &&& b.row q k).getLsbD x) := by
  have h : ∀ (m : OmSlot) (p i : Nat), m.plane p / 2 ^ (128 * i) % 2 ^ 128 = (m.row p i).toNat := by
    intro m p i
    rw [OmSlot.row, BitVec.extractLsb'_toNat, Nat.shiftRight_eq_div_pow, OmSlot.plane]
  rw [popN_eq, h, h]
  exact List.countP_congr fun x _ => Iff.rfl

theorem planeWeight_eq (sg : Bool) (n p : Nat) : planeWeight sg n p = if sg ∧ p + 1 = n then -((2 : Int) ^ p) else (2 : Int) ^ p := by
  simp [planeWeight]

/-- The contribution of a plane pair to an element of the product. -/
def pairTerm (a b : OmSlot) (sa sb : Bool) (pa pb i k p q : Nat) : Int :=
  planeWeight sa pa p * planeWeight sb pb q * ((List.range 128).countP (fun x => (a.row p i &&& b.row q k).getLsbD x) : Int)

theorem pairSum_eq (a b : OmSlot) (sa sb : Bool) (pa pb i k n : Nat) :
    pairSum a b sa sb pa pb i k none n = ((List.range n).map (fun m => pairTerm a b sa sb pa pb i k (m / pb) (m % pb))).sum := by
  induction n with
  | zero => rfl
  | succ n ih =>
    rw [pairSum, ih, List.sum_range_succ, if_neg (Option.some_ne_none n).symm, popN_rows]
    rfl

/-- Pairs of numbers below two bounds, in order, by their place. -/
theorem flatMap_range {α : Type} (g : Nat → Nat → α) (m n : Nat) :
    (List.range m).flatMap (fun p => (List.range n).map (g p)) = (List.range (m * n)).map (fun i => g (i / n) (i % n)) := by
  induction m with
  | zero => simp
  | succ m ih =>
    rw [List.range_succ, List.flatMap_append, ih, Nat.succ_mul, List.range_add, List.map_append, List.map_map]
    simp only [List.flatMap_cons, List.flatMap_nil, List.append_nil]
    congr 1
    refine List.map_congr_left fun q hq => ?_
    have hq := List.mem_range.1 hq
    simp [Nat.mul_add_div (Nat.zero_lt_of_lt hq), Nat.div_eq_of_lt hq, Nat.mod_eq_of_lt hq, Nat.mul_comm m n]

theorem pairSum_pairs (a b : OmSlot) (sa sb : Bool) (pa pb i k : Nat) :
    pairSum a b sa sb pa pb i k none (pa * pb) =
      ((List.range pa).flatMap (fun p => (List.range pb).map (pairTerm a b sa sb pa pb i k p))).sum := by
  rw [pairSum_eq, flatMap_range]

/-! ## The bank (R20) -/

theorem satInt_ne_iff {v m : Int} : satInt v (-m) m ≠ v ↔ m < |v| := by
  rw [lt_abs, satInt]
  split
  · omega
  · split <;> omega

/-- An element with the product added, before it is saturated. -/
def added (acc : Tab Int) (base : Nat) (sum : Nat → Nat → Int) (m : Nat) : Int := tabGet 0 acc (base + m) + sum (m / 64) (m % 64)

section Bank
variable (base : Nat) (sum : Nat → Nat → Int) (n : Nat) (r : Tab Int × Bool) (h : tabAbove 0 r.1 = true)
include h

/-- Elements at or above those being added are as they were. -/
theorem addProduct_beyond {m : Nat} (hm : n ≤ m) :
    tabGet 0 (addProduct base sum n r).1 (base + m) = tabGet 0 r.1 (base + m) := by
  induction n generalizing r with
  | zero => rfl
  | succ n ih =>
    rw [addProduct, ih _ (tabAbove_tabPut h (Nat.zero_le _)) (by omega), tabGet_tabPut 0 _ _ _ _ h, if_neg (by omega)]

theorem addProduct_element {m : Nat} (hm : m < n) :
    tabGet 0 (addProduct base sum n r).1 (base + m) = satInt (added r.1 base sum m) (-accMax) accMax := by
  induction n generalizing r with
  | zero => omega
  | succ n ih =>
    have h' := fun v => tabAbove_tabPut (d := 0) (v := v) h (Nat.zero_le (base + n))
    rw [addProduct]
    rcases Nat.lt_succ_iff_lt_or_eq.1 hm with hm | rfl
    · rw [ih _ (h' _) hm, added, tabGet_tabPut 0 _ _ _ _ h, if_neg (by omega), added]
    · rw [addProduct_beyond _ _ _ _ (h' _) le_rfl, tabGet_tabPut 0 _ _ _ _ h, if_pos rfl, added]

/-- Whether an element went beyond 48 bits. -/
theorem addProduct_over : (addProduct base sum n r).2 = true ↔ r.2 = true ∨ ∃ m < n, accMax < |added r.1 base sum m| := by
  induction n generalizing r with
  | zero => simp [addProduct]
  | succ n ih =>
    rw [addProduct, ih _ (tabAbove_tabPut h (Nat.zero_le _)), Nat.exists_lt_succ_right]
    have same : ∀ v, ∀ m < n, added (tabPut 0 r.1 (base + n) v) base sum m = added r.1 base sum m := fun v m hm => by
      rw [added, tabGet_tabPut 0 _ _ _ _ h, if_neg (by omega), added]
    have earlier : ∀ v, (∃ m < n, accMax < |added (tabPut 0 r.1 (base + n) v) base sum m|) ↔ ∃ m < n, accMax < |added r.1 base sum m| :=
      fun v => exists_congr fun m => and_congr_right fun hm => by rw [same v m hm]
    rw [Bool.or_eq_true, decide_eq_true_iff, earlier, satInt_ne_iff, ← added, or_assoc, or_comm (a := accMax < _)]

end Bank

/-- The 4096 elements of a bank, row by row. -/
theorem exists_element {p : Nat → Nat → Prop} : (∃ m < 4096, p (m / 64) (m % 64)) ↔ ∃ i < 64, ∃ k < 64, p i k := by
  constructor
  · rintro ⟨m, hm, h⟩
    exact ⟨m / 64, by omega, m % 64, by omega, h⟩
  · rintro ⟨i, hi, k, hk, h⟩
    refine ⟨64 * i + k, by omega, ?_⟩
    rwa [show (64 * i + k) / 64 = i by omega, show (64 * i + k) % 64 = k by omega]

/-! ## The step of the engine (R199) -/

/-- The sum that an MMA adds to element k of row i (R14). -/
def mmaSum (j : MmaJob) (i k : Nat) : Int :=
  let pa := trimmed (pprPa j.ppr) (j.ppr.getLsbD 8) (j.ppr.getLsbD 10) j.a
  let pb := trimmed (pprPb j.ppr) (j.ppr.getLsbD 9) (j.ppr.getLsbD 10) j.b
  ((List.range pa).flatMap (fun p => (List.range pb).map (pairTerm j.a j.b (j.ppr.getLsbD 8) (j.ppr.getLsbD 9) pa pb i k p))).sum

/-- The bank after an MMA, and whether an element of it went beyond 48 bits. -/
def mmaBank (acc : Tab Int) (j : MmaJob) : Tab Int × Bool := addProduct (j.acc * 4096) (mmaSum j) 4096 (acc, false)

theorem mmaBank_element {acc : Tab Int} (h : tabAbove 0 acc = true) (j : MmaJob) {i k : Nat} (hi : i < 64) (hk : k < 64) :
    tabGet 0 (mmaBank acc j).1 (4096 * j.acc + 64 * i + k) =
      satInt (tabGet 0 acc (4096 * j.acc + 64 * i + k) + mmaSum j i k) (-accMax) accMax := by
  rw [show 4096 * j.acc + 64 * i + k = j.acc * 4096 + (64 * i + k) by omega, mmaBank, addProduct_element _ _ _ _ h (by omega), added,
    show (64 * i + k) / 64 = i by omega, show (64 * i + k) % 64 = k by omega]

theorem mmaBank_over {acc : Tab Int} (h : tabAbove 0 acc = true) (j : MmaJob) :
    (mmaBank acc j).2 = true ↔ ∃ i < 64, ∃ k < 64, accMax < |tabGet 0 acc (4096 * j.acc + 64 * i + k) + mmaSum j i k| := by
  rw [mmaBank, addProduct_over _ _ _ _ h, ← exists_element (p := fun i k => accMax < |tabGet 0 acc (4096 * j.acc + 64 * i + k) + mmaSum j i k|)]
  simp only [Bool.false_eq_true, false_or, added]
  refine exists_congr fun m => and_congr_right fun _ => ?_
  rw [show 4096 * j.acc + 64 * (m / 64) + m % 64 = j.acc * 4096 + m by omega]

theorem exec_mmaComplete (t : TileId) (s : State) : exec (.mmaComplete t) s = .next (meStep t s) := rfl

/-- An MMA that no error strikes adds its product to its bank, and the engine is free for the next. -/
theorem meStep_adds {s : State} {t : TileId} {j : MmaJob} {rest : List MmaJob} (hq : (s.tile t).me.queue = j :: rest) (he : s.errs = []) :
    meStep t s = wakeTile (progress (s.setMe t { (s.tile t).me with
      queue := rest, acc := (mmaBank (s.tile t).me.acc j).1
      ov := if (mmaBank (s.tile t).me.acc j).2 then (s.tile t).me.ov ||| bankBit j.acc else (s.tile t).me.ov }) (s.tile t).inst) t := by
  have hs : meStrikes s t = (none, false) := by simp [meStrikes, he]
  have hm : meStep t s = runMma t s := by simp [meStep, hq]
  rw [hm]
  simp only [runMma, hq, hs, pairSum_pairs]
  rfl

end Sys2Proof.Machine
end

section
/-! SUPPORT. The steps of copies and of loads of contexts (R208, R209, R214, R242, R282). -/

namespace Sys2Proof.Machine

variable {s : State} {t : TileId} {c : Cmd}

/-! ## Copies (R208, R209) -/

theorem exec_copyChunk (t : TileId) (cmd : Nat) (s : State) : exec (.copyChunk t cmd) s = .next (copyChunk t cmd s) := rfl
theorem exec_copyDone (t : TileId) (cmd : Nat) (s : State) : exec (.copyDone t cmd) s = .next (copyDone t cmd s) := rfl
theorem exec_commandFailure (t : TileId) (cmd n : Nat) (s : State) : exec (.commandFailure t cmd n) s = execCommandFailure t cmd n s := rfl

theorem commandFailure_fails (hc : s.cmd? t c.id = some c) (hp : c.pending = true) (n : Nat) :
    execCommandFailure t c.id n s = .next (failCmd s t c { code := codeOf n }) := by
  simp [execCommandFailure, hc, hp]

theorem copyDone_posts (hc : s.cmd? t c.id = some c) (hi : c.isCopy = true) (hp : c.pending = true) (ha : c.acks = 0) :
    copyDone t c.id s = postDone (endCmd s t c .done) t c 0 := by
  simp [copyDone, hc, hi, hp, ha]

/-- An OSTORE is no copy. -/
theorem storesAgain_copy (hi : c.isCopy = true) : c.storesAgain = false := by
  unfold Cmd.isCopy at hi
  unfold Cmd.storesAgain
  split at hi <;> simp_all

/-- A chunk whose writes are all acknowledged, no beat of it dropped, counts (R208). -/
theorem chunkDone_counts (hm : c.missed = false) (n : Nat) : chunkDone s t c n =
    progress (s.setCmd t { c with chunk := c.chunk + 1, written := c.written + n, sent := none, twice := false }) (some c.inst) := by
  simp [chunkDone, hm]

section Chunk
variable (hc : s.cmd? t c.id = some c) (hi : c.isCopy = true) (hp : c.pending = true) (hk : c.acks = 0) (ha : acqMet (s.tile t) c = true)
  (hr : relMet s t c = true) (hq : c.acq = false)
include hi hp hk ha hr

/-- Nothing that a copy waits for is outstanding. -/
theorem copy_ready : (!c.isCopy || !c.pending || !acqMet (s.tile t) c || !relMet s t c || decide (c.acks ≠ 0)) = false := by
  simp [hi, hp, hk, ha, hr]

include hc hq

theorem copyChunk_counts {n : Nat} (hs : c.sent = some n) : copyChunk t c.id s = chunkDone s t c n := by
  simp only [copyChunk, hc, storesAgain_copy hi, copy_ready hi hp hk ha hr, cmdAcquire_free hq, hs, Bool.false_eq_true, if_false, ite_self]

-- `hn` rules out the reading of a CPYT's source, which comes before its first chunk (R307).
variable (hs : c.sent = none) (hn : ∀ x y, c.kind = .cpyt x y → c.snap ≠ none)
include hs hn

/-- Every chunk has been written. -/
theorem copyChunk_ends (h : (chunksOf c.kind)[c.chunk]? = none) : copyChunk t c.id s = s.later (.copyDone t c.id) := by
  simp only [copyChunk, hc, storesAgain_copy hi, copy_ready hi hp hk ha hr, cmdAcquire_free hq, hs, h, Bool.false_eq_true, if_false,
    ite_self]

/-- The next chunk is read and written. -/
theorem copyChunk_writes {ps : List Piece} {ws : List (Nat × List Byte)} {s1 s2 : State} {c2 : Cmd} (h : (chunksOf c.kind)[c.chunk]? = some ps)
    (hf : fetchChunk t c ps s [] = .inr (ws, s1))
    (hw : writeAll t c.id ws (s1.setCmd t { c with st := .running, sent := some (ws.map (fun w => w.2.length)).sum }) = .ok s2)
    (h2 : s2.cmd? t c.id = some c2) :
    copyChunk t c.id s = if c2.acks = 0 then chunkDone s2 t c2 (ws.map (fun w => w.2.length)).sum else progress s2 (some c2.inst) := by
  simp only [copyChunk, hc, storesAgain_copy hi, copy_ready hi hp hk ha hr, cmdAcquire_free hq, hs, h, hf, ← List.sum_eq_foldl, hw, h2,
    Bool.false_eq_true, if_false, ite_self]

end Chunk

/-! ## Loads of contexts (R214, R282) -/

theorem exec_lcbLoadComplete (t : TileId) (cmd : Nat) (s : State) : exec (.lcbLoadComplete t cmd) s = .next (lcbLoad t cmd s) := rfl

section Load
variable {k a : Nat} {b : List Byte} {s1 : State} (hc : (s.tile t).cmds = [c]) (hp : c.pending = true) (hq : c.acq = false)
  (hu : usesCtx (s.tile t) k c.id = false)
include hc

theorem cmd?_only : s.cmd? t c.id = some c := by simp [State.cmd?, hc]

include hu

/-- A load alone on its tile, into a context that no layer uses any more, waits for nothing. -/
theorem loadHeld_only : loadHeld (s.tile t) c k = false := by simp [loadHeld, hc, hu]

include hp hq

theorem lcbLoad_tables (hk : c.kind = .ltload k a) (hr : cmdRead s t c a 8192 = .got b s1) : lcbLoad t c.id s =
    forget (endCmd (s1.setTile t { s1.tile t with lcb := (s1.tile t).lcb.take k false b.toArray }) t c .done) t c := by
  simp [lcbLoad, cmd?_only hc, hk, hp, acqMet_free hq, loadHeld_only hc hu, cmdAcquire_free hq, hr]
theorem lcbLoad_wiring (hk : c.kind = .lwire k a) (hr : cmdRead s t c a 16384 = .got b s1) : lcbLoad t c.id s =
    forget (endCmd (s1.setTile t { s1.tile t with lcb := (s1.tile t).lcb.take k true b.toArray }) t c .done) t c := by
  simp [lcbLoad, cmd?_only hc, hk, hp, acqMet_free hq, loadHeld_only hc hu, cmdAcquire_free hq, hr]

end Load

end Sys2Proof.Machine
end

section
/-! SUPPORT. One layer of an evaluation, and where its result lands (R216, R276 to R281). -/

namespace Sys2Proof.Machine

/-! ## Slots and firings -/

@[simp] theorem setSlotsNat_id (f : Firing) (d v k : Nat) : (f.setSlotsNat d v k).id = f.id := by
  induction k generalizing f d v with
  | zero => rfl
  | succ k ih => exact (ih _ _ _).trans rfl

theorem setSlot_above {f : Firing} (h : tabAbove 0 f.slots = true) (d : Nat) (v : Word) : tabAbove 0 (f.setSlot d v).slots = true :=
  tabAbove_tabPut h (Nat.zero_le d)

theorem slot_setSlotsNat_below (f : Firing) (d v k : Nat) {e : Nat} (h : tabAbove 0 f.slots = true) (he : e < d) :
    (f.setSlotsNat d v k).slot e = f.slot e := by
  induction k generalizing f d v with
  | zero => rfl
  | succ k ih => rw [Firing.setSlotsNat, ih _ _ _ (setSlot_above h _ _) (by omega), Firing.slot_setSlot _ _ _ _ h, if_neg (by omega)]

/-- The slots of a number written from slot d upward (R122). -/
theorem slot_setSlotsNat (f : Firing) (d v k : Nat) {m : Nat} (h : tabAbove 0 f.slots = true) (hm : m < k) :
    (f.setSlotsNat d v k).slot (d + m) = BitVec.ofNat 64 (v / (2 ^ 64) ^ m) := by
  induction k generalizing f d v m with
  | zero => omega
  | succ k ih =>
    have h' := setSlot_above h d (BitVec.ofNat 64 v)
    rw [Firing.setSlotsNat]
    cases m with
    | zero => rw [slot_setSlotsNat_below _ _ _ _ h' (by omega), Firing.slot_setSlot _ _ _ _ h]; simp
    | succ m => rw [show d + (m + 1) = d + 1 + m by omega, ih _ _ _ h' (by omega), Nat.div_div_eq_div_mul, ← Nat.pow_succ']

/-- Firings changed in place, each keeping its identity. -/
theorem firing?_map {x : Tile} {g : Firing → Firing} (h : ∀ f, (g f).id = f.id) (i : Nat) :
    ({ x with firings := x.firings.map g } : Tile).firing? i = (x.firing? i).map g := by
  simp [Tile.firing?, List.find?_map, h]

/-! ## One layer (R277 to R279) -/

theorem wireOut_extract (r : BitVec 128) : wireOut r = (r.extractLsb' 66 11).toNat := by
  simp [wireOut, bitsNat, Nat.shiftRight_eq_div_pow]
theorem wireSel_extract (r : BitVec 128) (k : Nat) : wireSel r k = (r.extractLsb' (11 * k) 11).toNat := by
  rw [wireSel, bitsNat, BitVec.extractLsb'_toNat, Nat.shiftRight_eq_div_pow, show 11 * k + 10 + 1 - 11 * k = 11 by omega]

theorem cellIndex_eq (p : Tab Word) (r : BitVec 128) (i n : Nat) : cellIndex p r i n =
    ((List.range n).map (fun k => if (tabGet 0 p (r.extractLsb' (11 * k) 11).toNat).getLsbD i then 2 ^ k else 0)).sum := by
  induction n with
  | zero => rfl
  | succ n ih => rw [cellIndex, ih, List.sum_range_succ, wireSel_extract]

/-- Each sample of a cell takes its own bit of the table. -/
theorem cellValue_bit (p : Tab Word) (r : BitVec 128) (table : Word) {i : Nat} (hi : i < 64) :
    (BitVec.ofNat 64 (cellValue p r table 64)).getLsbD i = table.getLsbD (cellIndex p r i 6) := by
  have hd := digitSum_digit (F := cellValue p r table) (d := fun i => (table.getLsbD (cellIndex p r i 6)).toNat) (b := 2) rfl
    (fun n => by rw [cellValue]; cases table.getLsbD (cellIndex p r n 6) <;> simp) (fun n => Bool.toNat_lt _) hi
  simp only [BitVec.getLsbD_ofNat, hi, decide_true, Bool.true_and, Nat.testBit_eq_decide_div_mod_eq, hd]
  cases table.getLsbD (cellIndex p r i 6) <;> rfl

section Layer
variable (l : Lcb) (c : Nat) (old : Tab Word)

/-- The wiring record of cell m of a context, and the value that it gives its signal. -/
def Lcb.wire (m : Nat) : BitVec 128 := tabGet 0 l.wiring (c * 1024 + m)
def Lcb.cell (m : Nat) : Word := BitVec.ofNat 64 (cellValue old (l.wire c m) (tabGet 0 l.tables (c * 1024 + m)) 64)

theorem runLayer_succ (n : Nat) (new : Tab Word) : runLayer l c old (n + 1) new =
    if wireOe (l.wire c n) then tabPut 0 (runLayer l c old n new) (wireOut (l.wire c n)) (l.cell c old n) else runLayer l c old n new := rfl

theorem runLayer_above (n : Nat) {new : Tab Word} (h : tabAbove 0 new = true) : tabAbove 0 (runLayer l c old n new) = true := by
  induction n with
  | zero => exact h
  | succ n ih =>
    rw [runLayer_succ]
    split
    · exact tabAbove_tabPut ih (Nat.zero_le _)
    · exact ih

theorem runLayer_get (n k : Nat) {new : Tab Word} (h : tabAbove 0 new = true) : tabGet 0 (runLayer l c old (n + 1) new) k =
    if wireOe (l.wire c n) = true ∧ k = wireOut (l.wire c n) then l.cell c old n else tabGet 0 (runLayer l c old n new) k := by
  rw [runLayer_succ]
  split
  case isTrue ho => simp only [ho, true_and, tabGet_tabPut 0 _ _ _ _ (runLayer_above l c old n h)]
  case isFalse ho => rw [if_neg fun hk => ho hk.1]

/-- A signal that no evaluated cell writes stays. -/
theorem runLayer_unwritten {n k : Nat} {new : Tab Word} (h : tabAbove 0 new = true)
    (hk : ∀ m < n, wireOe (l.wire c m) = true → wireOut (l.wire c m) ≠ k) : tabGet 0 (runLayer l c old n new) k = tabGet 0 new k := by
  induction n with
  | zero => rfl
  | succ n ih =>
    rw [runLayer_get l c old n k h, if_neg (fun ⟨ho, e⟩ => hk n n.lt_succ_self ho e.symm), ih fun m hm => hk m (by omega)]

/-- A signal that one evaluated cell alone writes has that cell's value. -/
theorem runLayer_written {n m : Nat} {new : Tab Word} (h : tabAbove 0 new = true) (hm : m < n) (ho : wireOe (l.wire c m) = true)
    (hu : ∀ m' < n, wireOe (l.wire c m') = true → wireOut (l.wire c m') = wireOut (l.wire c m) → m' = m) :
    tabGet 0 (runLayer l c old n new) (wireOut (l.wire c m)) = l.cell c old m := by
  induction n with
  | zero => omega
  | succ n ih =>
    rw [runLayer_get l c old n _ h]
    split
    case isTrue hn => rw [hu n n.lt_succ_self hn.1 hn.2.symm]
    case isFalse hn =>
      have hne : m ≠ n := fun e => hn (e ▸ ⟨ho, rfl⟩)
      exact ih (by omega) fun m' hm' => hu m' (by omega)

end Layer

/-! ## The block's step (R216, R280) -/

theorem exec_levalLayer (t : TileId) (s : State) : exec (.levalLayer t) s = .next (levalStep t s) := rfl

/-- The eight signals of a result, as the slots take them. -/
theorem resultOctet_signal (p : Tab Word) (sig : Nat) {m : Nat} (hm : m < 8) :
    BitVec.ofNat 64 (resultOctet p sig 8 / (2 ^ 64) ^ m) = tabGet 0 p (sig + m) := by
  rw [← ofNat_mod, digitSum_digit (F := resultOctet p sig) (d := fun m => (tabGet 0 p (sig + m)).toNat) rfl
    (fun n => by rw [← Nat.pow_mul]; rfl) (fun n => (tabGet 0 p (sig + n)).isLt) hm]
  exact BitVec.eq_of_toNat_eq (by simp)

section Eval
variable {s : State} {t : TileId} {j : LevalJob}

theorem struck_none (he : s.errs = []) (u k : Nat) : s.struck u k = false := by simp [State.struck, he]

/-- The plane after the next layer of an evaluation. -/
def nextPlane (l : Lcb) (j : LevalJob) : Tab Word := runLayer l (ctxOfLayer (j.ac l.ac) j.next) l.plane 1024 l.plane

/-- A firing after the end of an evaluation: its owner has the result, unless it is an orphan. -/
def landResult (j : LevalJob) (v : Nat) (f : Firing) : Firing :=
  if f.id = j.owner && !j.orphan then
    landValue { f with pend := f.pend.filter (fun q => !(q.src == .leval && decide (q.d = 8 * j.q.toNat))) } .octet (8 * j.q.toNat) v
  else f

theorem landResult_id (j : LevalJob) (v : Nat) (f : Firing) : (landResult j v f).id = f.id := by
  unfold landResult
  split
  · exact setSlotsNat_id _ _ _ _
  · rfl

/-- The owner's octet holds the result. -/
theorem landResult_slot {f : Firing} (p : Tab Word) (hi : f.id = j.owner) (ho : j.orphan = false) (hw : tabAbove 0 f.slots = true) {m : Nat}
    (hm : m < 8) : (landResult j (resultOctet p j.sig 8) f).slot (8 * j.q.toNat + m) = tabGet 0 p (j.sig + m) := by
  rw [landResult, hi, ho, if_pos (by simp), ← resultOctet_signal p j.sig hm]
  exact slot_setSlotsNat _ _ _ _ hw hm

theorem finishEval_eq (p : Tab Word) : finishEval s t j p = wakeTile (progress (s.setTile t { s.tile t with
    lcb := { (s.tile t).lcb with plane := p, job := none }
    firings := (s.tile t).firings.map (landResult j (resultOctet p j.sig 8)) }) (s.tile t).inst) t := rfl

theorem finishEval_firing (p : Tab Word) (i : Nat) :
    (finishEval s t j p).firing? t i = (s.firing? t i).map (landResult j (resultOctet p j.sig 8)) := by
  rw [State.firing?, finishEval_eq, wakeTile_tile, progress_tile, State.tile_setTile_self]
  exact firing?_map (x := { s.tile t with lcb := _ }) (landResult_id j _) i

@[simp] theorem finishEval_mem (p : Tab Word) : (finishEval s t j p).mem = s.mem := by simp [finishEval_eq]
@[simp] theorem finishEval_lcb (p : Tab Word) : ((finishEval s t j p).tile t).lcb = { (s.tile t).lcb with plane := p, job := none } := by
  simp [finishEval_eq]

theorem firing_id {i : Nat} {f : Firing} (h : s.firing? t i = some f) : f.id = i := by
  simpa using List.find?_some h

section Step
variable (hj : (s.tile t).lcb.job = some j) (he : s.errs = []) (hb : j.bound = true) (hf : j.failed = false) (hs : j.settled = true)
  (hh : (s.tile t).halting = false) (ha : (s.tile t).atHalt = false)
  (hl : loadBefore (s.tile t) (ctxOfLayer (j.ac (s.tile t).lcb.ac) j.next) j.stamp = false)
  (hv : (s.tile t).lcb.invalid.getLsbD (ctxOfLayer (j.ac (s.tile t).lcb.ac) j.next) = false)
include hj he hb hf hs hh ha hl hv

/-- A layer with nothing in its way: the next one is due, or the result lands. -/
theorem levalStep_layer : levalStep t s =
    if j.next + 1 < j.n then
      progress (s.setLcb t { (s.tile t).lcb with plane := nextPlane (s.tile t).lcb j, job := some { j with next := j.next + 1 } }) (s.tile t).inst
    else finishEval s t j (nextPlane (s.tile t).lcb j) := by
  have hgo : ((s.tile t).halting || (s.tile t).atHalt) = false := by simp [hh, ha]
  simp only [levalStep, settleEval, runEval, hgo, hj, hf, hb, hs, hl, hv, struck_none he, Bool.or_false, Bool.true_or,
    Bool.not_true, Bool.false_eq_true, if_false, if_true]
  rfl

theorem levalStep_mem : (levalStep t s).mem = s.mem := by
  rw [levalStep_layer hj he hb hf hs hh ha hl hv]
  split <;> simp [State.setLcb]

theorem levalStep_lcb : ((levalStep t s).tile t).lcb = { (s.tile t).lcb with
    plane := nextPlane (s.tile t).lcb j, job := if j.next + 1 < j.n then some { j with next := j.next + 1 } else none } := by
  rw [levalStep_layer hj he hb hf hs hh ha hl hv]
  split <;> simp [State.setLcb]

/-- After the last layer the result is in the slots of the firing that asked for it. -/
theorem levalStep_result (hn : j.n ≤ j.next + 1) (ho : j.orphan = false) {f : Firing} (hr : s.firing? t j.owner = some f)
    (hw : tabAbove 0 f.slots = true) : ∃ g, (levalStep t s).firing? t j.owner = some g ∧
      ∀ m < 8, g.slot (8 * j.q.toNat + m) = tabGet 0 (nextPlane (s.tile t).lcb j) (j.sig + m) := by
  rw [levalStep_layer hj he hb hf hs hh ha hl hv, if_neg (Nat.not_lt.2 hn), finishEval_firing, hr]
  exact ⟨_, rfl, fun m hm => landResult_slot _ (firing_id hr) ho hw hm⟩

end Step
end Eval

end Sys2Proof.Machine
end

section
/-! The steps of the engines: O47. -/

namespace Sys2Proof.Machine

/-- Settles O47, engine by engine: each step by the lemma that says what it does; the sums of a product and the cells of a layer by what the
bank and the signal plane hold after it. -/
theorem engineStepsMoveTheirCommands : Obligations.EngineStepsMoveTheirCommands := by
  intro s t
  refine ⟨?fill, ?product, ?copy, ?load, ?layer, fun c n hc hp => ?failure, ?port⟩
  case fill =>
    intro c o d tr tc wake bit b s1 hc hk hp ha hb hr
    have step := fillToken_takes hc hk hp ha hb hr
    refine ⟨fun h => ?_, fun h => ⟨?_, rfl, rfl⟩, fun i x _ hx => readPlane_beyond hr ?_⟩
    · rw [exec_omfillReceive, step, if_pos h]; rfl
    · rw [exec_omfillReceive, step, if_neg (Nat.not_lt.2 h)]; rfl
    · rwa [show (64 * (c.chunk % 16) + i) % 16 = i % 16 by omega]
  case product =>
    intro j rest hq he ha pa pb row weight sum old
    have hweight : ∀ sg n p, weight sg n p = planeWeight sg n p := fun sg n p => (planeWeight_eq sg n p).symm
    have hsum : sum = mmaSum j := by
      funext i k
      simp only [sum, hweight]
      rfl
    refine ⟨_, by rw [exec_mmaComplete, meStep_adds hq he], ?_⟩
    simp only [wakeTile_tile, wakeTile_mem, progress_tile, progress_mem, State.setMe, State.setTile_mem, State.tile_setTile_self, hsum,
      true_and]
    exact ⟨fun i k hi hk => mmaBank_element ha j hi hk, if_congr (mmaBank_over ha j) rfl rfl⟩
  case copy =>
    intro c hc hi hp hk
    refine ⟨by rw [exec_copyDone, copyDone_posts hc hi hp hk], fun ha hr hq hn =>
      ⟨fun hs h => ?_, fun ps ws s1 s2 c2 hs h hf hw h2 => ?_, fun n hs hm => ?_⟩⟩
    · rw [exec_copyChunk, copyChunk_ends hc hi hp hk ha hr hq hs hn h]
    · rw [exec_copyChunk, copyChunk_writes hc hi hp hk ha hr hq hs hn h hf hw h2]
    · rw [exec_copyChunk, copyChunk_counts hc hi hp hk ha hr hq hs, chunkDone_counts hm]
  case load =>
    intro c k a b s1 hc hp hq hu
    refine ⟨fun hk hr => ?_, fun hk hr => ?_⟩
    · rw [exec_lcbLoadComplete, lcbLoad_tables hc hp hq hu hk hr]; rfl
    · rw [exec_lcbLoadComplete, lcbLoad_wiring hc hp hq hu hk hr]; rfl
  case layer =>
    intro j hj he hw hb hf hs hh ha l c hl hv wire out
    have hwire : ∀ m, wire m = l.wire c m := fun m => by rw [Lcb.wire, Nat.mul_comm c]
    have hout : ∀ m, out m = wireOut (l.wire c m) := fun m => by rw [wireOut_extract, ← hwire]
    have hlcb := levalStep_lcb hj he hb hf hs hh ha hl hv
    refine ⟨levalStep t s, exec_levalLayer t s, levalStep_mem hj he hb hf hs hh ha hl hv, fun hn => ?_, fun hn => ⟨?_, fun ho f hf' hw' => ?_⟩, fun n hn => ?_,
      fun m hm ho hu i hi => ?_⟩
    · simp only [hlcb, if_pos hn]
    · simp only [hlcb, if_neg (Nat.not_lt.2 hn)]
    · rw [hlcb]
      exact levalStep_result hj he hb hf hs hh ha hl hv hn ho hf' hw'
    · rw [hlcb]
      exact runLayer_unwritten l c l.plane hw fun m hm ho => hout m ▸ hn m hm (hwire m ▸ ho)
    · simp only [hout, hwire] at ho hu ⊢
      have hcell : tabGet 0 (nextPlane l j) (wireOut (l.wire c m)) = l.cell c l.plane m := runLayer_written l c l.plane hw hm ho hu
      rw [hlcb, hcell, Lcb.cell, cellValue_bit _ _ _ hi, cellIndex_eq, Nat.mul_comm c]
  case failure => rw [exec_commandFailure, commandFailure_fails hc hp]
  case port =>
    intro p k o hh hs m hc hf ha hn hl
    refine ⟨_, by rw [exec_mePortFill, mePort_takes hh hs hc hf ha hn hl], by simp, ?_⟩
    rw [wakeTile_tile, progress_tile, addSkip_slotOf, setOm_slotOf]
    rfl

end Sys2Proof.Machine
end

section
/-! SUPPORT. The network that holds one token (R38 to R41, R44 to R46, R189, R229). -/

namespace Sys2Proof.Machine

theorem exec_routeToken (n : Nat) (s : State) : exec (.routeToken n) s = .next (routeTok n s) := rfl
theorem exec_tokenReceive (n : Nat) (s : State) : exec (.tokenReceive n) s = .next (receiveTok n s) := rfl
theorem exec_tokenResend (n : Nat) (s : State) : exec (.tokenResend n) s = .next (resendTok n s) := rfl
theorem exec_reqToken (t : TileId) (node port first n : Nat) (s : State) :
    exec (.reqToken t node port first n) s = .next (coverMore s t (portKey node port) first n) := rfl
theorem exec_reconfCtrl (t : TileId) (node port d : Nat) (s : State) :
    exec (.reconfCtrl t node port d) s = .next (reconfEdge t node port d s) := rfl

/-! ## The way to a tile (R38) -/

theorem nearer_eq {a d x : Nat} (h : (a < d ∧ x = a + 1) ∨ (d < a ∧ x + 1 = a)) : nearer a d = x := by
  unfold nearer
  split_ifs <;> omega

theorem hopTo_column {a d : TileId} {x : Nat} (h : (a.x < d.x ∧ x = a.x + 1) ∨ (d.x < a.x ∧ x + 1 = a.x)) :
    hopTo a d = { a with x := x } := by
  rw [hopTo, if_pos (by omega), nearer_eq h]

theorem hopTo_row {a d : TileId} {y : Nat} (hx : a.x = d.x) (h : (a.y < d.y ∧ y = a.y + 1) ∨ (d.y < a.y ∧ y + 1 = a.y)) :
    hopTo a d = { a with y := y } := by
  rw [hopTo, if_neg (not_not.2 hx), nearer_eq h]

section Hop
variable {s : State} {n : NetTok}

theorem nextHop_here (hd : n.tok.dev.toNat = s.dev) (ha : n.at_ = n.tok.tile) :
    nextHop s n = .here n.tok.node.toNat n.tok.port.toNat := by
  have hs : n.tok.stk.toNat = n.at_.stk := by rw [ha]; rfl
  simp [nextHop, hd, hs, ha]

theorem nextHop_toward (hd : n.tok.dev.toNat = s.dev) (hs : n.tok.stk.toNat = n.at_.stk) (ha : n.at_ ≠ n.tok.tile) :
    nextHop s n = .tile (hopTo n.at_ n.tok.tile) := by
  simp [nextHop, hd, hs, ha]

theorem nextHop_noRoute (hd : n.tok.dev.toNat ≠ s.dev) (hr : tabFind (s.stack n.at_.stk).routes n.tok.dev.toNat = none) :
    nextHop s n = .noRoute := by
  simp [nextHop, hd, hr]

theorem canGo_noRoute (hb : s.badHops = []) (hh : nextHop s n = .noRoute) : canGo s n = true := by
  simp [canGo, hh, hb]

theorem canGo_here {p q : Nat} (hb : s.badHops = []) (hh : nextHop s n = .here p q) (ha : arrive s n.at_ n.tok n.direct ≠ .wait) :
    canGo s n = true := by
  cases h : arrive s n.at_ n.tok n.direct <;> simp_all [canGo]

theorem canGo_wait {p q : Nat} (hb : s.badHops = []) (hh : nextHop s n = .here p q) (ha : arrive s n.at_ n.tok n.direct = .wait) :
    canGo s n = false := by
  simp [canGo, hh, hb, ha]

end Hop

/-! ## What its output grants (R39) -/

section Lone
variable {s : State} {n : NetTok} (hn : s.net = [n])
include hn

theorem find_lone : s.net.find? (fun m => m.id == n.id) = some n := by simp [hn]

theorem dropNet_lone : s.dropNet n.id = { s with net := [] } := by simp [State.dropNet, hn]

theorem resendTok_lone : resendTok n.id s = { s with net := [{ n with refused := false }] } := by simp [resendTok, hn]

/-- A token alone is the head of the one queue of its priority. -/
theorem queueHeads_lone : queueHeads s n.at_ (nextHop s n) = [n] := by
  have hp := n.tok.pri.isLt
  simp only [queueHeads, hn, List.filter_cons, decide_true, Bool.and_self, if_true, List.filter_nil]
  interval_cases h : n.tok.pri.toNat <;> simp [h]

theorem granted_lone (hr : n.refused = false) : granted s n.at_ (nextHop s n) = if canGo s n then some n else none := by
  cases hc : canGo s n <;> simp [granted, queueHeads_lone hn, hr, hc]

/-- The queue of another router is empty, so it has a place. -/
theorem canGo_tile (hb : s.badHops = []) {b : TileId} (hh : nextHop s n = .tile b) (ha : n.at_ ≠ b) : canGo s n = true := by
  simp [canGo, hh, hb, hn, ha]

/-! ## One hop (R38, R46) -/

variable {f : State → NetTok → State}

theorem hopStep_stays (hr : n.refused = false) (hc : canGo s n = false) : hopStep s n.id f = s := by
  simp [hopStep, find_lone hn, granted_lone hn hr, hc]

variable (hr : n.refused = false) (hb : s.badHops = []) (he : s.errs = [])
include hr hb

theorem hopStep_noRoute (hh : nextHop s n = .noRoute) : hopStep s n.id f =
    postNodeFault ((noteGrant s n).dropNet n.id) n.src n.tok.ctx.toNat (hopStep.fabricTok s n) n.tok.node.toNat n.tok.tag.toNat
      .discarded := by
  have hg := granted_lone hn hr
  rw [canGo_noRoute hb hh, hh] at hg
  simp [hopStep, find_lone hn, hh, hg, hb]

include he

theorem hopStep_tile {b : TileId} (hh : nextHop s n = .tile b) (ha : n.at_ ≠ b) :
    ∃ g, hopStep s n.id f = { s with grants := g, net := [{ n with at_ := b, tries := 0 }] } := by
  have hg := granted_lone hn hr
  rw [canGo_tile hn hb hh ha, hh] at hg
  refine ⟨(noteGrant s n).grants, ?_⟩
  simp [hopStep, hh, hg, hb, struck_none he, moveTok, State.dropNet, noteGrant, hn]

theorem hopStep_here {p q : Nat} (hh : nextHop s n = .here p q) (ha : arrive s n.at_ n.tok n.direct ≠ .wait) :
    hopStep s n.id f = f (noteGrant s n) n := by
  have hg := granted_lone hn hr
  rw [canGo_here hb hh ha, hh] at hg
  simp [hopStep, find_lone hn, hh, hg, hb, struck_none he]

end Lone

/-! ## ROUTE_TOKEN and TOKEN_RECEIVE of a token alone (R38, R44 to R46) -/

section Route
variable {s : State} {n : NetTok} (hn : s.net = [n])
include hn

theorem routeTok_here {p q : Nat} (hh : nextHop s n = .here p q) : routeTok n.id s = s.later (.tokenReceive n.id) := by
  simp [routeTok, find_lone hn, hh]

theorem receiveTok_here {p q : Nat} (hh : nextHop s n = .here p q) : receiveTok n.id s = hopStep s n.id landTok := by
  simp [receiveTok, find_lone hn, hh]

variable (hr : n.refused = false) (hb : s.badHops = [])
include hr hb

theorem receiveTok_waits {p q : Nat} (hh : nextHop s n = .here p q) (ha : arrive s n.at_ n.tok n.direct = .wait) :
    receiveTok n.id s = s := by
  rw [receiveTok_here hn hh, hopStep_stays hn hr (canGo_wait hb hh ha)]

theorem routeTok_noRoute (hh : nextHop s n = .noRoute) : ∃ e g, e.code = .fabric ∧ routeTok n.id s =
    postNodeFault { s with net := [], grants := g } n.src n.tok.ctx.toNat e n.tok.node.toNat n.tok.tag.toNat .discarded := by
  refine ⟨hopStep.fabricTok s n, (noteGrant s n).grants, rfl, ?_⟩
  have hd : (noteGrant s n).dropNet n.id = { noteGrant s n with net := [] } := dropNet_lone (s := noteGrant s n) hn
  simp only [routeTok, find_lone hn, Option.map_some, hh, hopStep_noRoute hn hr hb hh, hd]
  rfl

variable (he : s.errs = [])
include he

theorem routeTok_tile {b : TileId} (hh : nextHop s n = .tile b) (ha : n.at_ ≠ b) :
    ∃ g, routeTok n.id s = { s with grants := g, net := [{ n with at_ := b, tries := 0 }] } := by
  simp only [routeTok, find_lone hn, Option.map_some, hh]
  exact hopStep_tile hn hr hb he hh ha

/-- A token that its tile refuses leaves the network with a record. The grants, which the hop changes, are free for the arrival. -/
theorem receiveTok_discards {p q sub : Nat} (hh : nextHop s n = .here p q)
    (ha : ∀ g, arrive { s with grants := g } n.at_ n.tok n.direct = .bad sub) : ∃ g, receiveTok n.id s =
      tokenRecord { s with net := [], grants := g } n.at_ n.tok sub (if sub = 8 then n.tok.header % 2 ^ 64 else n.tok.node.toNat) := by
  refine ⟨(noteGrant s n).grants, ?_⟩
  have h1 : arrive s n.at_ n.tok n.direct = .bad sub := ha s.grants
  have h2 : arrive (noteGrant s n) n.at_ n.tok n.direct = .bad sub := ha _
  rw [receiveTok_here hn hh, hopStep_here hn hr hb he hh (by simp [h1]), landTok, h2]
  simp only [dropNet_lone (s := noteGrant s n) hn]
  rfl

/-- A token that its tile accepts leaves the network, and what it does to the tile stands. -/
theorem receiveTok_accepts {p q : Nat} {x : Tile} (hh : nextHop s n = .here p q)
    (ha : ∀ g, arrive { s with grants := g } n.at_ n.tok n.direct = .done (State.setTile { s with grants := g } n.at_ x)) :
    ∃ g, receiveTok n.id s = progress (State.setTile { s with net := [], grants := g } n.at_ x) x.inst := by
  refine ⟨(noteGrant s n).grants, ?_⟩
  have h1 : arrive s n.at_ n.tok n.direct = .done (s.setTile n.at_ x) := ha s.grants
  have h2 : arrive (noteGrant s n) n.at_ n.tok n.direct = .done ((noteGrant s n).setTile n.at_ x) := ha _
  rw [receiveTok_here hn hh, hopStep_here hn hr hb he hh (by simp [h1]), landTok, h2]
  simp only [State.tile_setTile_self, dropNet_lone (s := (noteGrant s n).setTile n.at_ x) hn]
  rfl

end Route

end Sys2Proof.Machine
end

section
/-! SUPPORT. Edges: requests that cover positions, changes of depth, and tokens that commit at an actor's port (R40, R41, R44, R45, R48,
R189, R229). -/

namespace Sys2Proof.Machine

theorem mem_of_tabFind {α : Type} {t : Tab α} {k : Nat} {v : α} (h : tabFind t k = some v) : (k, v) ∈ t := by
  induction t with
  | nil => simp at h
  | cons p r ih =>
    rw [tabFind] at h
    split_ifs at h with h1 h2
    · cases h2
      cases h
      exact List.mem_cons_self
    · exact List.mem_cons_of_mem _ (ih h)

@[simp] theorem progress_net (s : State) (i : Option Nat) : (progress s i).net = s.net := by
  unfold progress
  split <;> rfl

/-! ## Requests (R40) -/

/-- A request that names the first position not covered, where none waits, covers what it asks. -/
theorem coverMore_next {s : State} {t : TileId} {key : Nat} {o : OutEdge} (count : Nat) (ho : tabFind (s.tile t).outs key = some o)
    (hw : o.waiting = []) (hq : o.reqs = []) :
    coverMore s t key o.covered count = s.setOut t key { o with covered := o.covered + count } := by
  have hd : (o.covered + 2 ^ 16 - o.covered % 2 ^ 16) % 2 ^ 16 = 0 := by omega
  have hc : coverChain (o.reqs.length + 1) { o with reqs := o.reqs ++ [(o.covered + 0, count)] } = { o with covered := o.covered + count } := by
    cases o
    simp_all [coverChain]
  simp only [coverMore, ho, hd, show 0 < 2 ^ 15 by decide, if_true, hc]
  rw [hw]
  rfl

/-! ## Changes of depth (R48, R188, R269) -/

/-- An edge to be shortened: it has the new depth once nothing is on it, and keeps the change waiting till then. -/
def Edge.shortened (e : Edge) (d : Nat) : Edge :=
  if e.early = [] ∧ e.fifo = [] ∧ e.asked ≤ e.arrived then { e with depth := d, reconf := none } else { e with reconf := some d }

theorem Edge.shortened_empty {e : Edge} {d : Nat} (h1 : e.early = []) (h2 : e.fifo = []) (h3 : e.asked ≤ e.arrived) :
    e.shortened d = { e with depth := d, reconf := none } := if_pos ⟨h1, h2, h3⟩
theorem Edge.shortened_waits {e : Edge} {d : Nat} (h : e.fifo ≠ []) : e.shortened d = { e with reconf := some d } :=
  if_neg fun ⟨_, h2, _⟩ => h h2

/-- Of a tile, a change of depth touches the edges alone, and of its edge the depth and the waiting change. -/
theorem applyReconf_edge {x : Tile} {e : Edge} {j : Nat} (key : Nat) (h : tabFind x.edges j = some e) :
    (applyReconf x key).tagP = x.tagP ∧ ∃ d r, tabFind (applyReconf x key).edges j = some { e with depth := d, reconf := r } := by
  have same : x.tagP = x.tagP ∧ ∃ d r, tabFind x.edges j = some { e with depth := d, reconf := r } := ⟨rfl, _, _, h⟩
  unfold applyReconf
  split
  · exact same
  next e1 h1 =>
    split
    · exact same
    next d _ =>
      dsimp only
      generalize (if d < e1.depth then _ else _ : Bool) = ok
      cases ok with
      | false => exact same
      | true =>
        refine ⟨rfl, ?_⟩
        by_cases hj : j = key
        · subst hj
          cases h.symm.trans h1
          exact ⟨d, none, tabFind_tabSet_self _ _ _⟩
        · exact ⟨e.depth, e.reconf, (tabFind_tabSet_ne _ _ hj).trans h⟩

theorem applyReconf_ne (x : Tile) {key j : Nat} (hj : j ≠ key) : tabFind (applyReconf x key).edges j = tabFind x.edges j := by
  unfold applyReconf
  split
  · rfl
  · split
    · rfl
    · dsimp only
      split_ifs <;> simp [tabFind_tabSet_ne _ _ hj]

theorem applyReconf_shortens {x : Tile} {e : Edge} {key d : Nat} (h : tabFind x.edges key = some { e with reconf := some d })
    (hd : d < e.depth) : tabFind (applyReconf x key).edges key = some (e.shortened d) := by
  by_cases hc : e.early = [] ∧ e.fifo = [] ∧ e.asked ≤ e.arrived
  · simp [applyReconf, h, hd, Edge.shortened, hc]
  · have ho : (e.early.isEmpty && e.fifo.isEmpty && decide (e.asked ≤ e.arrived)) = false := by simpa [and_assoc] using hc
    simp [applyReconf, h, hd, Edge.shortened, hc, ho]

theorem applyReconf_shortened {x : Tile} {e : Edge} {key d : Nat} (h : tabFind x.edges key = some (e.shortened d))
    (hd : d < e.depth) : tabFind (applyReconf x key).edges key = some (e.shortened d) := by
  by_cases hc : e.early = [] ∧ e.fifo = [] ∧ e.asked ≤ e.arrived
  · have hs : e.shortened d = { e with depth := d, reconf := none } := if_pos hc
    rw [hs] at h ⊢
    simp [applyReconf, h]
  · refine applyReconf_shortens ?_ hd
    rw [h, Edge.shortened, if_neg hc]

theorem reconfAll_edge {x : Tile} {e : Edge} {j : Nat} (h : tabFind x.edges j = some e) :
    (reconfAll x).tagP = x.tagP ∧ ∃ d r, tabFind (reconfAll x).edges j = some { e with depth := d, reconf := r } := by
  refine List.foldlRecOn (motive := fun y : Tile => y.tagP = x.tagP ∧ ∃ d r, tabFind y.edges j = some { e with depth := d, reconf := r })
    x.edges _ ⟨rfl, _, _, h⟩ fun y ⟨hp, d, r, hy⟩ p _ => ?_
  split
  · obtain ⟨hp', d', r', hy'⟩ := applyReconf_edge p.1 hy
    exact ⟨hp'.trans hp, d', r', hy'⟩
  · exact ⟨hp, d, r, hy⟩

/-- The edge with the waiting change is among those looked at. -/
theorem reconfAll_shortens {x : Tile} {e : Edge} {key d : Nat} (h : tabFind x.edges key = some { e with reconf := some d })
    (hd : d < e.depth) : tabFind (reconfAll x).edges key = some (e.shortened d) := by
  have look : ∀ (y : Tile) (p : Nat × Edge),
      tabFind y.edges key = some { e with reconf := some d } ∨ tabFind y.edges key = some (e.shortened d) →
      let z := if p.2.reconf.isSome then applyReconf y p.1 else y
      (tabFind z.edges key = tabFind y.edges key ∨ tabFind z.edges key = some (e.shortened d)) ∧
      (p.1 = key → p.2.reconf.isSome → tabFind z.edges key = some (e.shortened d)) := by
    intro y p hy
    have here : tabFind (applyReconf y key).edges key = some (e.shortened d) :=
      hy.elim (applyReconf_shortens · hd) (applyReconf_shortened · hd)
    by_cases hr : p.2.reconf.isSome
    · simp only [hr, if_true]
      by_cases hk : p.1 = key
      · rw [hk]
        exact ⟨.inr here, fun _ _ => here⟩
      · exact ⟨.inl (applyReconf_ne y (Ne.symm hk)), fun h => absurd h hk⟩
    · simp [hr]
  refine (foldl_establishes
    (fun y : Tile => tabFind y.edges key = some { e with reconf := some d } ∨ tabFind y.edges key = some (e.shortened d))
    (fun (p : Nat × Edge) y => p.1 = key → p.2.reconf.isSome → tabFind y.edges key = some (e.shortened d)) ?keep
    (fun y p hy => (look y p hy).2) ?others x.edges x (.inl h)).2 _ (mem_of_tabFind h) rfl rfl
  case keep => exact fun y p hy => (look y p hy).1.elim (fun hz => hz.symm ▸ hy) .inr
  case others => exact fun y p q hi hy h1 h2 => (look y p hi).1.elim (·.trans (hy h1 h2)) id

theorem reconfEdge_shortens {s : State} {t : TileId} {node port d : Nat} {e : Edge}
    (h : tabFind (s.tile t).edges (portKey node port) = some e) (hd : d < e.depth) :
    (reconfEdge t node port d s).mem = s.mem ∧
    tabFind ((reconfEdge t node port d s).tile t).edges (portKey node port) = some (e.shortened d) := by
  simp only [reconfEdge, h, State.setTile_mem, State.tile_setTile_self, true_and]
  exact reconfAll_shortens (tabFind_tabSet_self _ _ _) hd

/-! ## Tokens that commit (R44, R45, R189, R229) -/

theorem materialise_unskipped {k : Token} (h : k.skip = 0) : materialise k = [k] := by simp [materialise, h]

theorem landTokens_edge {x : Tile} {node port : Nat} {e : Edge} (k : Token) (h : tabFind x.edges (portKey node port) = some e) :
    ∃ q : FTok, q.tok = k ∧ tabFind (landTokens x node port [k]).edges (portKey node port) = some { e with fifo := e.fifo ++ [q] } :=
  ⟨{ tok := k, indexed := canIndex x.matching node k.tag, stamp := x.stamp + 1 }, rfl, by simp [landTokens, h]⟩

theorem landTokens_tagP (x : Tile) (node port : Nat) (k : Token) : (landTokens x node port [k]).tagP =
    tabSet x.tagP node (tabGet 0 x.tagP node ||| BitVec.ofNat 16 (2 ^ port)) := by
  simp only [landTokens]
  split <;> rfl

theorem landTokens_pending (x : Tile) (node : Nat) {port : Nat} (k : Token) (h : port < 16) :
    ((landTokens x node port [k]).tagPend node).getLsbD port = true := by
  rw [Tile.tagPend, landTokens_tagP, tabGet_tabSet_self, BitVec.getLsbD_or, BitVec.getLsbD_ofNat]
  simp [h, Nat.testBit_two_pow_self]

/-- An edge that takes the token k, of its next position. -/
def Edge.advance (e : Edge) (k : Token) : Edge := { e with expect := k.seq + 1, arrived := e.arrived + 1 }

section Take
variable {e : Edge} {k : Token} {bad : Token → Bool} (hs : k.skip = 0) (hq : k.seq = e.expect) (hb : bad k = false)
include hs hq hb

theorem Edge.take_full (h : e.depth ≤ e.fifo.length) : e.take bad k = .full := by
  simp [Edge.take, hs, hq, hb, h]

theorem Edge.take_next (h : e.fifo.length < e.depth) (he : e.early = []) :
    e.take bad k = .commit (e.advance k) [k] none := by
  simp [Edge.take, Edge.advance, hs, hq, hb, Nat.not_le.2 h, he, commitChain]

end Take

/-! ## A token at its tile (R40, R41, R46) -/

theorem arrive_malformed {s : State} {t : TileId} {k : Token} (direct : Bool) (hm : k.malformed = true)
    (h : (s.tile t).inst = none ∨ k.kind = 1 ∨ k.kind = 2) : arrive s t k direct = .bad 8 := by
  rcases h with h | h | h <;> simp [arrive, hm, h, kReq, kCtrl]

/-- The tile of an actor after the token k, in order, has committed at its edge e. -/
def landed (x : Tile) (e : Edge) (k : Token) : Tile :=
  let key := portKey k.node.toNat k.port.toNat
  reconfAll (landTokens { x with edges := tabSet x.edges key (e.advance k) } k.node.toNat k.port.toNat [k])

theorem landed_spec (x : Tile) (e : Edge) (k : Token) : ∃ (e2 : Edge) (q : FTok),
    tabFind (landed x e k).edges (portKey k.node.toNat k.port.toNat) = some e2 ∧ e2.fifo = e.fifo ++ [q] ∧ q.tok = k ∧
    e2.expect = k.seq + 1 ∧ e2.arrived = e.arrived + 1 ∧ ((landed x e k).tagPend k.node.toNat).getLsbD k.port.toNat = true := by
  obtain ⟨q, hq, hl⟩ := landTokens_edge (x := { x with edges := tabSet x.edges _ (e.advance k) }) k (tabFind_tabSet_self _ _ _)
  obtain ⟨hp, d, r, hf⟩ := reconfAll_edge hl
  refine ⟨_, q, hf, rfl, hq, rfl, rfl, ?_⟩
  rw [Tile.tagPend, landed, hp]
  exact landTokens_pending _ _ _ k.port.isLt

theorem isActor_node {x : Tile} {node : Nat} (h : x.isActor node = true) : 18 ≤ node := by simp_all [Tile.isActor]
theorem isArrival_actor {node : Nat} (x : Tile) (h : 18 ≤ node) : isArrival x node = false := by
  simp [isArrival, show node ≠ 10 by omega]
theorem kindOk_actor {node : Nat} {k : Token} (x : Tile) (h : 18 ≤ node) (hk : k.kind = 0) : kindOk x node k = true := by
  simp [kindOk, h, hk, kReq, kCtrl, kFill]
theorem placeless_data {k : Token} (hk : k.kind = 0) : placeless k = false := by simp [placeless, hk, kBcast, kResp]

section Arrive
variable {s : State} {t : TileId} {k : Token} {i : Inst} (hin : (s.tile t).inst = some i.id) (hi : s.inst? i.id = some i)
  (hc : i.ctx = k.ctx.toNat) (hm : k.malformed = false) (hk : k.kind = 0)
include hin hi hc hm hk

theorem arrive_data (direct : Bool) : arrive s t k direct = arriveData s t k direct := by
  simp [arrive, hin, hi, hc, hm, hk, kReq, kCtrl]

theorem arrive_nodeless (direct : Bool) (he : tabFind (s.tile t).edges (portKey k.node.toNat k.port.toNat) = none) :
    arrive s t k direct = .bad 9 := by
  simp [arrive_data hin hi hc hm hk, arriveData, he, hm]

variable {e : Edge} (he : tabFind (s.tile t).edges (portKey k.node.toNat k.port.toNat) = some e)
  (ha : (s.tile t).isActor k.node.toNat = true) (hs : k.skip = 0) (hq : k.seq = e.expect)
include he ha hs hq

theorem arrive_full (h : e.depth ≤ e.fifo.length) : arrive s t k false = .wait := by
  have hn := isActor_node ha
  have ht : e.take (fun j => j.malformed || !kindOk (s.tile t) k.node.toNat j) k = .full :=
    Edge.take_full hs hq (by simp [hm, kindOk_actor _ hn hk]) h
  simp [arrive_data hin hi hc hm hk, arriveData, he, isArrival_actor _ hn, placeless_data hk, ht]

theorem arrive_commits (h : e.fifo.length < e.depth) (hy : e.early = []) :
    arrive s t k false = .done (s.setTile t (landed (s.tile t) e k)) := by
  have hn := isActor_node ha
  have ht : e.take (fun j => j.malformed || !kindOk (s.tile t) k.node.toNat j) k = .commit (e.advance k) [k] none :=
    Edge.take_next hs hq (by simp [hm, kindOk_actor _ hn hk]) h hy
  have hx : ∀ l, Tile.isActor { s.tile t with edges := l } k.node.toNat = true := fun _ => ha
  simp [arrive_data hin hi hc hm hk, arriveData, he, isArrival_actor _ hn, placeless_data hk, ht, hx, materialise_unskipped hs, landed]

end Arrive

end Sys2Proof.Machine
end

section
/-! Tokens of the network: O49. -/

namespace Sys2Proof.Machine

/-- Settles O49, step by step: hops by the next hop of a token alone, arrivals by what its tile makes of it, requests and changes of depth by
what they leave on the edge. -/
theorem tokensReachTheirPorts : Obligations.TokensReachTheirPorts := by
  intro s t
  refine ⟨fun n hn => ?resend,
    fun n hn hr hb he => ⟨fun hd hs => ⟨fun ha => ?here, fun x hx => ?column, fun y hx hy => ?row⟩, fun hd ht => ?away⟩,
    fun n i e hn ha ht hd hr hb he => ?arrival, fun node port count o ho hw hq => ?request, fun node port depth e h hd => ?depth⟩
  case resend => rw [exec_tokenResend, resendTok_lone hn]
  case here => rw [exec_routeToken, routeTok_here hn (nextHop_here hd ha)]
  case column =>
    have hh := nextHop_toward hd hs (fun h => by rw [h] at hx; omega)
    rw [hopTo_column hx] at hh
    obtain ⟨g, hg⟩ := routeTok_tile hn hr hb he hh (fun h => by have := congrArg TileId.x h; dsimp only at this; omega)
    exact ⟨g, by rw [exec_routeToken, hg]⟩
  case row =>
    have hh := nextHop_toward hd hs (fun h => by rw [h] at hy; omega)
    rw [hopTo_row hx hy] at hh
    obtain ⟨g, hg⟩ := routeTok_tile hn hr hb he hh (fun h => by have := congrArg TileId.y h; dsimp only at this; omega)
    exact ⟨g, by rw [exec_routeToken, hg]⟩
  case away =>
    obtain ⟨e, g, hc, hg⟩ := routeTok_noRoute hn hr hb (nextHop_noRoute hd ht)
    exact ⟨e, g, hc, by rw [exec_routeToken, hg]⟩
  case arrival =>
    have hh := nextHop_here hd ha
    have hat : n.at_ = t := ha.trans ht
    rw [exec_tokenReceive]
    refine ⟨fun hm h => ?_, fun hin hi hc hm hk => ⟨fun hx => ?_, fun hx hac hdir hs hq => ⟨fun hf => ?_, fun hf hy => ?_⟩⟩⟩
    · obtain ⟨g, hg⟩ := receiveTok_discards hn hr hb he hh fun g => arrive_malformed (s := { s with grants := g }) n.direct hm
        (hat ▸ h)
      exact ⟨g, by rw [hg, hat, if_pos rfl]⟩
    · obtain ⟨g, hg⟩ := receiveTok_discards hn hr hb he hh fun g => arrive_nodeless (s := { s with grants := g }) (hat ▸ hin) hi hc
        hm hk n.direct (hat ▸ hx)
      exact ⟨g, by rw [hg, hat, if_neg (by decide)]⟩
    · rw [receiveTok_waits hn hr hb hh]
      rw [hdir, hat]
      exact arrive_full hin hi hc hm hk hx hac hs hq hf
    · have hl : ∀ g, arrive { s with grants := g } n.at_ n.tok n.direct =
          .done (State.setTile { s with grants := g } n.at_ (landed (s.tile t) e n.tok)) := fun g => by
        rw [hdir, hat]
        exact arrive_commits (s := { s with grants := g }) hin hi hc hm hk hx hac hs hq hf hy
      obtain ⟨g, hg⟩ := receiveTok_accepts hn hr hb he hh hl
      obtain ⟨e2, q, hland⟩ := landed_spec (s.tile t) e n.tok
      refine ⟨_, e2, q, by rw [hg], by simp, by simp, ?_⟩
      rw [progress_tile, hat, State.tile_setTile_self]
      exact hland
  case request => rw [exec_reqToken, coverMore_next count ho hw hq]
  case depth =>
    obtain ⟨hmem, hedge⟩ := reconfEdge_shortens h hd
    refine ⟨_, exec_reconfCtrl t node port depth s, hmem, fun h1 h2 h3 => ?_, fun h2 => ?_⟩
    · rw [hedge, Edge.shortened_empty h1 h2 h3]
    · rw [hedge, Edge.shortened_waits h2]

end Sys2Proof.Machine
end

section
/-! The fields of an instruction word (R49, R54 to R56, R63, R64): reading back what the encoder writes. -/

namespace Sys2Proof
open Machine (extract_low extract_high extract_all)

/-! ## Codes of R56 and R66 -/

theorem Width.ofCode_code (w : Width) : Width.ofCode w.code = some w := by cases w <;> rfl
theorem ftyOf_code (t : FTy) : ftyOf t.code = some t := by cases t <;> rfl
theorem ityOf_code (t : ITy) : ityOf t.code = some t := by cases t <;> rfl
theorem ltyOf_code (t : LTy) : ltyOf t.code = t := by rcases t with t | t <;> cases t <;> rfl
theorem ctyOf_code (t : CTy) : ctyOf t.code = t := by cases t <;> rfl
theorem scopeOf_code (t : Scope) : scopeOf t.code = t := by cases t <;> rfl
theorem orderOf_code (t : Order) : orderOf t.code = some t := by cases t <;> rfl
theorem sizeOf_code (t : Size) : sizeOf t.code = t := by cases t <;> rfl
theorem bit_beq_one (b : Bool) : (bit b == 1#1) = b := by cases b <;> rfl
theorem bit_of_beq_one (x : BitVec 1) : bit (x == 1#1) = x := by revert x; decide

/-! ## Words and their fields -/

theorem unpack_pack (r : Raw) : Raw.unpack r.pack = r := by
  simp (disch := omega) only [Raw.unpack, Raw.pack, extract_high, extract_low]
  simp [bit_beq_one]

theorem pack_unpack (w : Word) : (Raw.unpack w).pack = w := by
  simp only [Raw.unpack, Raw.pack, bit_of_beq_one]
  simp (disch := omega) only [BitVec.extractLsb'_append_extractLsb'_eq_extractLsb']
  exact extract_all w

/-- X of NOP gives back its wave (R62). -/
theorem wave_nopX {r : Raw} {w : Option Wave} (h : r.x = nopX w) : (if xb r 0 then some (waveOf r) else none) = w := by
  simp only [xb, waveOf, xf, h]
  cases w with
  | none => rfl
  | some w => simp (disch := omega) [-Nat.reduceAdd, nopX, extract_high, extract_low]

/-! ## Forms and their fields -/

/-- What the word of a form names: CTXCTL and PRTCTL leave their operation to an operand (R119, R329). -/
def Instr.named (i : Instr) : Fetched :=
  match i with
  | .ctxctlQuery o => .ctxctl o | .ctxctlEnable o => .ctxctl o | .ctxctlDisable o => .ctxctl o
  | .ctxctlHalt o => .ctxctl o | .ctxctlReset o => .ctxctl o | .ctxctlRestore o => .ctxctl o
  | .prtctlCreate o => .prtctl o | .prtctlResize o => .prtctl o | .prtctlDestroy o => .prtctl o
  | .prtctlParam o => .prtctl o | .prtctlBind o => .prtctl o
  | i => .form i

theorem named_raw? (i : Instr) : i.named.raw? = i.raw? := by cases i <;> rfl
theorem named_wf (i : Instr) : i.named.wf = i.wf := by cases i <;> rfl

/-! The words of the forms, by OP: an event has no word, the forms of the other OPs drop out, and in a form that stays each field of the
encoder lies where the row of its OP and FN reads it. -/

theorem fetched_integer {i : Instr} {r : Raw} (h : i.raw? = some r) (ho : r.op.toNat < 0x10) : r.fetched = some i.named := by
  cases i
  all_goals cases h
  all_goals simp only [BitVec.toNat_ofNat, Nat.reducePow, Nat.reduceMod, Nat.reduceLT] at ho
  all_goals simp (disch := omega) only [Raw.fetched, Raw.read, decodeOp00, decodeOp01, decodeOp02, decodeOp03, decodeOp04, decodeOp05, decodeOp06,
    decodeOp07, decodeOp08, decodeOp09, decodeOp0A, BitVec.toNat_ofNat, Nat.reducePow, Nat.reduceMod, Nat.reduceSub, xf, xb, lowD, lowS, lowT, octT,
    extract_low, extract_high, extract_all, BitVec.extractLsb'_append_extractLsb', Width.ofCode_code, bit_beq_one, Option.map_some]
  all_goals rfl

theorem fetched_control {i : Instr} {r : Raw} (h : i.raw? = some r) (ho : 0x10 ≤ r.op.toNat ∧ r.op.toNat < 0x18) : r.fetched = some i.named := by
  cases i
  all_goals cases h
  all_goals simp only [BitVec.toNat_ofNat, Nat.reducePow, Nat.reduceMod, Nat.reduceLT, Nat.reduceLeDiff, false_and, and_false] at ho
  case nop.refl o => exact congrArg (fun w => some (Fetched.form (.nop { g := o.g, wave := w }))) (wave_nopX rfl)
  all_goals simp (disch := omega) only [Raw.fetched, Raw.read, decodeOp10, decodeOp11, decodeOp12, decodeOp13, decodeOp14, decodeOp15,
    BitVec.toNat_ofNat, Nat.reducePow, Nat.reduceMod, Nat.reduceSub, xf, xb, lowD, lowS, lowT, octD, octS, extract_low, extract_high, extract_all,
    BitVec.extractLsb'_append_extractLsb', bit_beq_one, Option.map_some]
  all_goals rfl

theorem fetched_float {i : Instr} {r : Raw} (h : i.raw? = some r) (ho : 0x18 ≤ r.op.toNat ∧ r.op.toNat < 0x20) : r.fetched = some i.named := by
  cases i
  all_goals cases h
  all_goals simp only [BitVec.toNat_ofNat, Nat.reducePow, Nat.reduceMod, Nat.reduceLT, Nat.reduceLeDiff, false_and, and_false] at ho
  all_goals simp (disch := omega) only [Raw.fetched, Raw.read, decodeOp18, decodeOp19, decodeOp1A, decodeOp1B, BitVec.toNat_ofNat, Nat.reducePow,
    Nat.reduceMod, Nat.reduceSub, xf, xb, lowD, extract_low, extract_high, extract_all, ftyOf_code, ctyOf_code, bit_beq_one, Option.map_some]
  all_goals rfl

theorem fetched_vector {i : Instr} {r : Raw} (h : i.raw? = some r) (ho : 0x20 ≤ r.op.toNat ∧ r.op.toNat < 0x28) : r.fetched = some i.named := by
  cases i
  all_goals cases h
  all_goals simp only [BitVec.toNat_ofNat, Nat.reducePow, Nat.reduceMod, Nat.reduceLT, Nat.reduceLeDiff, false_and, and_false] at ho
  all_goals simp (disch := omega) only [Raw.fetched, Raw.read, decodeOp20, decodeOp21, decodeOp22, decodeOp23, decodeOp24, decodeOp25,
    BitVec.toNat_ofNat, Nat.reducePow, Nat.reduceMod, Nat.reduceSub, xf, xb, octD, octS, octT, extract_low, extract_high, extract_all, ftyOf_code,
    ityOf_code, ltyOf_code, bit_beq_one, Option.map_some]
  all_goals rfl

theorem fetched_memory {i : Instr} {r : Raw} (h : i.raw? = some r) (ho : 0x28 ≤ r.op.toNat ∧ r.op.toNat < 0x30) : r.fetched = some i.named := by
  cases i
  all_goals cases h
  all_goals simp only [BitVec.toNat_ofNat, Nat.reducePow, Nat.reduceMod, Nat.reduceLT, Nat.reduceLeDiff, false_and, and_false] at ho
  all_goals simp (disch := omega) only [Raw.fetched, Raw.read, decodeOp28, decodeOp29, decodeOp2A, decodeOp2B, decodeOp2C, decodeOp2D, decodeOp2E,
    BitVec.toNat_ofNat, Nat.reducePow, Nat.reduceMod, Nat.reduceSub, xf, xb, lowD, octD, waveX, waveOf, extract_low, extract_high, extract_all,
    scopeOf_code, orderOf_code, sizeOf_code, bit_beq_one, Option.map_some]
  all_goals rfl

theorem fetched_engine {i : Instr} {r : Raw} (h : i.raw? = some r) (ho : 0x30 ≤ r.op.toNat ∧ r.op.toNat < 0x38) : r.fetched = some i.named := by
  cases i
  all_goals cases h
  all_goals simp only [BitVec.toNat_ofNat, Nat.reducePow, Nat.reduceMod, Nat.reduceLT, Nat.reduceLeDiff, false_and, and_false] at ho
  all_goals simp (disch := omega) only [Raw.fetched, Raw.read, decodeOp30, decodeOp31, decodeOp32, decodeOp33, decodeOp34, BitVec.toNat_ofNat,
    Nat.reducePow, Nat.reduceMod, Nat.reduceSub, xf, xb, lowD, lowS, lowT, octD, octS, extract_low, extract_high, extract_all, ltyOf_code,
    scopeOf_code, bit_beq_one, Option.map_some]
  all_goals rfl

theorem fetched_system {i : Instr} {r : Raw} (h : i.raw? = some r) (ho : 0x38 ≤ r.op.toNat) : r.fetched = some i.named := by
  cases i
  all_goals cases h
  all_goals simp only [BitVec.toNat_ofNat, Nat.reducePow, Nat.reduceMod, Nat.reduceLeDiff] at ho
  all_goals simp (disch := omega) only [Raw.fetched, Raw.read, decodeOp38, decodeOp39, BitVec.toNat_ofNat, Nat.reducePow, Nat.reduceMod,
    Nat.reduceSub, xf, octD, octS, extract_low, extract_high, extract_all, Option.map_some]
  all_goals rfl

theorem fetched_of_raw? {i : Instr} {r : Raw} (h : i.raw? = some r) : r.fetched = some i.named := by
  rcases lt_or_ge r.op.toNat 0x10 with h10 | h10
  · exact fetched_integer h h10
  rcases lt_or_ge r.op.toNat 0x18 with h18 | h18
  · exact fetched_control h ⟨h10, h18⟩
  rcases lt_or_ge r.op.toNat 0x20 with h20 | h20
  · exact fetched_float h ⟨h18, h20⟩
  rcases lt_or_ge r.op.toNat 0x28 with h28 | h28
  · exact fetched_vector h ⟨h20, h28⟩
  rcases lt_or_ge r.op.toNat 0x30 with h30 | h30
  · exact fetched_memory h ⟨h28, h30⟩
  rcases lt_or_ge r.op.toNat 0x38 with h38 | h38
  · exact fetched_engine h ⟨h30, h38⟩
  · exact fetched_system h h38

/-- A form within its limits has a guard that is not 1000 (R53). -/
theorem guardOk_of_wf {i : Instr} {r : Raw} (hw : i.wf = true) (h : i.raw? = some r) : guardOk r.g = true := by
  cases i
  all_goals cases h
  all_goals unfold Instr.wf at hw
  all_goals simp only [atomOk, atomMinOk, Bool.and_eq_true] at hw
  all_goals simp only [hw]

/-- The same of what a word names. -/
theorem Fetched.guardOk_of_wf {x : Fetched} {r : Raw} (hw : x.wf = true) (h : x.raw? = some r) : guardOk r.g = true := by
  cases x with
  | form i => exact Sys2Proof.guardOk_of_wf hw h
  | ctxctl o => cases h; exact hw
  | prtctl o => cases h; exact hw

/-! ## The decoder (R53, R68) -/

/-- The decoder accepts a word just when its fields name something within its limits and are the fields of that. -/
theorem decodeWord_eq_ok {w : Word} {x : Fetched} : decodeWord w = .ok x ↔
    (Raw.unpack w).fetched = some x ∧ x.raw? = some (Raw.unpack w) ∧ x.wf = true := by
  constructor
  · intro h
    unfold decodeWord at h
    split at h
    case h_1 => cases h
    case h_2 y hf =>
      split at h
      case isFalse => cases h
      case isTrue hr =>
        split at h
        case isFalse => cases h
        case isTrue hw => cases h; exact ⟨hf, hr, hw⟩
  · rintro ⟨hf, hr, hw⟩
    simp [decodeWord, hf, hr, hw]

/-- A word of an OP without a row names nothing (R63). -/
theorem fetched_rowless {r : Raw}
    (h : r.op.toNat ∈ [0x0B, 0x0C, 0x0F, 0x16, 0x17, 0x1C, 0x1F, 0x26, 0x27, 0x2F, 0x35, 0x37, 0x3A, 0x7F]) : r.fetched = none := by
  have hop : r.op ≠ 0x39#7 := by rintro h9; rw [h9] at h; revert h; decide
  have hread : r.read = none := by
    simp only [List.mem_cons, List.not_mem_nil, or_false] at h
    rcases h with h | h | h | h | h | h | h | h | h | h | h | h | h | h
    all_goals simp only [Raw.read, h]
  simp [Raw.fetched, hop, hread]

end Sys2Proof

namespace Sys2Proof.Machine

/-- Settles O36: the fields of an encoded word are those of its form, by which the decoder reads the form back. -/
theorem decodingUndoesEncoding : Obligations.DecodingUndoesEncoding := by
  intro i w hw he
  obtain ⟨r, hr, rfl⟩ := Option.map_eq_some_iff.1 he
  have h : decodeWord r.pack = .ok i.named :=
    decodeWord_eq_ok.2 ⟨by rw [unpack_pack, fetched_of_raw? hr], by rw [unpack_pack, named_raw?, hr], by rw [named_wf, hw]⟩
  exact h

/-- Settles O37: an accepted word is its own fields joined again; an OP without a row names nothing. -/
theorem acceptedWordsAreTheirEncoding : Obligations.AcceptedWordsAreTheirEncoding := by
  refine ⟨fun w x h => ?_, fun w h => ?_⟩
  · obtain ⟨-, hr, hw⟩ := decodeWord_eq_ok.1 h
    exact ⟨by rw [hr, Option.map_some, pack_unpack], of_decide_eq_true (Fetched.guardOk_of_wf hw hr)⟩
  · rw [decodeWord, fetched_rowless (r := Raw.unpack w) h]

/-- Settles O44: the decoder run on each printed word. -/
theorem workedEncodingsDecode : Obligations.WorkedEncodingsDecode := by
  refine ⟨?_, ?_, ?_, ?_, ?_, ?_, ⟨.reservedBits, ?_⟩, ⟨.reservedBits, ?_⟩, ⟨.badOperand, ?_⟩⟩
  all_goals decide +kernel

end Sys2Proof.Machine
end

section
/-! A step of the machine: what it issues (R50, R53, R233: O35), and the invariants that it keeps (R53, R377: O39, O40). -/

namespace Sys2Proof.Machine

/-! ## A word that issues (R50, R233) -/

@[simp] theorem issuing_errs (t : TileId) (f : Firing) (s : State) : (issuing t f s).errs = s.errs := rfl
theorem issuing_tile (t : TileId) (f : Firing) (s : State) : (issuing t f s).tile t = (s.tile t).setFiring { f with st := .running } :=
  State.tile_setTile_self s t _
@[simp] theorem issuing_code (t : TileId) (f : Firing) (s : State) : ((issuing t f s).tile t).code = (s.tile t).code := by
  rw [issuing_tile]; rfl

/-- A firing's word is what its code store holds at its program counter, as the decoder reads it (R50). -/
theorem fetch_word {s : State} {t : TileId} {f : Firing} {c : CodeWord} {w : Fetched} (he : s.errs = [])
    (hc : tabFind (s.tile t).code f.pc = some c) (hh : c.header = false) (hw : decodeWord c.word = .ok w) : fetch t f s = .word w := by
  simp [fetch, struck_none he, hc, hh, hw]

/-- A firing issues the word that its fetch gives, and what follows every word follows. -/
theorem issueWord_next {s s2 : State} {t : TileId} {f : Firing} {w : Fetched} (hf : f.failed = none)
    (hw : fetch t f (issuing t f s) = .word w) (h2 : execFetched t { f with st := .running } w (issuing t f s) = .next s2) :
    issueWord t f s = .next (afterIssue t f.id f.inst s2) := by
  simp only [issueWord, hf] at h2 ⊢
  simp only [hw, h2]

/-- A step that has chosen its work does it and settles. -/
theorem step_performs {s u : State} {w : Work} (hw : choose s = some w) (hu : perform w s = .next u) : step s = .next (settle w u) := by
  simp only [step, stepOnce, hw, hu]

/-- Where a firing issues, the word that issues is its own. -/
theorem issuing_issues {s : State} {t : TileId} {f : Firing} {b : BitVec 4} (hf : s.firing? t f.id = some f) (hb : f.guard b = true)
    (he : s.errs = []) : Issues (issuing t f s) t { f with st := .running } b :=
  ⟨rfl, State.firing?_setFiring (f := { f with st := .running }) hf, hb, he⟩

/-- Settles O35: the fetch gives the decoded word, its meaning runs in the state where its firing issues, and the step settles. -/
theorem stepRunsTheDecodedInstruction : Obligations.StepRunsTheDecodedInstruction := by
  intro s t f c w hw hf he hc hh hd
  have hfetch : fetch t f (issuing t f s) = .word w := fetch_word he (by rwa [issuing_code]) hh hd
  refine ⟨fun s2 h2 => step_performs hw ?_, fun i hi => by rw [hi]; rfl, fun hs b hb => issuing_issues hs hb he⟩
  exact issueWord_next hf hfetch h2

/-! ## What every step ends with (R53, R377) -/

/-- Cycles that pass change the stacks and the instances alone. -/
theorem pass_frame (n : Nat → Nat) (s : State) : ∃ x i, pass n s = { s with stks := x, insts := i } := by
  have fold : ∀ (l : List Nat) (s : State), ∃ x i, l.foldl (fun s k => passCycles (n k) s k) s = { s with stks := x, insts := i } := by
    intro l
    induction l with
    | nil => exact fun s => ⟨_, _, rfl⟩
    | cons k r ih => exact fun s => ih (passCycles (n k) s k)
  unfold pass
  split
  · exact ⟨_, _, rfl⟩
  · exact fold _ s

@[simp] theorem pass_cur (n : Nat → Nat) (s : State) : (pass n s).cur = s.cur := by
  obtain ⟨_, _, h⟩ := pass_frame n s; rw [h]
@[simp] theorem pass_remote (n : Nat → Nat) (s : State) : (pass n s).remote = s.remote := by
  obtain ⟨_, _, h⟩ := pass_frame n s; rw [h]
@[simp] theorem pass_planes (n : Nat → Nat) (s : State) : (pass n s).planes = s.planes := by
  obtain ⟨_, _, h⟩ := pass_frame n s; rw [h]

/-- An acknowledgement is due or not by the requests under way alone. -/
theorem acksOwed_congr {s s' : State} (hr : s'.remote = s.remote) (hp : s'.planes = s.planes) : AcksOwed s' ↔ AcksOwed s := by
  simp only [AcksOwed, State.plane, olderDone, hr, hp]

/-- What is sent as due leaves the requests under way as they are, and the plane without what was due. -/
theorem sendPacks_eq (s : State) : ∃ o p, sendPacks s = { s with outbox := o, planes := p } ∧
    (tabGet {} p 8).packs = (s.plane 8).packs.filter (fun r => !olderDone s r) := by
  have left : (s.plane 8).packs.filter (fun r => !((s.plane 8).packs.filter (olderDone s)).contains r) =
      (s.plane 8).packs.filter (fun r => !olderDone s r) :=
    List.filter_congr fun r hr => by simp [hr]
  simp only [sendPacks]
  split
  case isTrue h =>
    refine ⟨s.outbox, s.planes, rfl, (List.filter_eq_self.2 fun r hr => ?_).symm⟩
    simpa using List.filter_eq_nil_iff.1 (List.isEmpty_iff.1 h) r hr
  case isFalse => exact ⟨_, _, foldl_send _ _ _, by simp only [State.setPlane, tabGet_tabSet, if_true]; exact left⟩

theorem sendPacks_acksOwed (s : State) : AcksOwed (sendPacks s) := by
  obtain ⟨o, p, h, hp⟩ := sendPacks_eq s
  intro r hr
  rw [h] at hr ⊢
  simp only [State.plane, hp, List.mem_filter, Bool.not_eq_true'] at hr
  exact hr.2

theorem sendPacks_cur (s : State) : (sendPacks s).cur = s.cur := by
  obtain ⟨_, _, h, _⟩ := sendPacks_eq s; rw [h]

/-- Whatever a step did, what every step ends with meets the invariants. -/
theorem settle_inv (w : Work) (s : State) : Inv (settle w s) := by
  refine ⟨?_, sendPacks_acksOwed _⟩
  rw [Quiet, settle, sendPacks_cur, pass_cur]
  split <;> rfl

/-- Time that passes while nothing can go keeps the invariants. -/
theorem idle_inv {s : State} (h : Inv s) : Inv (idle s) :=
  ⟨by simp only [Quiet, idle, clearHeld, pass_cur]; exact h.1, (acksOwed_congr (pass_remote _ _) (pass_planes _ _)).2 h.2⟩

/-- A step that goes on settles what its work left, or nothing could go. -/
theorem step_cases {s s' : State} (h : step s = .next s') : s' = idle s ∨ ∃ w u, choose s = some w ∧ perform w s = .next u ∧ s' = settle w u := by
  unfold step stepOnce at h
  split at h
  case h_1 => exact .inl (Host.Outcome.next.inj h).symm
  case h_2 w hw =>
    split at h
    case h_1 u hu => exact .inr ⟨w, u, hw, hu, (Host.Outcome.next.inj h).symm⟩
    case h_2 r hr => exact absurd h (hr s')

/-- Settles O40: what every step ends with establishes the invariants, and an idle step touches neither. -/
theorem everyStepKeepsTheInvariants : Obligations.EveryStepKeepsTheInvariants := by
  intro s s' hi h
  obtain rfl | ⟨w, u, -, -, rfl⟩ := step_cases h
  · exact idle_inv hi
  · exact settle_inv w u

/-- Settles O39: at reset no word is issuing and no acknowledgement waits. -/
theorem resetMeetsTheInvariants : Obligations.ResetMeetsTheInvariants := by
  refine ⟨rfl, fun r hr => ?_⟩
  cases hr

end Sys2Proof.Machine
end

section
/-! Forms below the memory forms (OP below 0x28) leave memory, planes, links, buses and the module's registers: O43. -/

namespace Sys2Proof.Machine

/-! ## What a step may leave as it was -/

/-- Memory, planes, links, buses, and DEVID, POWERCAP and TEMPLIM. -/
def State.lasting (s : State) :=
  (s.mem, s.planes, s.links, s.buses, s.devid, s.powercap, s.templim)

theorem lasting_iff {s s' : State} : s'.lasting = s.lasting ↔ s'.mem = s.mem ∧ s'.planes = s.planes ∧ s'.links = s.links ∧
    s'.buses = s.buses ∧ s'.devid = s.devid ∧ s'.powercap = s.powercap ∧ s'.templim = s.templim := by
  simp only [State.lasting, Prod.mk.injEq]

@[simp] theorem setTile_lasting (s : State) (t : TileId) (x : Tile) : (s.setTile t x).lasting = s.lasting := rfl
@[simp] theorem setFiring_lasting (s : State) (t : TileId) (f : Firing) : (s.setFiring t f).lasting = s.lasting := rfl
@[simp] theorem setStack_lasting (s : State) (k : Nat) (x : Stack) : (s.setStack k x).lasting = s.lasting := rfl
@[simp] theorem later_lasting (s : State) (a : Act) : (s.later a).lasting = s.lasting := rfl
@[simp] theorem laterAll_lasting (s : State) (l : List Act) : (s.laterAll l).lasting = s.lasting := rfl
@[simp] theorem send_lasting (s : State) (m : OutMsg) : (s.send m).lasting = s.lasting := rfl
@[simp] theorem spend_lasting (s : State) (u p : Nat) : (s.spend u p).lasting = s.lasting := rfl
@[simp] theorem wakeTile_lasting (s : State) (t : TileId) : (wakeTile s t).lasting = s.lasting := rfl
@[simp] theorem inject_lasting (s : State) (t : TileId) (k : Token) (d : Bool) : (inject s t k d).lasting = s.lasting := rfl
@[simp] theorem rdcFill_lasting (s : State) (stk ctx line : Nat) (d : BitVec 1024) : (rdcFill s stk ctx line d).lasting = s.lasting := rfl
@[simp] theorem transmit_lasting (s : State) (r : RemOut) : (transmit s r).lasting = s.lasting := rfl
@[simp] theorem post_lasting (s : State) (q : QSel) (b : Nat) : (s.post q b).lasting = s.lasting := by
  obtain ⟨_, _, _, _, h⟩ := post_frame s q b; rw [h]; rfl
@[simp] theorem releaseAway_lasting (s : State) (l : List AwayReg) : (releaseAway s l).lasting = s.lasting := by
  obtain ⟨_, h⟩ := releaseAway_frame s l; rw [h]; rfl
@[simp] theorem dropRanges_lasting (s : State) (l : List (Nat × Nat)) : (dropRanges s l).lasting = s.lasting := by
  obtain ⟨_, h⟩ := dropRanges_frame s l; rw [h]; rfl
@[simp] theorem progress_lasting (s : State) (i : Option Nat) : (progress s i).lasting = s.lasting := by
  unfold progress; split <;> rfl
@[simp] theorem askMore_lasting (s : State) (t : TileId) (key n : Nat) (pri : BitVec 2) (ctx : Nat) :
    (askMore s t key n pri ctx).lasting = s.lasting := by
  unfold askMore; split <;> rfl

/-! ## Taking a fault (R238, R239) -/

@[simp] theorem dropGranted_lasting (s : State) (f : Firing) : (dropGranted s f).lasting = s.lasting := by
  unfold dropGranted; split <;> simp
@[simp] theorem dropResv_lasting (s : State) (t : TileId) (i : Nat) : (dropResv s t i).lasting = s.lasting := rfl
@[simp] theorem dropRegs_lasting (s : State) (t : TileId) (i : Nat) : (dropRegs s t i).lasting = s.lasting := rfl
@[simp] theorem retryOpens_lasting (s : State) : (retryOpens s).lasting = s.lasting := rfl
@[simp] theorem dropAway_lasting (s : State) (t : TileId) (c : Nat) (f : Firing) : (dropAway s t c f).lasting = s.lasting := by
  unfold dropAway
  exact ((releaseAway_lasting _ _).trans (releaseAway_lasting _ _)).trans (releaseAway_lasting _ _)
@[simp] theorem startPull_lasting (s : State) (p : Option (Nat × Nat × Nat × Nat × Nat)) : (startPull s p).lasting = s.lasting := by
  unfold startPull
  split
  · rfl
  · split <;> rfl
@[simp] theorem awaitPage_lasting (s : State) (t : TileId) (i : Nat) (p : Option (Nat × Nat × Nat × Nat × Nat)) :
    (awaitPage s t i p).lasting = s.lasting := by
  unfold awaitPage; split <;> rfl
@[simp] theorem postFault_lasting (s : State) (c : Nat) (e : FInfo) (b : Nat) : (postFault s c e b).lasting = s.lasting := by
  unfold postFault
  split
  · split <;> simp
  · dsimp only; split <;> simp
@[simp] theorem suspendFiring_lasting (s : State) (t : TileId) (f : Firing) : (suspendFiring s t f).lasting = s.lasting := by
  unfold suspendFiring
  dsimp only
  split <;> simp
@[simp] theorem abortFiring_lasting (s : State) (t : TileId) (f : Firing) (c : FCode) (n : Nat) :
    (abortFiring s t f c n).lasting = s.lasting := by
  simp [abortFiring]
@[simp] theorem tryAgain_lasting (s : State) (t : TileId) (f : Firing) (e : FInfo) : (tryAgain s t f e).lasting = s.lasting := by
  unfold tryAgain
  dsimp only
  split <;> rfl

/-- Taking a fault: records, the firing's own work and what waits for it are all that changes. -/
@[simp] theorem takeFault_lasting (s : State) (t : TileId) (f : Firing) (e : FInfo) : (takeFault s t f e).lasting = s.lasting := by
  unfold takeFault
  dsimp only
  cases classOf e
  all_goals cases e.poison
  all_goals dsimp only
  all_goals split_ifs
  all_goals simp

/-! ## The ends of a word (R53) -/

/-- What a word's body leaves, where it completes. -/
def Lasts (s : State) (x : Ex Done) : Prop := ∀ d, x = .ok d → d.s.lasting = s.lasting

theorem lasts_ok {s : State} {d : Done} (h : d.s.lasting = s.lasting) : Lasts s (.ok d) := by
  rintro _ ⟨⟩; exact h
theorem lasts_error (s : State) (e : Stop) : Lasts s (.error e) := by simp [Lasts]
theorem lasts_bind {α : Type} {s : State} {x : Ex α} {k : α → Ex Done} (h : ∀ a, Lasts s (k a)) : Lasts s (x >>= k) := by
  cases x with
  | error e => exact lasts_error s e
  | ok a => exact h a

theorem issueOn_lasting {s : State} {body : Ex Done} (hb : Lasts s body) (t : TileId) (f : Firing) (g : BitVec 4) (r : WaveRole) (l : Bool) :
    (issueOn t f g r l body s).lasting = s.lasting := by
  unfold issueOn
  split
  · simp
  · split
    · split
      · split <;> simp
      · simp
    · split
      · simp
      · simp
      · rename_i d
        have := hb d rfl
        split_ifs <;> simpa

theorem withFiring_cases {s s' : State} {k : TileId → Firing → State} (h : withFiring s k = .next s') : ∃ t f, s' = k t f := by
  unfold withFiring at h
  split at h
  · cases h
  · split at h
    · cases h
    · cases h; exact ⟨_, _, rfl⟩

theorem issue_lasting {s s' : State} {g : BitVec 4} {r : WaveRole} {legal : State → TileId → Firing → Bool}
    {body : State → TileId → Firing → Ex Done} (hb : ∀ t f, Lasts s (body s t f)) (h : issue g r legal body s = .next s') :
    s'.lasting = s.lasting := by
  obtain ⟨t, f, rfl⟩ := withFiring_cases h
  exact issueOn_lasting (hb t f) t f g r _

/-- A word over the firing's own registers changes its firing, or takes its fault. -/
theorem issueReg_lasting {s s' : State} {g : BitVec 4} {u : Nat} {body : Firing → Ex Firing} (h : issueReg g u body s = .next s') :
    s'.lasting = s.lasting := by
  obtain ⟨t, f, rfl⟩ := withFiring_cases h
  split
  · exact issueOn_lasting (lasts_error s _) ..
  · split
    · exact issueOn_lasting (lasts_error _ _) ..
    · exact issueOn_lasting (lasts_ok rfl) ..

/-! ## A read by a form that is no load (R106) -/

@[simp] theorem pumpRemote_lasting (s : State) : (pumpRemote s).lasting = s.lasting := by
  unfold pumpRemote
  refine List.foldlRecOn _ _ (motive := fun (x : State) => x.lasting = s.lasting) rfl fun x hx r _ => ?_
  dsimp only
  split
  · rw [transmit_lasting, hx]
  · exact hx
theorem sendRemote_lasting (s : State) (stk ctx va key : Nat) (who : RemFor) (a : Ask) (again : Option Nat) :
    (sendRemote s stk ctx va key who a again).2.lasting = s.lasting := pumpRemote_lasting _
theorem awaitRemote_lasting (s : State) (t : TileId) (f : Firing) (va key : Nat) (who : RemFor) (a : Ask) (p : Option Pend) :
    (awaitRemote s t f va key who a p).s.lasting = s.lasting := sendRemote_lasting ..
theorem lineData_lasting (s : State) (stk ctx key : Nat) : (lineData s stk ctx key).2.lasting = s.lasting := by
  unfold lineData
  dsimp only
  split
  · rfl
  · split
    · split <;> rfl
    · rfl

/-- A translation for a read marks no leaf (R339). -/
theorem ownerXlate_read {s : State} {stk ctx off va kind : Nat} {p : XPage} (h : ownerXlate s stk ctx off false va kind = .ok p) :
    p.leaf = none := by
  unfold ownerXlate at h
  dsimp only at h
  split at h
  · cases h
  split at h
  · cases h; rfl
  split at h
  · cases h
  split at h
  · cases h
  split at h
  · cases h
  split at h
  · cases h
  split at h
  · cases h
  split at h
  · cases h
  cases h; rfl

theorem agentXlate_read {s : State} {stk ctx off va kind : Nat} {p : XPage} (h : agentXlate s stk ctx off false va kind = .ok p) :
    p.leaf = none := by
  unfold agentXlate at h
  split at h
  case h_1 hx => cases h; exact ownerXlate_read hx
  case h_2 => split at h <;> cases h

theorem scratchPage_leaf {i : Inst} {o : Nat} {p : XPage} (h : scratchPage i o = some p) : p.leaf = none := by
  unfold scratchPage at h
  dsimp only at h
  split at h
  · cases h
  · cases h; rfl

theorem map_here_inj {x : Except FInfo XPage} {p : XPage} (h : x.map Place.here = .ok (.here p)) : x = .ok p := by
  cases x with
  | error e => cases h
  | ok q => cases h; rfl

/-- The place of a read marks no leaf. -/
theorem locate_read {s : State} {a : Access} {p : XPage} (ha : a.write = false) (h : locate s a = .ok (.here p)) : p.leaf = none := by
  -- `scratchPage` under a name: the kernel would compute with its bounds in unary.
  obtain ⟨page, hpage⟩ : ∃ page, page = scratchPage := ⟨_, rfl⟩
  unfold locate at h
  rw [ha, ← hpage] at h
  dsimp only at h
  split at h
  · cases h
  split at h
  · split at h
    · split at h
      · split at h
        case h_1 hp => cases h; exact scratchPage_leaf (hpage ▸ hp)
        case h_2 => cases h
      · cases h
    · exact agentXlate_read (map_here_inj h)
  · split at h
    · cases h
    split at h
    · cases h
    split at h
    · exact agentXlate_read (map_here_inj h)
    · cases h

/-- The use of a place that a read found keeps what lasts. -/
theorem notePlace_lasting {s : State} {a : Access} {p : Place} (ha : a.write = false) (h : locate s a = .ok p) :
    (notePlace s p).lasting = s.lasting := by
  cases p with
  | away => rfl
  | here p =>
    obtain ⟨_, e⟩ := noteUse_leafless (locate_read ha h) s
    rw [notePlace, e]; rfl

/-- The state in which a read has found its bytes, or asks for them. -/
def ReadRes.state : ReadRes → State
  | .got _ s => s
  | .ask d => d.s

theorem plainRead_lasting {t : TileId} {f : Firing} {k : Nat} {s : State} {va n : Nat} {acc : List Byte} {r : ReadRes}
    (h : plainRead t f k s va n acc = .ok r) : r.state.lasting = s.lasting := by
  induction k generalizing s va n acc with
  | zero => cases h; rfl
  | succ k ih =>
    unfold plainRead at h
    dsimp only at h
    split at h
    · cases h; rfl
    split at h
    case h_1 => cases h
    case h_2 p hp =>
      have hn : (notePlace s p).lasting = s.lasting := notePlace_lasting rfl hp
      split at h
      case h_1 x =>
        split at h
        · cases h
        · exact (ih h).trans ((lineData_lasting ..).trans hn)
      case h_2 =>
        split at h
        · exact (ih h).trans hn
        · exact (ih h).trans ((rdcFill_lasting ..).trans hn)
        · split at h
          · cases h
          · cases h; exact (awaitRemote_lasting ..).trans hn

/-! ## The forms by their OP (R63) -/

/-- A form that leaves what lasts, however it ends. -/
def LeavesLasting (x : State → Outcome) : Prop := ∀ s s', x s = .next s' → s'.lasting = s.lasting

theorem issueReg_leaves (g : BitVec 4) (u : Nat) (body : Firing → Ex Firing) : LeavesLasting (issueReg g u body) :=
  fun _ _ h => issueReg_lasting h
theorem issue_leaves {g : BitVec 4} {r : WaveRole} {legal : State → TileId → Firing → Bool}
    {body : State → TileId → Firing → Ex Done} (hb : ∀ s t f, Lasts s (body s t f)) : LeavesLasting (issue g r legal body) :=
  fun s _ h => issue_lasting (hb s) h

theorem runPred3_leaves (k : Bool → Bool → Bool) (o : PP3) : LeavesLasting (runPred3 k o) := fun _ _ h => issueReg_lasting h
theorem runPred2_leaves (k : Bool → Bool) (o : PP2) : LeavesLasting (runPred2 k o) := fun _ _ h => issueReg_lasting h
theorem pset_leaves (o : PSETo) : LeavesLasting (execPset o) := fun _ _ h => issueReg_lasting h

/-- The integer and predicate forms (OP below 0x10), and the floating and vector forms (OP 0x18 to 0x27), are words over their firing's
own registers. -/
theorem registerForm_leaves {i : Instr} {r : Raw} (h : i.raw? = some r)
    (ho : r.op.toNat < 0x10 ∨ 0x18 ≤ r.op.toNat ∧ r.op.toNat < 0x28) : LeavesLasting (exec i) := by
  cases i
  all_goals cases h
  all_goals simp at ho
  case pand o => exact runPred3_leaves (fun a b => a && b) o
  case por o => exact runPred3_leaves (fun a b => a || b) o
  case pxor o => exact runPred3_leaves (fun a b => a != b) o
  case pnot o => exact runPred2_leaves (fun a => !a) o
  case pmov o => exact runPred2_leaves (fun a => a) o
  case pset o => exact pset_leaves o
  all_goals exact issueReg_leaves _ _ _

/-! ## Control forms (OP 0x10 to 0x13, R102 to R110) -/

theorem startLoop_lasting (s : State) (f : Firing) (lc c len : Nat) : (startLoop s f lc c len).s.lasting = s.lasting := by
  unfold startLoop
  split <;> rfl

theorem br_leaves (o : HJ) : LeavesLasting (execBr o) := issue_leaves fun _ _ _ => lasts_bind fun _ => lasts_ok rfl
theorem call_leaves (o : HJ) : LeavesLasting (execCall o) :=
  issue_leaves fun _ _ _ => lasts_bind fun _ => lasts_bind fun _ => lasts_ok rfl
theorem ret_leaves (g : BitVec 4) : LeavesLasting (execRet g) := issue_leaves fun s t f => by
  split
  · exact lasts_error s _
  · exact lasts_bind fun _ => lasts_ok rfl
theorem jr_leaves (o : OneS) : LeavesLasting (execJr o) :=
  issue_leaves fun _ _ _ => lasts_bind fun _ => lasts_bind fun _ => lasts_ok rfl
theorem loop_leaves (o : LOOPo) : LeavesLasting (execLoop o) :=
  issue_leaves fun _ _ _ => lasts_bind fun _ => lasts_bind fun _ => lasts_ok (startLoop_lasting ..)
theorem loopi_leaves (o : LOOPIo) : LeavesLasting (execLoopi o) :=
  issue_leaves fun _ _ _ => lasts_bind fun _ => lasts_ok (startLoop_lasting ..)
theorem loops_leaves (o : LOOPSo) : LeavesLasting (execLoops o) := issue_leaves fun s t f => by
  refine lasts_bind fun _ => lasts_bind fun _ => lasts_bind fun _ => lasts_bind fun _ => ?_
  split
  case h_1 => exact lasts_error s _
  case h_2 hr => exact lasts_ok (plainRead_lasting hr)
  case h_3 hr => exact lasts_ok ((startLoop_lasting ..).trans (plainRead_lasting hr))
theorem lbrk_leaves (o : LCo) : LeavesLasting (execLbrk o) := issue_leaves fun s t f => by
  dsimp only
  split
  · exact lasts_error s _
  · exact lasts_ok rfl
theorem exit_leaves (g : BitVec 4) : LeavesLasting (execExit g) := issue_leaves fun _ _ _ => lasts_ok rfl
theorem exitr_leaves (o : OneS) : LeavesLasting (execExitr o) := issue_leaves fun _ _ _ => lasts_bind fun _ => lasts_ok rfl
theorem yield_leaves (g : BitVec 4) : LeavesLasting (execYield g) := issue_leaves fun _ _ _ => lasts_ok rfl
theorem waitp_leaves (o : M16) : LeavesLasting (execWaitp o) := issue_leaves fun s t f => by
  split <;> exact lasts_ok rfl
theorem nop_leaves (o : NOPo) : LeavesLasting (execNop o) := by
  intro s s' h
  unfold execNop at h
  split at h
  · exact issue_leaves (fun _ _ _ => lasts_ok rfl) s s' h
  · exact issue_leaves (fun _ _ _ => lasts_bind fun _ => lasts_ok rfl) s s' h

/-! ## Token and tag-bit forms (OP 0x14 and 0x15, R182 to R190) -/

theorem holdToken_lasts (s : State) (t : TileId) (f : Firing) (port : Nat) (k : Token) : Lasts s (holdToken s t f port k) := by
  unfold holdToken
  split
  · exact lasts_error s _
  · exact lasts_ok rfl

theorem tryRecv_lasting {s s' : State} {t : TileId} {f f' : Firing} {q : BitVec 7} {port : Nat}
    (h : tryRecv s t f q port = some (s', f')) : s'.lasting = s.lasting := by
  unfold tryRecv at h
  dsimp only at h
  split at h
  · cases h
  split at h
  · cases h
  · cases h; rfl

theorem runTag_leaves (o : M16) (k : Tile → Nat → BitVec 16 → Tile) : LeavesLasting (runTag o k) :=
  issue_leaves fun _ _ _ => lasts_ok rfl

theorem ten_leaves (o : M16) : LeavesLasting (execTen o) := by
  intro s s' h
  unfold execTen at h
  exact runTag_leaves o _ s s' h
theorem tdis_leaves (o : M16) : LeavesLasting (execTdis o) := by
  intro s s' h
  unfold execTdis at h
  exact runTag_leaves o _ s s' h
theorem tpset_leaves (o : M16) : LeavesLasting (execTpset o) := by
  intro s s' h
  unfold execTpset at h
  exact runTag_leaves o _ s s' h
theorem tpclr_leaves (o : M16) : LeavesLasting (execTpclr o) := by
  intro s s' h
  unfold execTpclr at h
  exact runTag_leaves o _ s s' h
theorem send_leaves (o : SENDo) : LeavesLasting (execSend o) := issue_leaves fun _ _ _ => lasts_bind fun _ => holdToken_lasts _ _ _ _ _
theorem sendv_leaves (o : SENDVo) : LeavesLasting (execSendv o) := issue_leaves fun s t f => by
  refine lasts_bind fun _ => ?_
  dsimp only
  split
  · exact lasts_error s _
  · exact holdToken_lasts _ _ _ _ _
theorem sendd_leaves (o : SENDDo) : LeavesLasting (execSendd o) := issue_leaves fun s t f => by
  refine lasts_bind fun _ => lasts_bind fun _ => ?_
  split
  · exact lasts_error s _
  · exact lasts_ok rfl
theorem req_leaves (o : PORT9) : LeavesLasting (execReq o) := issue_leaves fun s t f => by
  dsimp only
  split
  · exact lasts_error s _
  split
  · exact lasts_error s _
  refine lasts_ok ?_
  dsimp only
  split
  · exact askMore_lasting ..
  · rfl
theorem recv_leaves (o : RECVo) : LeavesLasting (execRecv o) := issue_leaves fun s t f => by
  refine lasts_bind fun _ => lasts_bind fun _ => ?_
  split
  case h_1 hr => exact lasts_ok ((progress_lasting ..).trans (tryRecv_lasting hr))
  case h_2 => exact lasts_ok rfl
theorem steert_leaves (o : STEERTo) : LeavesLasting (execSteert o) := issue_leaves fun _ _ _ => lasts_ok rfl
theorem reconf_leaves (o : PORT9) : LeavesLasting (execReconf o) := issue_leaves fun _ _ _ => lasts_ok rfl
theorem tqry_leaves (o : OneD) : LeavesLasting (execTqry o) := issue_leaves fun _ _ _ => lasts_bind fun _ => lasts_ok rfl

theorem controlForm_leaves {i : Instr} {r : Raw} (h : i.raw? = some r) (h1 : 0x10 ≤ r.op.toNat) (h2 : r.op.toNat < 0x18) :
    LeavesLasting (exec i) := by
  cases i
  all_goals cases h
  all_goals simp at h1 h2
  case br o => exact br_leaves o
  case call o => exact call_leaves o
  case ret g => exact ret_leaves g
  case jr o => exact jr_leaves o
  case loop o => exact loop_leaves o
  case loopi o => exact loopi_leaves o
  case loops o => exact loops_leaves o
  case lbrk o => exact lbrk_leaves o
  case exit g => exact exit_leaves g
  case exitr o => exact exitr_leaves o
  case yield g => exact yield_leaves g
  case waitp o => exact waitp_leaves o
  case nop o => exact nop_leaves o
  case send o => exact send_leaves o
  case sendv o => exact sendv_leaves o
  case sendd o => exact sendd_leaves o
  case req o => exact req_leaves o
  case recv o => exact recv_leaves o
  case steert o => exact steert_leaves o
  case reconf o => exact reconf_leaves o
  case ten o => exact ten_leaves o
  case tdis o => exact tdis_leaves o
  case tpset o => exact tpset_leaves o
  case tpclr o => exact tpclr_leaves o
  case tqry o => exact tqry_leaves o

/-- Settles O43: a form of an OP below 0x28 is a word over its firing's registers, or a control or token form; each changes its own
firing, its tile, what a read asks for, or takes its fault. -/
theorem formsBelowTheMemoryFormsLeaveMemory : Obligations.FormsBelowTheMemoryFormsLeaveMemory := by
  intro i r s s' hr ho h
  have hl : LeavesLasting (exec i) := by
    by_cases hc : 0x10 ≤ r.op.toNat ∧ r.op.toNat < 0x18
    · obtain ⟨h1, h2⟩ := hc
      exact controlForm_leaves hr h1 h2
    · exact registerForm_leaves hr (by omega)
  exact lasting_iff.1 (hl s s' h)

end Sys2Proof.Machine
end

section
/-! A word over its firing's own registers, and the scalar floating forms (R121, R125 to R132): O6. -/

namespace Sys2Proof.Machine

/-- A word over its firing's registers whose slots may all be named: it completes with the firing that its body gives. -/
theorem issueReg_completes {s : State} {t : TileId} {f f' : Firing} {g : BitVec 4} {l : List Nat} {u : Nat} {body : Firing → Ex Firing}
    (h : Issues s t f g) (hl : Usable f l) (hb : body f = (need f l >>= fun _ => pure f')) :
    issueReg g u body s = .next (s.setFiring t f'.advance) :=
  issueReg_next h.cur h.here h.on (struck_none h.sound _ _) (by rw [hb, need_ok hl]; rfl)

/-- The flags that a result raises, and nothing else, are added to FPF (R125). -/
theorem setFloat_fpf (f : Firing) (d : BitVec 10) (r : Nat × Flags) : (f.setFloat d r).fpf = f.fpf ||| r.2.bits := rfl

/-- Settles O6, class by class: each form is a register word over the slots that its class names. -/
theorem floatAndConversionFormsWriteResultAndFlags : Obligations.FloatAndConversionFormsWriteResultAndFlags := by
  refine ⟨⟨fun s t f o h hu => ?arith, fun s t f o h hu => ?unary, fun s t f o h hu => ?compare, fun f d v x => setFloat_fpf f d (v, x)⟩,
    fun s t f => ⟨fun o h hu => ?int, fun o h hu => ?float, fun o h hu => ?fp8⟩⟩
  all_goals
    intros
    and_intros
  all_goals exact issueReg_completes h hu rfl

end Sys2Proof.Machine
end

section
/-! The lanes of an octet: reading them back, bit by bit, and putting an octet together from its own (R122, R133, R142). -/

namespace Sys2Proof.Machine

/-! ## Lanes -/

/-- A bit of a lane is the octet's bit at the lane's place. -/
theorem lane_testBit (v i : Nat) {n j : Nat} (hj : j < n) : (lane n v i).testBit j = v.testBit (n * i + j) := by
  rw [lane, Nat.testBit_mod_two_pow, Nat.testBit_div_two_pow, Nat.add_comm j]
  simp [hj]

/-- A lane reads back as built. -/
theorem lane_buildLanes (n : Nat) (f : Nat → Nat) {i L : Nat} (hi : i < L) : lane n (buildLanes n f L) i = f i % 2 ^ n := by
  rw [lane, Nat.pow_mul]
  exact digitSum_digit (F := buildLanes n f) (d := fun i => f i % 2 ^ n) rfl (fun k => by rw [← Nat.pow_mul]; rfl)
    (fun k => Nat.mod_lt _ (by positivity)) hi

/-- Lanes built from the lanes of a number give it back, as far as they reach. -/
theorem buildLanes_lane (n v L : Nat) : buildLanes n (lane n v) L = v % 2 ^ (n * L) := by
  induction L with
  | zero => simp [buildLanes, Nat.mod_one]
  | succ L ih => rw [buildLanes, ih, lane, Nat.mod_mod, Nat.mul_succ, Nat.pow_add, Nat.mod_mul, Nat.mul_comm (2 ^ (n * L))]

theorem lane_and (n a b i : Nat) : lane n (a &&& b) i = lane n a i &&& lane n b i := by
  simp only [lane, Nat.and_div_two_pow, Nat.and_mod_two_pow]
theorem lane_or (n a b i : Nat) : lane n (a ||| b) i = lane n a i ||| lane n b i := by
  simp only [lane, Nat.or_div_two_pow, Nat.or_mod_two_pow]
theorem lane_xor (n a b i : Nat) : lane n (a ^^^ b) i = lane n a i ^^^ lane n b i := by
  simp only [lane, Nat.xor_div_two_pow, Nat.xor_mod_two_pow]

/-! ## Octets (R51, R122) -/

theorem slotsNat_lt (f : Firing) (d k : Nat) : f.slotsNat d k < 2 ^ (64 * k) := by
  induction k generalizing d with
  | zero => simp [Firing.slotsNat]
  | succ k ih =>
    have h := ih (d + 1)
    have hs := (f.slot d).isLt
    rw [Firing.slotsNat, Nat.mul_succ, Nat.add_comm (64 * k), Nat.pow_add]
    calc (f.slot d).toNat + 2 ^ 64 * f.slotsNat (d + 1) k
        < 2 ^ 64 * (f.slotsNat (d + 1) k + 1) := by omega
      _ ≤ 2 ^ 64 * 2 ^ (64 * k) := Nat.mul_le_mul_left _ h

theorem octet_lt (f : Firing) (q : BitVec 7) : f.octet q < 2 ^ 512 := slotsNat_lt f (8 * q.toNat) 8

/-- The lanes of an integer type fill the octet (R56). -/
theorem ityBits_lanes (ty : ITy) : ityBits ty * (512 / ityBits ty) = 512 := by cases ty <;> rfl

/-- An octet is what its lanes of a type give. -/
theorem octet_of_lanes (ty : ITy) {v : Nat} (h : v < 2 ^ 512) : buildLanes (ityBits ty) (lane (ityBits ty) v) (512 / ityBits ty) = v := by
  rw [buildLanes_lane, ityBits_lanes, Nat.mod_eq_of_lt h]

/-! ## The lane logic that does not look at lanes (R135) -/

theorem vLogic_and (ty : ITy) {a b : Nat} (hb : b < 2 ^ 512) : vLogic .and ty a b = a &&& b := by
  rw [← octet_of_lanes ty (Nat.and_lt_two_pow a hb)]
  exact congrArg (buildLanes _ · _) (funext fun i => (lane_and ..).symm)
theorem vLogic_or (ty : ITy) {a b : Nat} (ha : a < 2 ^ 512) (hb : b < 2 ^ 512) : vLogic .or ty a b = a ||| b := by
  rw [← octet_of_lanes ty (Nat.or_lt_two_pow ha hb)]
  exact congrArg (buildLanes _ · _) (funext fun i => (lane_or ..).symm)
theorem vLogic_xor (ty : ITy) {a b : Nat} (ha : a < 2 ^ 512) (hb : b < 2 ^ 512) : vLogic .xor ty a b = a ^^^ b := by
  rw [← octet_of_lanes ty (Nat.xor_lt_two_pow ha hb)]
  exact congrArg (buildLanes _ · _) (funext fun i => (lane_xor ..).symm)

/-! ## Planes (R142) -/

/-- Bit i of word p of a transposition is bit p of item i. -/
theorem transpose_testBit {n m p i : Nat} (v : Nat) (hp : p < n) (hi : i < m) :
    (transpose n m v).testBit (m * p + i) = v.testBit (n * i + p) := by
  have hbit : ∀ g : Nat → Nat, (buildLanes 1 g m).testBit i = (g i).testBit 0 := fun g => by
    have h := lane_testBit (buildLanes 1 g m) i Nat.one_pos
    rw [lane_buildLanes 1 g hi, Nat.one_mul] at h
    simpa using h.symm
  rw [← lane_testBit _ _ hi, transpose, lane_buildLanes _ _ hp, Nat.testBit_mod_two_pow, hbit, ← lane_testBit _ _ hp]
  simp [hi, Nat.testBit_eq_decide_div_mod_eq]

end Sys2Proof.Machine
end

section
/-! The lane forms (R133 to R142): O7, O8. -/

namespace Sys2Proof.Machine

/-- Settles O7, class by class: each form is a register word over its octets, and the logic of whole lanes is that of the octets. -/
theorem laneArithmeticWritesItsOctet : Obligations.LaneArithmeticWritesItsOctet := by
  refine ⟨fun s t f => ⟨fun o h hu => ?arith, fun o h hu => ?logic⟩, fun s t f => ⟨fun o h hu => ?float, fun o h hu => ?unary⟩⟩
  case logic =>
    intro r
    have hs := octet_lt f o.s
    have ht := octet_lt f o.t
    rw [← vLogic_and o.ty ht, ← vLogic_or o.ty hs ht, ← vLogic_xor o.ty hs ht]
    and_intros
    all_goals exact issueReg_completes h hu rfl
  all_goals
    intros
    and_intros
  all_goals exact issueReg_completes h hu rfl

@[simp] theorem raiseFlags_none (f : Firing) : f.raiseFlags .none = f := by simp [Firing.raiseFlags, Flags.bits, Flags.none]

/-- A result that raises no flag writes its octet alone. -/
@[simp] theorem setOctetF_none (f : Firing) (q : BitVec 7) (v : Nat) : f.setOctetF q (v, .none) = f.setOctet q v := raiseFlags_none _

/-- Settles O8: each form is a register word over the slots that it names; an integer reduction raises no flag; the plane forms
transpose bits. -/
theorem laneMovesReductionsAndPlanesWriteD : Obligations.LaneMovesReductionsAndPlanesWriteD := by
  refine ⟨fun s t f => ?moves, fun s t f => ⟨fun o h hu => ?octets, fun o h hu => ?floats, fun o h hu => ?conversions, fun o h hu => ?pairs⟩⟩
  case moves =>
    and_intros
    all_goals exact fun o h hu => issueReg_completes h hu rfl
  case octets =>
    refine ⟨issueReg_completes h hu rfl, issueReg_completes h hu ?add, issueReg_completes h hu ?max, issueReg_completes h hu ?min,
      ⟨_, issueReg_completes h hu rfl, fun p i hp hi => transpose_testBit _ hp hi⟩,
      ⟨_, issueReg_completes h hu rfl, fun p i hp hi => transpose_testBit _ hi hp⟩⟩
    all_goals simp only [setOctetF_none]
  case floats => exact ⟨issueReg_completes h hu rfl, issueReg_completes h hu rfl⟩
  case conversions => exact issueReg_completes h hu rfl
  case pairs =>
    exact ⟨⟨_, issueReg_completes h hu rfl, fun p i hp hi => transpose_testBit _ hp hi⟩,
      ⟨_, issueReg_completes h hu rfl, fun p i hp hi => transpose_testBit _ hi hp⟩⟩

end Sys2Proof.Machine
end

section
/-! The token forms and the tag-bit forms (R182 to R189): O21, O22, O23. -/

namespace Sys2Proof.Machine

section Forms
variable {s : State} {t : TileId} {f : Firing}

/-! ## SEND, SENDV and SENDD (R182 to R184) -/

theorem exec_send (o : SENDo) (s : State) : exec (.send o) s = execSend o s := rfl
theorem exec_sendv (o : SENDVo) (s : State) : exec (.sendv o) s = execSendv o s := rfl
theorem exec_sendd (o : SENDDo) (s : State) : exec (.sendd o) s = execSendd o s := rfl

/-- A port with room takes one more token of the firing; at its rate it is TOKEN (R183). -/
theorem holdToken_room {p : Nat} (h : heldOn f p < hdrOutRate ((s.tile t).header f.node) p) (k : Token) :
    holdToken s t f p k = .ok { s := s, f := { f with out := f.out ++ [.tok p k] } } := by
  rw [holdToken, if_neg (Nat.not_le.2 h)]
theorem holdToken_full {p : Nat} (h : ¬ heldOn f p < hdrOutRate ((s.tile t).header f.node) p) (k : Token) :
    holdToken s t f p k = .error (.fault { code := .token, detail := subDetail 10 p }) := by
  rw [holdToken, if_pos (Nat.not_lt.1 h)]; rfl

/-- What a token carries of an octet: at most 64 bytes fit it. -/
theorem cutPayload_toNat (v : Nat) {n : Nat} (h : n ≤ 64) : (cutPayload v n).toNat = v % 2 ^ (8 * n) := by
  have h1 : v % 2 ^ (8 * n) < 2 ^ (8 * n) := Nat.mod_lt _ (by positivity)
  have h2 : 2 ^ (8 * n) ≤ 2 ^ 512 := Nat.pow_le_pow_right (by decide) (by omega)
  rw [cutPayload, BitVec.toNat_ofNat, Nat.mod_eq_of_lt (Nat.lt_of_lt_of_le h1 h2)]

theorem builtToken_bytes (s : State) (t : TileId) (f : Firing) (p v : Nat) {n : Nat} (stv : Bool) (st : BitVec 3) (last : Bool) (pri : BitVec 2)
    (h : n ≤ 64) : (builtToken s t f p v n stv st last pri).bytes.toNat = n :=
  Nat.mod_eq_of_lt (by omega)

section Send
variable {o : SENDo} (h : Issues s t f o.g) (hu : Usable f (octSlots o.q)) (hp : outPortOk o.port s t f = true)
  (hr : priOk o.pri t (s.tile t) = true)
include h hu hp hr

theorem send_leaves_holding (hm : heldOn f o.port.toNat < hdrOutRate ((s.tile t).header f.node) o.port.toNat) :
    Leaves (.send o) s t { f with out := f.out ++ [.tok o.port.toNat
      (builtToken s t f o.port.toNat (f.octet o.q) o.bytes.toNat o.stv o.steer o.last o.pri)] } := by
  rw [Leaves, exec_send]
  exact issue_completes h (by simp [hp, hr]) (by simp only [need_ok hu, holdToken_room hm]; rfl)
theorem send_faults (hm : ¬ heldOn f o.port.toNat < hdrOutRate ((s.tile t).header f.node) o.port.toNat) :
    Faults (.send o) s t f { code := .token, detail := subDetail 10 o.port.toNat } := by
  rw [Faults, exec_send]
  exact issue_faults h (by simp [hp, hr]) (by simp only [need_ok hu, holdToken_full hm]; rfl)

end Send

section Sendv
variable {o : SENDVo} (h : Issues s t f o.g) (hu : Usable f (octSlots o.q ++ sl o.t)) (hp : outPortOk o.port s t f = true)
  (hr : priOk o.pri t (s.tile t) = true) (hn : (f.slot o.t.toNat).toNat % 128 ≤ 64)
include h hu hp hr hn

theorem sendv_leaves_holding (hm : heldOn f o.port.toNat < hdrOutRate ((s.tile t).header f.node) o.port.toNat) :
    Leaves (.sendv o) s t { f with out := f.out ++ [.tok o.port.toNat
      (builtToken s t f o.port.toNat (f.octet o.q) ((f.slot o.t.toNat).toNat % 128) o.stv o.steer o.last o.pri)] } := by
  rw [Leaves, exec_sendv]
  exact issue_completes h (by simp [hp, hr]) (by simp only [need_ok hu, if_neg (Nat.not_lt.2 hn), holdToken_room hm]; rfl)
theorem sendv_faults (hm : ¬ heldOn f o.port.toNat < hdrOutRate ((s.tile t).header f.node) o.port.toNat) :
    Faults (.sendv o) s t f { code := .token, detail := subDetail 10 o.port.toNat } := by
  rw [Faults, exec_sendv]
  exact issue_faults h (by simp [hp, hr]) (by simp only [need_ok hu, if_neg (Nat.not_lt.2 hn), holdToken_full hm]; rfl)

end Sendv

/-- A field of a route tag, the low 39 bits of a slot (R184). -/
theorem routeField (r : Word) {hi lo n : Nat} (hn : hi + 1 = lo + n) (hl : hi < 39) :
    BitVec.ofNat n (bitsNat (r.toNat % 2 ^ 39) hi lo) = r.extractLsb' lo n := by
  refine BitVec.eq_of_getLsbD_eq fun i h => ?_
  simp only [bitsNat, hn, Nat.add_sub_cancel_left, BitVec.getLsbD_ofNat, BitVec.getLsbD_extractLsb', Nat.testBit_mod_two_pow,
    Nat.testBit_div_two_pow, h, Nat.add_comm i lo, show lo + i < 39 by omega, decide_true, Bool.true_and]
  rfl

/-- The token that a SENDD addresses by the route tag r (R184). -/
def routedToken (s : State) (f : Firing) (o : SENDDo) (r : Word) : Token :=
  { blankTok with
    dev := r.extractLsb' 27 12, stk := r.extractLsb' 25 2, tx := r.extractLsb' 20 5, ty := r.extractLsb' 16 4, node := 10
    port := r.extractLsb' 2 4, pri := r.extractLsb' 0 2, ctx := BitVec.ofNat 10 (s.ctxOf f), tag := f.tag, last := o.last, stv := o.stv
    steer := if o.stv then o.steer else 0, bytes := o.bytes, payload := cutPayload (f.octet o.q) o.bytes.toNat }

theorem sendd_leaves_holding {o : SENDDo} (h : Issues s t f o.g) (hu : Usable f (octSlots o.q ++ sl o.t))
    (hn : (f.slot o.t.toNat).extractLsb' 6 10 = 10) (hr : priOk ((f.slot o.t.toNat).extractLsb' 0 2) t (s.tile t) = true) :
    Leaves (.sendd o) s t { f with out := f.out ++ [.direct (routedToken s f o (f.slot o.t.toNat))] } := by
  rw [Leaves, exec_sendd]
  have hnode : bitsNat ((f.slot o.t.toNat).toNat % 2 ^ 39) 15 6 = 10 := by
    rw [← routeField _ (show 15 + 1 = 6 + 10 from rfl) (by decide)] at hn
    have := congrArg BitVec.toNat hn
    rw [BitVec.toNat_ofNat, bitsNat, Nat.mod_mod] at this
    exact this
  have hpri : BitVec.ofNat 2 ((f.slot o.t.toNat).toNat % 2 ^ 39) = (f.slot o.t.toNat).extractLsb' 0 2 := by
    rw [← routeField _ (show 1 + 1 = 0 + 2 from rfl) (by decide), bitsNat, Nat.pow_zero, Nat.div_one]
    exact (ofNat_mod 2 _).symm
  refine issue_completes h rfl ?_
  simp only [need_ok hu, hnode, hpri, hr, routeField (hi := 38) (lo := 27) (n := 12) _ rfl (by decide),
    routeField (hi := 26) (lo := 25) (n := 2) _ rfl (by decide), routeField (hi := 24) (lo := 20) (n := 5) _ rfl (by decide),
    routeField (hi := 19) (lo := 16) (n := 4) _ rfl (by decide), routeField (hi := 5) (lo := 2) (n := 4) _ rfl (by decide)]
  rfl

/-! ## RECV (R186) -/

theorem exec_recv (o : RECVo) (s : State) : exec (.recv o) s = execRecv o s := rfl

theorem setSlotsNat_inst (f : Firing) (d v k : Nat) : (f.setSlotsNat d v k).inst = f.inst := by
  induction k generalizing f d v with
  | zero => rfl
  | succ k ih => rw [Firing.setSlotsNat, ih, Firing.setSlot_inst]
theorem setOctet_inst (f : Firing) (q : BitVec 7) (v : Nat) : (f.setOctet q v).inst = f.inst := setSlotsNat_inst f _ v 8
theorem addRecvd_inst (f : Firing) (l : List (Nat × Token)) : { f with recvd := l }.inst = f.inst := rfl
theorem landRecv_inst (f : Firing) (q : BitVec 7) (p : Nat) (k : Token) : (landRecv f q p k).inst = f.inst := by
  unfold landRecv
  exact ((addRecvd_inst _ _).trans (Firing.setSlot_inst _ _ _)).trans (setOctet_inst f q k.payload.toNat)

section Recv
variable {o : RECVo} (h : Issues s t f o.g) (hu : Usable f (octSlots o.q)) (hp : inPortOk o.port s t f = true)
include h hu hp

theorem recv_faults (hl : tookLast f o.port.toNat = true) : Faults (.recv o) s t f { code := .token, detail := subDetail 11 o.port.toNat } := by
  rw [Faults, exec_recv]
  exact issue_faults h hp (by simp only [need_ok hu, hl]; rfl)

variable {e : Edge} (he : tabFind (s.tile t).edges (portKey f.node o.port.toNat) = some e) (hl : tookLast f o.port.toNat = false)
include he hl

theorem recv_takes {k : Token} {l : List FTok} (hk : takeTagged f.tag e.fifo = some (k, l)) :
    Becomes (.recv o) s t (progress (takeFifo s t (portKey f.node o.port.toNat) e l) (some f.inst)) (landRecv f o.q o.port.toNat k).advance := by
  rw [Becomes, exec_recv, ← landRecv_inst f o.q o.port.toNat k]
  exact issue_completes h hp (by simp only [need_ok hu, hl, tryRecv, he, hk]; rfl)
theorem recv_stands (hk : takeTagged f.tag e.fifo = none) :
    Becomes (.recv o) s t s { f with st := .stalled, wait := .recv o.q o.port.toNat } := by
  rw [Becomes, exec_recv]
  exact issue_stands h hp (by simp only [need_ok hu, hl, tryRecv, he, hk]; rfl)

end Recv

/-- The token taken is the first of its tag; those before and behind it stay in their order (R186). -/
theorem takeTagged_eq_some {tag : BitVec 32} {l r : List FTok} {k : Token} : takeTagged tag l = some (k, r) ↔
    ∃ a q b, l = a ++ q :: b ∧ r = a ++ b ∧ q.tok = k ∧ k.tag = tag ∧ ∀ x ∈ a, x.tok.tag ≠ tag := by
  induction l generalizing r with
  | nil => simp [takeTagged]
  | cons p l ih =>
    rw [takeTagged]
    by_cases hp : p.tok.tag = tag
    · rw [if_pos hp]
      constructor
      · rintro ⟨⟩
        exact ⟨[], p, l, rfl, rfl, rfl, hp, by simp⟩
      · rintro ⟨a, q, b, hl, rfl, rfl, -, ha⟩
        cases a with
        | nil => cases hl; rfl
        | cons y a => cases hl; exact absurd hp (ha _ List.mem_cons_self)
    · rw [if_neg hp]
      constructor
      · intro h
        split at h
        next k' r' hk =>
          cases h
          obtain ⟨a, q, b, rfl, rfl, hq, hk, ha⟩ := ih.1 hk
          exact ⟨p :: a, q, b, rfl, rfl, hq, hk, List.forall_mem_cons.2 ⟨hp, ha⟩⟩
        next => cases h
      · rintro ⟨a, q, b, hl, rfl, rfl, hk, ha⟩
        cases a with
        | nil => cases hl; exact absurd hk hp
        | cons y a =>
          cases hl
          rw [ih.2 ⟨a, q, b, rfl, rfl, rfl, hk, (List.forall_mem_cons.1 ha).2⟩]
          rfl

/-! ## REQ, STEERT, RECONF (R185, R187, R188) -/

theorem exec_req (o : PORT9) (s : State) : exec (.req o) s = execReq o s := rfl
theorem exec_steert (o : STEERTo) (s : State) : exec (.steert o) s = execSteert o s := rfl
theorem exec_reconf (o : PORT9) (s : State) : exec (.reconf o) s = execReconf o s := rfl

section Req
variable {o : PORT9} {e : Edge} (h : Issues s t f o.g) (hp : inPortOk o.port s t f = true)
  (he : tabFind (s.tile t).edges (portKey f.node o.port.toNat) = some e) (hl : e.pull = true)
include h hp he hl

/-- Enough is at hand or on its way. -/
theorem req_leaves_as_asked (hn : o.n.toNat ≤ e.fifo.length + (e.asked - e.arrived)) : Leaves (.req o) s t f := by
  rw [Leaves, exec_req]
  exact issue_completes h hp (by simp only [he, hl, if_neg (Nat.not_lt.2 hn)]; rfl)
/-- The positions that are missing are asked for. -/
theorem req_asks (hn : e.fifo.length + (e.asked - e.arrived) < o.n.toNat) :
    Becomes (.req o) s t (askMore s t (portKey f.node o.port.toNat) (o.n.toNat - (e.fifo.length + (e.asked - e.arrived)))
      (BitVec.ofNat 2 (hdrPri ((s.tile t).header f.node))) (s.ctxOf f)) f.advance := by
  rw [Becomes, exec_req]
  exact issue_completes h hp (by simp only [he, hl, if_pos hn]; rfl)

end Req

theorem steert_sets {o : STEERTo} (h : Issues s t f o.g) (hp : outPortOk o.port s t f = true) :
    Leaves (.steert o) s t { f with steer := tabSet f.steer o.port.toNat (o.stv, if o.stv then o.steer else 0) } := by
  rw [Leaves, exec_steert]
  exact issue_completes h hp rfl
theorem reconf_held {o : PORT9} (h : Issues s t f o.g) (hp : outPortOk o.port s t f = true) :
    Leaves (.reconf o) s t { f with out := f.out ++ [.reconf o.port.toNat o.n.toNat] } := by
  rw [Leaves, exec_reconf]
  exact issue_completes h hp rfl

/-! ## Tag bits (R189) -/

theorem exec_ten (o : M16) (s : State) : exec (.ten o) s = execTen o s := rfl
theorem exec_tdis (o : M16) (s : State) : exec (.tdis o) s = execTdis o s := rfl
theorem exec_tpset (o : M16) (s : State) : exec (.tpset o) s = execTpset o s := rfl
theorem exec_tpclr (o : M16) (s : State) : exec (.tpclr o) s = execTpclr o s := rfl
theorem exec_tqry (o : OneD) (s : State) : exec (.tqry o) s = execTqry o s := rfl

theorem runTag_completes {o : M16} (h : Issues s t f o.g) (k : Tile → Nat → BitVec 16 → Tile) :
    runTag o k s = .next ((wakeTile (s.setTile t (k (s.tile t) f.node o.m)) t).setFiring t f.advance) :=
  issue_completes h rfl rfl

/-- E of one node is set, or P; the other nodes keep theirs. -/
theorem tagEn_set (x : Tile) (n m : Nat) (v : BitVec 16) :
    Tile.tagEn { x with tagE := tabSet x.tagE n v } m = if m = n then v else x.tagEn m := tabGet_tabSet _ _ _ _ _
theorem tagPend_set (x : Tile) (n m : Nat) (v : BitVec 16) :
    Tile.tagPend { x with tagP := tabSet x.tagP n v } m = if m = n then v else x.tagPend m := tabGet_tabSet _ _ _ _ _

/-- A tag-bit form leaves its own node's E and P as given, those of other nodes as they were, and firings and memory alone. -/
def SetsTags (i : Instr) (s : State) (t : TileId) (f : Firing) (en pend : BitVec 16) : Prop :=
  ∃ s2 : State, Becomes i s t s2 f.advance ∧
    (∀ n, (s2.tile t).tagEn n = if n = f.node then en else (s.tile t).tagEn n) ∧
    (∀ n, (s2.tile t).tagPend n = if n = f.node then pend else (s.tile t).tagPend n) ∧
    (s2.tile t).firings = (s.tile t).firings ∧ s2.mem = s.mem

theorem setsTags_en {i : Instr} {v : BitVec 16}
    (h : exec i s = .next ((wakeTile (s.setTile t { s.tile t with tagE := tabSet (s.tile t).tagE f.node v }) t).setFiring t f.advance)) :
    SetsTags i s t f v ((s.tile t).tagPend f.node) := by
  refine ⟨_, h, fun n => ?_, fun n => ?_, ?_, rfl⟩
  all_goals simp only [wakeTile_tile, State.tile_setTile_self]
  · exact tagEn_set _ _ _ _
  · split
    next e => rw [e]; rfl
    next => rfl
theorem setsTags_pend {i : Instr} {v : BitVec 16}
    (h : exec i s = .next ((wakeTile (s.setTile t { s.tile t with tagP := tabSet (s.tile t).tagP f.node v }) t).setFiring t f.advance)) :
    SetsTags i s t f ((s.tile t).tagEn f.node) v := by
  refine ⟨_, h, fun n => ?_, fun n => ?_, ?_, rfl⟩
  all_goals simp only [wakeTile_tile, State.tile_setTile_self]
  · split
    next e => rw [e]; rfl
    next => rfl
  · exact tagPend_set _ _ _ _

theorem tqry_leaves_bits {o : OneD} (h : Issues s t f o.g) (hu : Usable f (sl o.d)) :
    Leaves (.tqry o) s t (f.setSlot o.d.toNat
      (((s.tile t).tagEn f.node ++ (s.tile t).tagPend f.node : BitVec 32).setWidth 64)) := by
  have hv : ((s.tile t).tagEn f.node ++ (s.tile t).tagPend f.node : BitVec 32).setWidth 64 =
      BitVec.ofNat 64 (((s.tile t).tagEn f.node).toNat * 2 ^ 16 + ((s.tile t).tagPend f.node).toNat) := by
    rw [← toNat_append_add, BitVec.ofNat_toNat]
  rw [Leaves, exec_tqry, hv]
  exact issue_completes h rfl (by simp only [need_ok hu]; rfl)

end Forms

/-- Settles O21: a port's room decides between the held token and TOKEN; the fields are those that the forms build. -/
theorem sendFormsHoldTheirTokens : Obligations.SendFormsHoldTheirTokens := by
  intro s t f
  refine ⟨fun o h hu hp hr hn => ⟨fun hm => ?send, send_faults h hu hp hr⟩, fun o h hu hp hr hn => ⟨fun hm => ?sendv, sendv_faults h hu hp hr hn⟩,
    fun o h hu hn hr hb => ?sendd⟩
  case send =>
    exact ⟨_, send_leaves_holding h hu hp hr hm, rfl, rfl, rfl, rfl, rfl, builtToken_bytes _ _ _ _ _ _ _ _ _ hn, cutPayload_toNat _ hn, rfl⟩
  case sendv =>
    exact ⟨_, sendv_leaves_holding h hu hp hr hn hm, rfl, rfl, rfl, rfl, rfl, builtToken_bytes _ _ _ _ _ _ _ _ _ hn, cutPayload_toNat _ hn, rfl⟩
  case sendd =>
    exact ⟨_, sendd_leaves_holding h hu hn hr, rfl, rfl, rfl, rfl, rfl, rfl, rfl, rfl, rfl, rfl, cutPayload_toNat _ hb⟩

/-- Settles O22: the three courses of RECV, and what it takes of a FIFO, by induction over it. -/
theorem recvTakesTheOldestTokenOfItsTag : Obligations.RecvTakesTheOldestTokenOfItsTag :=
  ⟨fun _ _ _ _ _ h hu hp he => ⟨fun hl _ _ hk => recv_takes h hu hp he hl hk, fun hl hk => recv_stands h hu hp he hl hk, recv_faults h hu hp⟩,
   fun _ _ _ _ => takeTagged_eq_some⟩

/-- Settles O23, form by form; each tag-bit form sets one of the two tables at its own node. -/
theorem requestSteeringAndTagForms : Obligations.RequestSteeringAndTagForms := by
  intro s t f
  refine ⟨fun o e h hp he hl => ⟨req_leaves_as_asked h hp he hl, req_asks h hp he hl⟩, fun o h hp => steert_sets h hp,
    fun o h hp => reconf_held h hp, fun o h _ _ => ⟨?ten, ?tdis, ?tpset, ?tpclr⟩, fun o h hu => tqry_leaves_bits h hu⟩
  case ten => exact setsTags_en ((exec_ten o s).trans (runTag_completes h _))
  case tdis => exact setsTags_en ((exec_tdis o s).trans (runTag_completes h _))
  case tpset => exact setsTags_pend ((exec_tpset o s).trans (runTag_completes h _))
  case tpclr => exact setsTags_pend ((exec_tpclr o s).trans (runTag_completes h _))

end Sys2Proof.Machine
end

section
/-! Ranges of commands (R178, R179): O24. -/

namespace Sys2Proof.Machine

/-- A machine in a replay: an open of another tile's firing stands queued at stack 0 for a holder that is not registered yet (R408). -/
def replayWaits : State :=
  { State.reset with stks := [(0, { waits := [{ rid := 0, who := .window ⟨0, 2, 0⟩ 1 0, regs := [], uses := [], due := 0, decided := false
                                                winner := some 0 }] })] }

/-- A command that has nothing to register goes on there, but the open is to be looked at again. -/
theorem rangesOf_replayWaits : rangesOf replayWaits ⟨0, 1, 0⟩ wordFiring [] (.ok ()) =
    .ok (.ready (replayWaits.laterAll [.wtOpenRequest 0]) wordFiring [] []) := rfl

/-- Refutes O24: entering no registrations at all still schedules the look at a replayed open that waits for its winner, so the state
in which the command goes on is not the one in which it was issued. -/
theorem not_rangesOfACommandAreGranted : ¬ Obligations.RangesOfACommandAreGranted := by
  intro h
  obtain ⟨-, unregistered⟩ := h replayWaits ⟨0, 1, 0⟩ wordFiring [] (fun _ he => absurd he List.not_mem_nil)
  have hg := unregistered rfl (by simp) (by decide)
  rw [Granted, rangesOf_replayWaits] at hg
  injection hg with hg
  injection hg with hs
  exact absurd (congrArg (·.acts) hs) (by decide)

end Sys2Proof.Machine
end

section
/-! SUPPORT. Checks that a body passes, and a tile's table of commands (R177). -/

namespace Sys2Proof.Machine

/-! ## The checks of a body that are met -/

@[simp] theorem ok_bind {α β : Type} (a : α) (k : α → Ex β) : (Except.ok a : Ex α) >>= k = k a := rfl
@[simp] theorem waitFor_true : waitFor true = .ok () := rfl
@[simp] theorem unless_true (c : FCode) (n : Nat) : unless_ true c n = .ok () := rfl

/-! ## Commands (R177) -/

section Commands
variable {s : State} {t : TileId}

/-- A command changed in place is found by its identity. -/
theorem cmd?_setCmd {c : Cmd} (h : ∃ d ∈ (s.tile t).cmds, d.id = c.id) : (s.setCmd t c).cmd? t c.id = some c := by
  simp only [State.cmd?, State.setCmd, State.tile_setTile_self]
  generalize (s.tile t).cmds = l at h
  induction l with
  | nil => simp at h
  | cons d r ih =>
    by_cases hd : d.id = c.id
    · simp [hd]
    · simpa [hd] using ih (by simpa [hd] using h)

section Attach
variable (s : State) (t : TileId) (f : Firing) (k : CmdKind) (acq rel : Bool) (sc : Scope) (l : List Range) (regs : List (Nat × Nat))
  (away : List AwayReg)

/-- A new command stands at the end of the tile's table, under the next identity. -/
theorem attach_cmds : ((attach s t f k acq rel sc l regs away).2.tile t).cmds =
    (s.tile t).cmds ++ [(attach s t f k acq rel sc l regs away).1] := by simp [attach]

/-- A new command with fields of its own added to it. -/
theorem cmd?_attach {c : Cmd} (h : c.id = (s.tile t).nextCmd) :
    ((attach s t f k acq rel sc l regs away).2.setCmd t c).cmd? t (s.tile t).nextCmd = some c := by
  rw [← h]
  refine cmd?_setCmd ?_
  rw [attach_cmds]
  exact ⟨_, List.mem_concat_self, h.symm⟩

end Attach

end Commands

end Sys2Proof.Machine
end

section
/-! Operand memory (R191 to R196): O25. -/

namespace Sys2Proof.Machine

section Forms
variable {s : State} {t : TileId} {f : Firing}

theorem exec_oclaim (o : OMo) (s : State) : exec (.oclaim o) s = execOclaim o s := rfl
theorem exec_orelease (o : OMo) (s : State) : exec (.orelease o) s = execOrelease o s := rfl
theorem exec_oload (o : OLOADo) (s : State) : exec (.oload o) s = execOload o s := rfl
theorem exec_ostore (o : OSTOREo) (s : State) : exec (.ostore o) s = execOstore o s := rfl
theorem exec_ozero (o : OZEROo) (s : State) : exec (.ozero o) s = execOzero o s := rfl
theorem exec_ostat (o : OSTATo) (s : State) : exec (.ostat o) s = execOstat o s := rfl

/-! ## OCLAIM and ORELEASE (R191) -/

theorem claimedOk_omslot {x : Tile} {o : Nat} (h : (x.slotOf o).claimed = false) :
    claimedOk x o = .error (.fault { code := .omslot, detail := omDetail o (x.slotOf o).nplanes 0 }) := by
  rw [claimedOk, h]; rfl

section Claim
variable {o : OMo} (h : Issues s t f o.g)
include h

theorem oclaim_claims (hc : ((s.tile t).slotOf o.o.toNat).claimed = false) : Becomes (.oclaim o) s t
    (s.setOm t o.o.toNat { (s.tile t).slotOf o.o.toNat with claimed := true, firid := firidOf f, owner := some f.id }) f.past := by
  rw [Becomes, exec_oclaim]
  exact issue_completes h rfl (by simp only [hc]; rfl)
theorem oclaim_faults (hc : ((s.tile t).slotOf o.o.toNat).claimed = true) : Faults (.oclaim o) s t f
    { code := .omslot, detail := omDetail o.o.toNat ((s.tile t).slotOf o.o.toNat).nplanes 0 } := by
  rw [Faults, exec_oclaim]
  exact issue_faults h rfl (by simp only [hc]; rfl)
theorem orelease_held (hc : ((s.tile t).slotOf o.o.toNat).claimed = true) :
    Becomes (.orelease o) s t s { f with out := f.out ++ [Held.orel o.o.toNat] }.past := by
  rw [Becomes, exec_orelease]
  exact issue_completes h rfl (by simp only [claimedOk_ok hc]; rfl)
theorem orelease_faults (hc : ((s.tile t).slotOf o.o.toNat).claimed = false) : Faults (.orelease o) s t f
    { code := .omslot, detail := omDetail o.o.toNat ((s.tile t).slotOf o.o.toNat).nplanes 0 } := by
  rw [Faults, exec_orelease]
  exact issue_faults h rfl (by simp only [claimedOk_omslot hc]; rfl)

end Claim

/-! ## OLOAD (R192) -/

theorem tileRow_extract (w : Word) : (w.extractLsb' 0 32).toNat = tileRow w := by simp [tileRow]
theorem tileCol_extract (w : Word) : (w.extractLsb' 32 32).toNat = tileCol w := by
  have := w.isLt
  simp only [tileCol, BitVec.extractLsb'_toNat, Nat.shiftRight_eq_div_pow]
  omega

/-- The state after an OLOAD, the command attached: its slot fills (R192). -/
def State.fills (s : State) (t : TileId) (n : Nat) : State :=
  s.setOm t n { (s.tile t).slotOf n with filling := true, nplanes := 0, planes := [], ws := 0, wu := 0, got := 0 }

theorem oload_fills {o : OLOADo} {d : Desc} {tr tc : Nat} {s' : State} {f' : Firing} {regs : List (Nat × Nat)} {away : List AwayReg}
    (h : Issues s t f o.g) (hu : Usable f (octSlots o.q ++ sl o.t)) (hd : planeDesc f o.q = .ok d) (htr : tr = tileRow (f.slot o.t.toNat))
    (htc : tc = tileCol (f.slot o.t.toNat)) (hc : ((s.tile t).slotOf o.o.toNat).claimed = true)
    (hf : ((s.tile t).slotOf o.o.toNat).filling = false) (hr : slotRead (s.tile t) o.o.toNat = false)
    (hg : Granted s t f [⟨false, d.tileArea tr tc⟩] s' f' regs away) : Becomes (.oload o) s t
      ((attached s' t f' (.oload o.o.toNat d tr tc o.wake.toNat o.bit.toNat) o.acq false o.scope [⟨false, d.tileArea tr tc⟩] regs away).fills
        t o.o.toNat) f'.past := by
  subst htr htc
  rw [Granted] at hg
  rw [Becomes, exec_oload]
  refine issue_completes h rfl ?_
  simp only [need_ok hu, hd, hr, hf, claimedOk_ok hc, ok_bind, Bool.not_false, Bool.and_self, waitFor_true, hg]
  rfl

/-! ## OSTORE (R194) -/

/-- A store whose planes are all written and acknowledged, no beat dropped, ends at once. -/
theorem ostoreRun_ends {s s5 : State} {n k o tr tc : Nat} {d : Desc} {c0 c : Cmd} (h0 : s.cmd? t k = some c0) (hk : c0.kind = .ostore o d tr tc)
    (hw : storePlanes t k d tr tc (c0.snap.getD []) d.planes s = .ok s5) (hc : s5.cmd? t k = some c) (ha : c.acks = 0)
    (hm : c.missed = false) : ostoreRun t k (n + 1) s = forget (endCmd s5 t c .done) t c := by
  simp [ostoreRun, h0, hk, hw, hc, ha, hm]

/-- The planes of a slot as an OSTORE takes them at issue. -/
def OmSlot.bytes (m : OmSlot) : List Byte := (List.range m.nplanes).flatMap (fun p => bytesOf 1024 (m.plane p))

/-- The state in which an OSTORE makes its writes: its command attached, with the bytes it took (R194). -/
def attachedStore (s : State) (t : TileId) (f : Firing) (o : OSTOREo) (d : Desc) (tr tc : Nat) (b : List Byte) (regs : List (Nat × Nat))
    (away : List AwayReg) : State :=
  let r := attach s t { f with committed := true } (.ostore o.o.toNat d tr tc) false o.rel o.scope [⟨true, d.tileArea tr tc⟩] regs away
  r.2.setCmd t { r.1 with snap := some b }

theorem attachedStore_run {o : OSTOREo} {d : Desc} {tr tc : Nat} {b : List Byte} {regs : List (Nat × Nat)} {away : List AwayReg} {s5 : State}
    {c : Cmd} (hw : storePlanes t (s.tile t).nextCmd d tr tc b d.planes (attachedStore s t f o d tr tc b regs away) = .ok s5)
    (h5 : s5.cmd? t (s.tile t).nextCmd = some c) (ha : c.acks = 0) (hm : c.missed = false) :
    ostoreRun t (s.tile t).nextCmd 2 (attachedStore s t f o d tr tc b regs away) = forget (endCmd s5 t c .done) t c :=
  ostoreRun_ends (cmd?_attach _ _ _ _ _ _ _ _ _ _ rfl) rfl hw h5 ha hm

theorem ostore_stores {o : OSTOREo} {d : Desc} {tr tc : Nat} {s' s5 : State} {f' : Firing} {regs : List (Nat × Nat)} {away : List AwayReg}
    {c : Cmd} (h : Issues s t f o.g) (hu : Usable f (octSlots o.q ++ sl o.t)) (hd : planeDesc f o.q = .ok d)
    (htr : tr = tileRow (f.slot o.t.toNat)) (htc : tc = tileCol (f.slot o.t.toNat)) (hc : ((s.tile t).slotOf o.o.toNat).claimed = true)
    (hf : ((s.tile t).slotOf o.o.toNat).filling = false) (hp : ((s.tile t).slotOf o.o.toNat).nplanes = d.planes)
    (hr : o.rel = true → relReady s t f = true ∧ enginesIdle (s.tile t) f.id = true)
    (hg : Granted s t f [⟨true, d.tileArea tr tc⟩] s' f' regs away)
    (hw : storePlanes t (s'.tile t).nextCmd d tr tc ((s.tile t).slotOf o.o.toNat).bytes d.planes
      (attachedStore s' t f' o d tr tc ((s.tile t).slotOf o.o.toNat).bytes regs away) = .ok s5)
    (h5 : s5.cmd? t (s'.tile t).nextCmd = some c) (ha : c.acks = 0) (hm : c.missed = false) :
    let s6 := forget (endCmd s5 t c .done) t c
    Becomes (.ostore o) s t s6 { f' with committed := true, failed := (s6.firing? t f'.id).bind (fun g => g.failed) }.past := by
  subst htr htc
  have hrel : (!o.rel || (relReady s t f && enginesIdle (s.tile t) f.id)) = true := by
    cases e : o.rel with
    | false => rfl
    | true => simp [hr e]
  have hrun := attachedStore_run hw h5 ha hm
  rw [Granted] at hg
  rw [Becomes, exec_ostore]
  refine issue_completes h rfl ?_
  simp only [need_ok hu, hd, hf, hrel, claimedOk_ok hc, ok_bind, Bool.not_false, waitFor_true, if_pos hp.symm, hg]
  rw [← hrun]
  rfl

/-! ## OZERO (R195) and OSTAT (R196) -/

theorem ozero_zeros {o : OZEROo} (h : Issues s t f o.g) (hc : ((s.tile t).slotOf o.o.toNat).claimed = true)
    (hf : ((s.tile t).slotOf o.o.toNat).filling = false) (hr : slotRead (s.tile t) o.o.toNat = false)
    (ha : (tabFind (s.tile t).edges (portKey 16 o.o.toNat)).isNone = true) : Becomes (.ozero o) s t
      (s.setOm t o.o.toNat { (s.tile t).slotOf o.o.toNat with nplanes := o.p1.toNat + 1, planes := [], ws := 1, wu := 1 }) f.past := by
  have ha : (tabFind (s.tile t).edges (portKey 16 o.o.toNat)).isSome = false := by simpa using ha
  rw [Becomes, exec_ozero]
  exact issue_completes h rfl (by simp only [claimedOk_ok hc, hf, hr, ha]; rfl)

/-- The bits of an OSTAT above the plane count. -/
theorem omStat_bits (m : OmSlot) : ∃ x, omStat m = m.nplanes + 2 ^ 6 * (m.filling.toNat + 2 * (m.claimed.toNat + 2 * x)) := by
  obtain ⟨x, hx⟩ : ∃ x, (if decide (m.nplanes ≠ 0) && !m.filling then m.ws * 2 ^ 8 + m.wu * 2 ^ 16 else 0) = 2 ^ 8 * x := by
    split
    · exact ⟨m.ws + m.wu * 2 ^ 8, by ring⟩
    · exact ⟨0, rfl⟩
  refine ⟨x, ?_⟩
  rw [omStat, hx]
  cases m.filling <;> cases m.claimed <;> simp <;> omega

theorem omStat_fields {m : OmSlot} (h : m.nplanes < 64) :
    (BitVec.ofNat 64 (omStat m)).getLsbD 6 = m.filling ∧ (BitVec.ofNat 64 (omStat m)).getLsbD 7 = m.claimed ∧
    ((BitVec.ofNat 64 (omStat m)).extractLsb' 0 6).toNat = m.nplanes := by
  obtain ⟨x, hx⟩ := omStat_bits m
  rw [hx, extract_ofNat _ (by decide), BitVec.toNat_ofNat]
  simp only [BitVec.getLsbD_ofNat, Nat.testBit_eq_decide_div_mod_eq]
  refine ⟨?_, ?_, by omega⟩
  · cases m.filling <;> simp <;> omega
  · have := Bool.toNat_lt m.filling
    cases m.claimed <;> simp <;> omega

theorem ostat_tells {o : OSTATo} (h : Issues s t f o.g) (hu : Usable f (sl o.d)) :
    Becomes (.ostat o) s t s (f.setSlot o.d.toNat (BitVec.ofNat 64 (omStat ((s.tile t).slotOf o.o.toNat)))).past := by
  rw [Becomes, exec_ostat]
  exact issue_completes h rfl (by simp only [need_ok hu]; rfl)

end Forms

/-- Settles O25, form by form: OLOAD and OSTORE once their range is granted, OSTORE by the run of its writes. -/
theorem operandMemoryForms : Obligations.OperandMemoryForms := by
  intro s t f
  refine ⟨fun o h => ⟨oclaim_claims h, oclaim_faults h, orelease_held h, orelease_faults h⟩, ?load, ?store,
    fun o h hc hf hr ha => ozero_zeros h hc hf hr ha, fun o h hu => ⟨_, ostat_tells h hu, omStat_fields⟩⟩
  case load => exact fun o d s' f' regs away h hu hd hc hf hr hg => oload_fills h hu hd (tileRow_extract _) (tileCol_extract _) hc hf hr hg
  case store =>
    exact fun o d s' s5 f' regs away c h hu hd hc hf hp hr hg hw h5 ha hm =>
      ostore_stores h hu hd (tileRow_extract _) (tileCol_extract _) hc hf hp hr hg hw h5 ha hm

end Sys2Proof.Machine
end

section
/-! Copies (R203 to R207, R210, R211): O27. -/

namespace Sys2Proof.Machine

section Forms
variable {s : State} {t : TileId} {f : Firing}

theorem exec_cpy (o : CPYo) (s : State) : exec (.cpy o) s = runCopy .cpy o s := rfl
theorem exec_cpyp (o : CPYo) (s : State) : exec (.cpyp o) s = runCopy .cpyp o s := rfl
theorem exec_cpyt (o : CPYo) (s : State) : exec (.cpyt o) s = runCopy .cpyt o s := rfl
theorem exec_gath (o : CPYo) (s : State) : exec (.gath o) s = runCopy .gath o s := rfl
theorem exec_scat (o : CPYo) (s : State) : exec (.scat o) s = runCopy .scat o s := rfl
theorem exec_cpyr (o : CPYo) (s : State) : exec (.cpyr o) s = runCopy .cpyr o s := rfl
theorem exec_cwait (o : CWAITo) (s : State) : exec (.cwait o) s = execCwait o s := rfl
theorem exec_cqry (o : DS) (s : State) : exec (.cqry o) s = execCqry o s := rfl

@[simp] theorem needE_true (sub val : Nat) : needE true sub val = .ok () := rfl

/-! ## The start of a copy (R203) -/

/-- A copy has started in a state: its command stands queued under the next identity, which slot D holds, the firing is committed, and
memory is as it was. -/
def Starts (i : Instr) (s : State) (t : TileId) (o : CPYo) (b : Block) (k : CmdKind) (s' : State) (f' : Firing) (regs : List (Nat × Nat)) :
    Prop :=
  ∃ s2 : State, Becomes i s t s2 { (f'.setSlot o.d.toNat (BitVec.ofNat 64 ((s'.tile t).nextCmd % 2 ^ 32))) with committed := true }.past ∧
    (∃ c, s2.cmd? t (s'.tile t).nextCmd = some c ∧ c.kind = k ∧ c.owner = f'.id ∧ c.st = .queued ∧ c.acq = o.acq ∧ c.rel = o.rel ∧
      c.evid = b.evid ∧ c.toNode = (b.flg == 1) ∧ c.ranges = regs) ∧ s2.mem = s'.mem

section Start
variable {k : CopyForm} {o : CPYo} {b : Block} {v w : Nat} {s2 s' : State} {f' : Firing} {regs : List (Nat × Nat)} {away : List AwayReg}
  (hg : Granted s2 t f (copyWork k b (readDesc v) (readDesc w)).2 s' f' regs away)
include hg

theorem startCopy_granted : startCopy k o b v w s2 t f =
    let r := attach s' t f' (copyWork k b (readDesc v) (readDesc w)).1 o.acq o.rel o.scope (copyWork k b (readDesc v) (readDesc w)).2 regs away
    .ok { s := r.2.setCmd t { r.1 with
            evid := b.evid, cdst := BitVec.ofNat 24 b.cdst, toNode := b.flg == 1, block := BitVec.ofNat 512 (f'.octet o.q)
            descs := (BitVec.ofNat 512 v, BitVec.ofNat 512 w) }
          f := { f'.setSlot o.d.toNat (BitVec.ofNat 64 ((s'.tile t).nextCmd % 2 ^ 32)) with committed := true } } := by
  rw [Granted] at hg
  simp only [startCopy, hg, ok_bind]
  rfl

/-- A copy form that comes to its second stage, its ranges granted, starts. -/
theorem starts_of_runCopy {i : Instr} (h : Issues s t f o.g) (hi : exec i s = runCopy k o s)
    (hr : runCopy k o s = .next (issueOn t f o.g .boundary true (startCopy k o b v w s2 t f) s)) :
    Starts i s t o b (copyWork k b (readDesc v) (readDesc w)).1 s' f' regs := by
  rw [startCopy_granted hg, issueOn_done h.on] at hr
  exact ⟨_, hi.trans hr, ⟨_, cmd?_attach s' t f' (copyWork k b (readDesc v) (readDesc w)).1 o.acq o.rel o.scope
    (copyWork k b (readDesc v) (readDesc w)).2 regs away rfl, rfl, rfl, rfl, rfl, rfl, rfl, rfl, rfl⟩, rfl⟩

end Start

section First
variable {k : CopyForm} {o : CPYo} (h : Issues s t f o.g) (hu : Usable f (sl o.d ++ octSlots o.q)) (ht : throttleOpen s t = true)
  (hm : copyRoom (s.tile t) f = true) (hb : blockOk k (readBlock (f.octet o.q)) = .ok ())
include h hu ht hm hb

/-- The first stage of CPY and CPYR: areas that do not overlap, of this device (R204). -/
theorem runCopy_block (hk : k.described = false)
    (hl : (readBlock (f.octet o.q)).src + (readBlock (f.octet o.q)).len ≤ (readBlock (f.octet o.q)).dst ∨
      (readBlock (f.octet o.q)).dst + (readBlock (f.octet o.q)).len ≤ (readBlock (f.octet o.q)).src)
    (hs : ownerAway s (s.ctxOf f) (readBlock (f.octet o.q)).src = false)
    (hd : k = .cpyr ∨ ownerAway s (s.ctxOf f) (readBlock (f.octet o.q)).dst = false) :
    runCopy k o s = .next (issueOn t f o.g .boundary true (startCopy k o (readBlock (f.octet o.q)) 0 0 s t f) s) := by
  have hl : (!(decide ((readBlock (f.octet o.q)).src < (readBlock (f.octet o.q)).dst + (readBlock (f.octet o.q)).len) &&
      decide ((readBlock (f.octet o.q)).dst < (readBlock (f.octet o.q)).src + (readBlock (f.octet o.q)).len))) = true := by
    simp only [Bool.not_eq_true', Bool.and_eq_false_iff, decide_eq_false_iff_not]
    omega
  have hd : (decide (k = .cpyr) || !ownerAway s (s.ctxOf f) (readBlock (f.octet o.q)).dst) = true := by
    rcases hd with hd | hd <;> simp [hd]
  rw [runCopy, issue_next h.cur h.here]
  simp only [ht, need_ok hu, hm, hk, hb, hl, hs, hd, waitFor_true, ok_bind, needE_true, Bool.not_false, Bool.false_eq_true, if_false]
  rfl

/-- The first stage of the other forms: two descriptors read, in order (R203, R205 to R207). -/
theorem runCopy_described (hk : k.described = true) {v w : Nat} {s1 s2 : State} (hs : (readBlock (f.octet o.q)).src % 64 = 0)
    (hd : (readBlock (f.octet o.q)).dst % 64 = 0) (hv : readAtHome s t f (readBlock (f.octet o.q)).src = .ok (.got v s1))
    (hw : readAtHome s1 t f (readBlock (f.octet o.q)).dst = .ok (.got w s2)) (ov : descOk v = true) (ow : descOk w = true)
    (hf : formOk k (readBlock (f.octet o.q)) (readDesc v) (readDesc w) = true) :
    runCopy k o s = .next (issueOn t f o.g .boundary true (startCopy k o (readBlock (f.octet o.q)) v w s2 t f) s) := by
  rw [runCopy, issue_next h.cur h.here]
  simp only [ht, need_ok hu, hm, hk, hb, hs, hd, hv, hw, ov, ow, hf, waitFor_true, ok_bind, needE_true, unless_true, beq_self_eq_true, if_true]
  rfl

end First

/-! ## CWAIT (R210) -/

theorem cwaitSet_eq (x : Tile) (f : Firing) (all : Bool) (n : Nat) : cwaitSet x f (if all then none else some n) =
    x.cmds.filter (fun c => decide (c.owner = f.id) && c.isCopy && (all || decide (c.id = n))) := by
  cases all <;> rfl

theorem copyState_met {l : List Cmd} (h : ∀ c ∈ l, c.st = .done) : copyState l = .met := by
  have hf : l.find? (fun c => decide (c.st = .failed)) = none := List.find?_eq_none.2 fun c hc => by simp [h c hc]
  have hp : l.any (fun c => c.pending) = false := List.any_eq_false.2 fun c hc => by simp [Cmd.pending, h c hc]
  rw [copyState, hf, hp]
  rfl
theorem copyState_notYet {l : List Cmd} (h : ∀ c ∈ l, c.st ≠ .failed) (hd : ∃ c ∈ l, c.st ≠ .done) : copyState l = .notYet := by
  obtain ⟨c, hc, hne⟩ := hd
  have hf : l.find? (fun c => decide (c.st = .failed)) = none := List.find?_eq_none.2 fun c hc => by simp [h c hc]
  have hp : l.any (fun c => c.pending) = true := List.any_eq_true.2 ⟨c, hc, by
    have := h c hc
    cases e : c.st <;> simp_all [Cmd.pending]⟩
  rw [copyState, hf, hp]
  rfl
theorem copyState_failed {c : Cmd} {e : FInfo} (h : c.st = .failed) (he : c.fault = some e) : copyState [c] = .failed e := by
  simp [copyState, h, he]

section Cwait
variable {o : CWAITo} (h : Issues s t f o.g) (hu : Usable f (if o.all then [] else sl o.s))
include h hu

theorem cwait_goesOn (hw : copyState (cwaitSet (s.tile t) f (if o.all then none else some (f.slot o.s.toNat).toNat)) = .met) :
    Becomes (.cwait o) s t s f.past := by
  rw [Becomes, exec_cwait]
  exact issue_completes h rfl (by simp only [need_ok hu, hw]; rfl)
theorem cwait_stands (hw : copyState (cwaitSet (s.tile t) f (if o.all then none else some (f.slot o.s.toNat).toNat)) = .notYet) :
    Becomes (.cwait o) s t s { f with
      st := .stalled, wait := .cwait (if o.all then none else some (f.slot o.s.toNat).toNat), waveLast := none } := by
  rw [Becomes, exec_cwait]
  exact issue_stands (f' := { f with st := .stalled, wait := .cwait (if o.all then none else some (f.slot o.s.toNat).toNat) }) h rfl
    (by simp only [need_ok hu, hw]; rfl)
theorem cwait_faults {e : FInfo} (hw : copyState (cwaitSet (s.tile t) f (if o.all then none else some (f.slot o.s.toNat).toNat)) = .failed e) :
    Faults (.cwait o) s t f e := by
  rw [Faults, exec_cwait]
  exact issue_faults h rfl (by simp only [need_ok hu, hw]; rfl)

end Cwait

/-! ## CQRY (R211) -/

/-- What CQRY tells of a copy that has met no fault. -/
def copyStatus (c : Cmd) : Word := BitVec.ofNat 64 (c.st.num + c.chunk % 2 ^ 24 * 2 ^ 8)

theorem copyStatus_fields (c : Cmd) : ((copyStatus c).extractLsb' 0 8).toNat = c.st.num ∧
    ((copyStatus c).extractLsb' 8 24).toNat = c.chunk % 2 ^ 24 ∧ (copyStatus c).extractLsb' 32 32 = 0 := by
  have hn : c.st.num < 4 := by cases c.st <;> decide
  refine ⟨?_, ?_, BitVec.eq_of_toNat_eq ?_⟩
  all_goals
    rw [copyStatus, extract_ofNat _ (by decide), BitVec.toNat_ofNat]
  · omega
  · omega
  · simp only [BitVec.ofNat_eq_ofNat, BitVec.toNat_ofNat]
    omega

section Cqry
variable {o : DS} (h : Issues s t f o.g) (hu : Usable f (sl o.d ++ sl o.s))
include h hu

theorem cqry_none (hm : cwaitSet (s.tile t) f (some (f.slot o.s.toNat).toNat) = []) :
    Becomes (.cqry o) s t s (f.setSlot o.d.toNat (BitVec.allOnes 64)).past := by
  rw [Becomes, exec_cqry]
  exact issue_completes h rfl (by simp only [need_ok hu, hm]; rfl)
theorem cqry_tells {c : Cmd} {l : List Cmd} (hm : cwaitSet (s.tile t) f (some (f.slot o.s.toNat).toNat) = c :: l) (hf : c.fault = none) :
    Becomes (.cqry o) s t s (f.setSlot o.d.toNat (copyStatus c)).past := by
  rw [Becomes, exec_cqry]
  exact issue_completes h rfl (by simp only [need_ok hu, hm, List.head?_cons, hf]; rfl)

end Cqry

end Forms

/-- Settles O27: a copy form by its first stage, then the granted ranges; CWAIT and CQRY by what they find among the firing's copies. -/
theorem copyFormsAttachWaitAndTell : Obligations.CopyFormsAttachWaitAndTell := by
  refine ⟨fun s t f o s' f' regs away h hu ht hm _ => ⟨fun hb hl hs hg => ⟨?cpyr, fun hd => ?cpy⟩,
    fun v w s1 s2 hs hd hv hw ov ow => ?described⟩, fun s t f => ⟨fun o h hu => ?cwait, fun o h hu => ?cqry⟩⟩
  case cpyr => exact starts_of_runCopy (v := 0) (w := 0) hg h (exec_cpyr o s) (runCopy_block h hu ht hm hb rfl hl hs (.inl rfl))
  case cpy => exact starts_of_runCopy (v := 0) (w := 0) hg h (exec_cpy o s) (runCopy_block h hu ht hm hb rfl hl hs (.inr hd))
  case described =>
    exact ⟨fun hb hf hg => starts_of_runCopy hg h (exec_cpyp o s) (runCopy_described h hu ht hm hb rfl hs hd hv hw ov ow hf),
      fun hb hf hg => starts_of_runCopy hg h (exec_cpyt o s) (runCopy_described h hu ht hm hb rfl hs hd hv hw ov ow hf),
      fun hb hf hg => starts_of_runCopy hg h (exec_gath o s) (runCopy_described h hu ht hm hb rfl hs hd hv hw ov ow hf),
      fun hb hf hg => starts_of_runCopy hg h (exec_scat o s) (runCopy_described h hu ht hm hb rfl hs hd hv hw ov ow hf)⟩
  case cwait =>
    rw [← cwaitSet_eq]
    exact ⟨fun hd => cwait_goesOn h hu (copyState_met hd), fun hf hd => ⟨_, cwait_stands h hu (copyState_notYet hf hd)⟩,
      fun c e hm hf he => cwait_faults h hu (by rw [hm, copyState_failed hf he])⟩
  case cqry => exact ⟨fun hm => cqry_none h hu hm, fun c l hm hf => ⟨_, cqry_tells h hu hm hf, copyStatus_fields c⟩⟩

end Sys2Proof.Machine
end

section
/-! The lookup-cell block's forms and the head of its queue (R212 to R217, R280): O28. -/

namespace Sys2Proof.Machine

section Forms
variable {s : State} {t : TileId} {f : Firing}

theorem exec_lctx (o : LCTXo) (s : State) : exec (.lctx o) s = execLctx o s := rfl
theorem exec_lbind (o : LBINDo) (s : State) : exec (.lbind o) s = execLbind o s := rfl
theorem exec_lbindClear (g : BitVec 4) (s : State) : exec (.lbindClear g) s = execLbindClear g s := rfl
theorem exec_leval (o : LEVALo) (s : State) : exec (.leval o) s = execLeval o s := rfl
theorem exec_ltload (o : LTLo) (s : State) : exec (.ltload o) s = runLcbLoad false o s := rfl
theorem exec_lwire (o : LTLo) (s : State) : exec (.lwire o) s = runLcbLoad true o s := rfl
theorem exec_lwait (o : LWAITo) (s : State) : exec (.lwait o) s = execLwait o s := rfl

/-! ## Forms that join the queue (R212, R213, R215, R216) -/

theorem lctx_joins {o : LCTXo} (h : Issues s t f o.g) : Becomes (.lctx o) s t (lcbAdd s t (.ctx o.c)) f.advance := by
  rw [Becomes, exec_lctx]
  exact issue_completes h rfl rfl
theorem lbind_joins {o : LBINDo} (h : Issues s t f o.g) (hc : ((s.tile t).slotOf o.o.toNat).claimed = true) :
    Becomes (.lbind o) s t (lcbAdd s t (.bind o.sig.toNat o.o.toNat)) f.advance := by
  rw [Becomes, exec_lbind]
  exact issue_completes h rfl (by simp only [claimedOk_ok hc]; rfl)
theorem lbind_faults {o : LBINDo} (h : Issues s t f o.g) (hc : ((s.tile t).slotOf o.o.toNat).claimed = false) :
    Faults (.lbind o) s t f { code := .omslot, detail := omDetail o.o.toNat ((s.tile t).slotOf o.o.toNat).nplanes 0 } := by
  rw [Faults, exec_lbind]
  exact issue_faults h rfl (by simp only [claimedOk_omslot hc]; rfl)
theorem lbindClear_joins {g : BitVec 4} (h : Issues s t f g) : Becomes (.lbindClear g) s t (lcbAdd s t .unbind) f.advance := by
  rw [Becomes, exec_lbindClear]
  exact issue_completes h rfl rfl

/-- The evaluation that an LEVAL asks for (R216). -/
def levalJob (x : Tile) (f : Firing) (o : LEVALo) : LevalJob :=
  { owner := f.id, q := o.q, n := o.n1.toNat + 1, next := 0, sig := o.sig.toNat, orphan := false, stamp := x.nextCmd }

theorem leval_joins {o : LEVALo} (h : Issues s t f o.g) (hu : Usable f (octSlots o.q)) (ht : throttleOpen s t = true) :
    Becomes (.leval o) s t (lcbAdd s t (.eval (levalJob (s.tile t) f o))) { f with st := .stalled, wait := .leval } := by
  rw [Becomes, exec_leval]
  exact issue_stands h rfl (by simp only [ht, need_ok hu]; rfl)

/-! ## The head of the queue (R280) -/

/-- A block that is free, of a tile that runs, takes the form at the head of its queue. -/
theorem levalLayer_shifts (hh : (s.tile t).halting = false) (ha : (s.tile t).atHalt = false) (hj : (s.tile t).lcb.job = none) :
    exec (.levalLayer t) s = .next (s.setLcb t (s.tile t).lcb.shift) := by
  have runs : ((s.tile t).halting || (s.tile t).atHalt) = false := by rw [hh, ha]; rfl
  simp only [exec_levalLayer, levalStep, runs, hj, Bool.false_eq_true, if_false]
  rfl

theorem shift_ctx {l : Lcb} {c : BitVec 3} {q : List LcbForm} (h : l.queue = .ctx c :: q) : l.shift = { l with ac := c, queue := q } := by
  rw [Lcb.shift, h]
theorem shift_bind {l : Lcb} {k n : Nat} {q : List LcbForm} (h : l.queue = .bind k n :: q) :
    l.shift = { l with binds := tabSet l.binds k n, queue := q } := by rw [Lcb.shift, h]
theorem shift_unbind {l : Lcb} {q : List LcbForm} (h : l.queue = .unbind :: q) : l.shift = { l with binds := [], queue := q } := by
  rw [Lcb.shift, h]
theorem shift_eval {l : Lcb} {j : LevalJob} {q : List LcbForm} (h : l.queue = .eval j :: q) (hj : j.begun = none) :
    l.shift = { l with job := some { j with begun := some (l.ac, l.binds) }, queue := q } := by
  simp only [Lcb.shift, h, hj, Option.getD_none]

/-! ## LTLOAD and LWIRE (R214) -/

section Load
variable {o : LTLo} (h : Issues s t f o.g) (hu : Usable f (sl o.s))
include h hu

theorem lcbLoad_attaches (wire : Bool) {k : CmdKind} {n : Nat} {s' : State} {f' : Firing} {regs : List (Nat × Nat)} {away : List AwayReg}
    (hk : k = if wire then .lwire o.c.toNat (f.slot o.s.toNat).toNat else .ltload o.c.toNat (f.slot o.s.toNat).toNat)
    (hn : n = if wire then 16384 else 8192) (ha : (f.slot o.s.toNat).toNat % 64 = 0)
    (hg : Granted s t f [⟨false, lineArea (f.slot o.s.toNat).toNat n⟩] s' f' regs away) : runLcbLoad wire o s = .next
      ((attached s' t f' k o.acq false o.scope [⟨false, lineArea (f.slot o.s.toNat).toNat n⟩] regs away).setFiring t f'.advance) := by
  subst hk hn
  rw [Granted] at hg
  refine issue_completes h rfl ?_
  simp only [need_ok hu, ha, ok_bind, beq_self_eq_true, unless_true, hg]
  rfl
theorem lcbLoad_faults (wire : Bool) (ha : (f.slot o.s.toNat).toNat % 64 ≠ 0) :
    runLcbLoad wire o s = .next (takeFault s t f { code := .align, detail := vaDetail (f.slot o.s.toNat).toNat }) :=
  issue_faults h rfl (by simp only [need_ok hu, beq_false_of_ne ha]; rfl)

end Load

/-! ## LWAIT (R217) -/

theorem lwaitMet_iff (x : Tile) (m : BitVec 8) : lwaitMet x m = true ↔ ∀ c, c < 8 → m.getLsbD c = true → loadingCtx x c = false := by
  simp [lwaitMet]

theorem lwait_goesOn {o : LWAITo} (h : Issues s t f o.g) (hm : lwaitMet (s.tile t) o.m = true) : Leaves (.lwait o) s t f := by
  rw [Leaves, exec_lwait]
  exact issue_completes h rfl (by simp only [hm]; rfl)
theorem lwait_stands {o : LWAITo} (h : Issues s t f o.g) (hm : lwaitMet (s.tile t) o.m = false) :
    Becomes (.lwait o) s t s { f with st := .stalled, wait := .lwait o.m } := by
  rw [Becomes, exec_lwait]
  exact issue_stands h rfl (by simp only [hm]; rfl)

end Forms

/-- Settles O28: what each form adds to the queue or attaches, and what its head does to a free block. -/
theorem lookupCellForms : Obligations.LookupCellForms := by
  intro s t f
  refine ⟨fun o h => lctx_joins h, fun o h => ⟨lbind_joins h, fun hc => ⟨_, lbind_faults h hc⟩⟩, fun g h => lbindClear_joins h,
    fun o h hu ht => ⟨_, leval_joins h hu ht, rfl, rfl, rfl, rfl, rfl, rfl⟩, fun hh ha hj q l hq => ?head,
    fun o s' f' regs away h hu => ⟨?ltload, ?lwire, ?align⟩, fun o h => ⟨fun hm => ?met, fun ⟨c, hc, hm, hl⟩ => ?loading⟩⟩
  case head =>
    have step := levalLayer_shifts hh ha hj
    refine ⟨fun c e => ?_, fun k n e => ?_, fun e => ?_, fun j e hb => ?_⟩
    all_goals subst e
    · exact step.trans (by rw [shift_ctx hq])
    · exact step.trans (by rw [shift_bind hq])
    · exact step.trans (by rw [shift_unbind hq])
    · exact step.trans (by rw [shift_eval hq hb])
  case ltload => exact fun ha hg => (exec_ltload o s).trans (lcbLoad_attaches h hu false rfl rfl ha hg)
  case lwire => exact fun ha hg => (exec_lwire o s).trans (lcbLoad_attaches h hu true rfl rfl ha hg)
  case align =>
    exact fun ha => ⟨(exec_ltload o s).trans (lcbLoad_faults h hu false ha), (exec_lwire o s).trans (lcbLoad_faults h hu true ha)⟩
  case met => exact lwait_goesOn h ((lwaitMet_iff _ _).2 hm)
  case loading =>
    refine lwait_stands h (Bool.eq_false_iff.2 fun hw => ?_)
    have := (lwaitMet_iff _ _).1 hw c hc hm
    simp [hl] at this

end Sys2Proof.Machine
end

section
/-! SUPPORT. The bytes of a record by its fields (R401, R403), and the queue that a record joins (R420). -/

namespace Sys2Proof.Machine

/-! ## Fields one after another (R401) -/

/-- A record's fields, each with its size in bytes and its value, one after another from a byte on. -/
def packed : Nat → List (Nat × Nat) → Nat
  | _, [] => 0
  | o, (n, v) :: r => fld o n v + packed (o + n) r

def fieldBytes (l : List (Nat × Nat)) : Nat := (l.map Prod.fst).sum

@[simp] theorem fieldBytes_nil : fieldBytes [] = 0 := rfl
@[simp] theorem fieldBytes_cons (p : Nat × Nat) (l : List (Nat × Nat)) : fieldBytes (p :: l) = p.1 + fieldBytes l := by simp [fieldBytes]

theorem packed_append (o : Nat) (a b : List (Nat × Nat)) : packed o (a ++ b) = packed o a + packed (o + fieldBytes a) b := by
  induction a generalizing o with
  | nil => simp [packed]
  | cons p r ih => simp only [List.cons_append, packed, ih, fieldBytes_cons, Nat.add_assoc]

theorem packed_shift (o : Nat) (l : List (Nat × Nat)) : packed o l = 2 ^ (8 * o) * packed 0 l := by
  induction l generalizing o with
  | nil => rfl
  | cons p r ih =>
    rw [packed, packed, ih (o + p.1), ih (0 + p.1)]
    simp only [fld, Nat.mul_add, Nat.pow_add, Nat.mul_zero, pow_zero]
    ring

theorem packed_cons (n v : Nat) (r : List (Nat × Nat)) : packed 0 ((n, v) :: r) = v % 2 ^ (8 * n) + 2 ^ (8 * n) * packed 0 r := by
  rw [packed, packed_shift (0 + n)]
  simp [fld]

theorem packed_lt (l : List (Nat × Nat)) : packed 0 l < 2 ^ (8 * fieldBytes l) := by
  induction l with
  | nil => simp [packed]
  | cons p r ih =>
    rw [packed_cons, fieldBytes_cons, Nat.mul_add, Nat.pow_add]
    have h1 := Nat.mod_lt p.2 (Nat.two_pow_pos (8 * p.1))
    have h2 := Nat.mul_le_mul_left (2 ^ (8 * p.1)) ih
    rw [Nat.mul_succ] at h2
    omega

theorem bytesOf_drop (m o x : Nat) : (bytesOf m x).drop o = bytesOf (m - o) (x / 256 ^ o) := by
  induction o generalizing m x with
  | zero => simp
  | succ o ih =>
    cases m with
    | zero => simp [bytesOf]
    | succ m => rw [bytesOf, List.drop_succ_cons, ih, Nat.div_div_eq_div_mul, ← Nat.pow_succ', Nat.succ_sub_succ]

theorem bytesOf_take {m n : Nat} (h : n ≤ m) (x : Nat) : (bytesOf m x).take n = bytesOf n x := by
  induction n generalizing m x with
  | zero => simp [bytesOf]
  | succ n ih =>
    obtain ⟨m, rfl⟩ := Nat.exists_eq_succ_of_ne_zero (Nat.ne_of_gt (Nat.zero_lt_of_lt h))
    rw [bytesOf, bytesOf, List.take_succ_cons, ih (Nat.le_of_succ_le_succ h)]

/-- A field of the bytes of a number. -/
theorem leField_bytesOf {m o n : Nat} (h : o + n ≤ m) (x : Nat) : leField (bytesOf m x) o n = x / 2 ^ (8 * o) % 2 ^ (8 * n) := by
  rw [leField, bytesOf_drop, bytesOf_take (by omega), wordOfBytes_bytesOf, Nat.pow_mul, Nat.pow_mul]

/-- A field of a record reads back as it was put. -/
theorem leField_packed {m : Nat} (a b : List (Nat × Nat)) (n v : Nat) (h : fieldBytes a + n ≤ m) :
    leField (bytesOf m (packed 0 (a ++ (n, v) :: b))) (fieldBytes a) n = v % 2 ^ (8 * n) := by
  rw [leField_bytesOf h, packed_append, Nat.zero_add, packed_shift (fieldBytes a), Nat.add_mul_div_left _ _ (Nat.two_pow_pos _),
    Nat.div_eq_of_lt (packed_lt a), Nat.zero_add, packed_cons, Nat.add_mul_mod_self_left, Nat.mod_mod]

/-! ## The queue that a record joins (R420) -/

@[simp] theorem queue_setQueue (s : State) (q : QSel) (x : RQueue) : (s.setQueue q x).queue q = x := by
  cases q <;> simp [State.setQueue, State.queue]

@[simp] theorem post_tile (s : State) (q : QSel) (b : Nat) (t : TileId) : (s.post q b).tile t = s.tile t := by
  obtain ⟨_, _, _, _, h⟩ := post_frame s q b; rw [h]; rfl

/-- A record is the newest of its queue, or of the management queue where its own is not enabled, with its number (QSEQ). -/
theorem post_waiting (s : State) (q : QSel) (b : Nat) : let q' := if (s.queue q).en = true ∨ q = .mg then q else .mg
    ((s.post q b).queue q').waiting = (s.queue q').waiting ++
      [bytesOf 64 (b + fld 6 2 ((s.queue q).head.toNat + (s.queue q).waiting.length))] := by
  have later_queue : ∀ (s : State) a q, (s.later a).queue q = s.queue q := fun s a q => by cases q <;> rfl
  simp only [State.post, Bool.or_eq_true, decide_eq_true_eq, later_queue, queue_setQueue]

theorem FCode.num_lt (c : FCode) : c.num < 2 ^ 8 := by cases c <;> decide
theorem Course.num_lt (c : Course) : c.num < 2 ^ 8 := by cases c <;> decide

/-- The fields of a FAULT record (R403), with its number (R401). -/
theorem faultRecord_packed (s : State) (r : RecSrc) (e : FInfo) (word pc node tag : Nat) (c : Course) (attempt k : Nat) :
    faultRecord s r e word pc node tag c attempt + fld 6 2 k =
      packed 0 [(1, 1), (1, e.code.num), (2, srcField r),
        (2, r.ctx % 1024 + s.partOfCtx r.ctx % 16 * 2 ^ 10 + (if r.entry.isSome then 2 ^ 15 else 0)), (2, k), (8, s.cyc r.tile.stk),
        (24, e.detail), (8, word), (2, pc), (2, node), (4, tag), (1, c.num), (1, attempt), (2, s.dev), (4, e.cmd)] := by
  simp only [faultRecord, recHeader, packed, Nat.reduceAdd]
  omega

/-- TYPE, CODE, PC and COURSE of a FAULT record. -/
theorem faultRecord_fields (s : State) (r : RecSrc) (e : FInfo) (word pc node tag : Nat) (c : Course) (attempt k : Nat) :
    let b := bytesOf 64 (faultRecord s r e word pc node tag c attempt + fld 6 2 k)
    leField b 0 1 = 1 ∧ leField b 1 1 = e.code.num ∧ leField b 0x30 2 = pc % 2 ^ 16 ∧ leField b 0x38 1 = c.num := by
  simp only [faultRecord_packed]
  refine ⟨?type, ?code, ?pc, ?course⟩
  case type => exact leField_packed [] _ _ _ (by decide)
  case code => exact (leField_packed [(1, 1)] _ _ _ (by decide)).trans (Nat.mod_eq_of_lt e.code.num_lt)
  case pc => exact leField_packed [(1, 1), (1, _), (2, _), (2, _), (2, _), (8, _), (24, _), (8, _)] _ _ _ (by simp)
  case course =>
    exact (leField_packed [(1, 1), (1, _), (2, _), (2, _), (2, _), (8, _), (24, _), (8, _), (2, _), (2, _), (4, _)] _ _ _ (by simp)).trans
      (Nat.mod_eq_of_lt c.num_lt)

end Sys2Proof.Machine
end

section
/-! SUPPORT. Taking a fault: what each course leaves of its firing (R238, R239, R241). -/

namespace Sys2Proof.Machine

/-! ## What a record and the end of a firing's work leave of tiles and queues -/

theorem dropGranted_frame (s : State) (f : Firing) : ∃ k o, dropGranted s f = { s with stks := k, outbox := o } := by
  unfold dropGranted
  split
  · exact ⟨_, _, rfl⟩
  · next l a _ =>
    obtain ⟨k, hk⟩ := dropRanges_frame s l
    obtain ⟨o, ho⟩ := releaseAway_frame (dropRanges s l) a
    exact ⟨k, o, by rw [ho, hk]⟩

theorem dropAway_frame (s : State) (t : TileId) (c : Nat) (f : Firing) : ∃ o r, dropAway s t c f = { s with outbox := o, remote := r } := by
  have released : ∀ (s s' : State) l, (∃ o, s' = { s with outbox := o }) → ∃ o, releaseAway s' l = { s with outbox := o } := by
    rintro s _ l ⟨o, rfl⟩
    obtain ⟨o', h⟩ := releaseAway_frame { s with outbox := o } l
    exact ⟨o', h⟩
  obtain ⟨o, h⟩ := released s _ _ (released s _ _ (releaseAway_frame s _))
  exact ⟨o, _, by rw [dropAway, h]⟩

@[simp] theorem dropGranted_tile (s : State) (f : Firing) (u : TileId) : (dropGranted s f).tile u = s.tile u := by
  obtain ⟨_, _, h⟩ := dropGranted_frame s f; rw [h]; rfl
@[simp] theorem dropGranted_queue (s : State) (f : Firing) (q : QSel) : (dropGranted s f).queue q = s.queue q := by
  obtain ⟨_, _, h⟩ := dropGranted_frame s f; rw [h]; cases q <;> rfl
@[simp] theorem dropAway_tile (s : State) (t u : TileId) (c : Nat) (f : Firing) : (dropAway s t c f).tile u = s.tile u := by
  obtain ⟨_, _, h⟩ := dropAway_frame s t c f; rw [h]; rfl
@[simp] theorem dropAway_stks (s : State) (t : TileId) (c : Nat) (f : Firing) : (dropAway s t c f).stks = s.stks := by
  obtain ⟨_, _, h⟩ := dropAway_frame s t c f; rw [h]
@[simp] theorem dropResv_tile (s : State) (t u : TileId) (i : Nat) : (dropResv s t i).tile u = s.tile u := rfl
@[simp] theorem dropRegs_tile (s : State) (t u : TileId) (i : Nat) : (dropRegs s t i).tile u = s.tile u := rfl
@[simp] theorem startPull_tile (s : State) (p : Option (Nat × Nat × Nat × Nat × Nat)) (u : TileId) : (startPull s p).tile u = s.tile u := by
  unfold startPull
  split
  · rfl
  · split <;> rfl
@[simp] theorem awaitPage_tile (s : State) (t u : TileId) (i : Nat) (p : Option (Nat × Nat × Nat × Nat × Nat)) :
    (awaitPage s t i p).tile u = s.tile u := by
  unfold awaitPage; split <;> rfl
@[simp] theorem postFault_tile (s : State) (c : Nat) (e : FInfo) (b : Nat) (u : TileId) : (postFault s c e b).tile u = s.tile u := by
  unfold postFault
  split
  · split <;> simp
  · dsimp only; split <;> simp

theorem reindex_firings (x : Tile) : (reindex x).firings = x.firings := by
  unfold reindex
  refine List.foldlRecOn (motive := fun y : Tile => y.firings = x.firings) _ _ rfl fun y hy q _ => ?_
  unfold indexTok
  split <;> exact hy

theorem returnRecv_firings (x : Tile) (f : Firing) : (returnRecv x f).firings = x.firings := by
  refine (reindex_firings _).trans ?_
  refine List.foldlRecOn (motive := fun y : Tile => y.firings = x.firings) _ _ rfl fun y hy q _ => ?_
  dsimp only
  split <;> exact hy

/-- Entries of a table that is changed in place are as the change leaves them. -/
theorem tabGet_map_rel {α : Type} {d : α} {g : Nat × α → Nat × α} (P : α → α → Prop) (hk : ∀ q, (g q).1 = q.1) (hd : P d d)
    (hg : ∀ q, P q.2 (g q).2) (l : Tab α) (k : Nat) : P (tabGet d l k) (tabGet d (l.map g) k) := by
  induction l with
  | nil => exact hd
  | cons q r ih =>
    rw [List.map_cons, tabGet, tabGet, hk]
    split_ifs
    · exact hd
    · exact hg q
    · exact ih

theorem dropRegs_regs (s : State) (t : TileId) (i k : Nat) :
    ((dropRegs s t i).stack k).regs = (s.stack k).regs.filter (fun r => r.holder != .firing t i) := by
  refine tabGet_map_rel (fun x y : Stack => y.regs = x.regs.filter (fun r => r.holder != .firing t i)) ?_ rfl ?_ s.stks k <;> exact fun _ => rfl
theorem dropResv_regs (s : State) (t : TileId) (i k : Nat) : ((dropResv s t i).stack k).regs = (s.stack k).regs := by
  refine tabGet_map_rel (fun x y : Stack => y.regs = x.regs) ?_ rfl ?_ s.stks k <;> exact fun _ => rfl

/-! ## The firing that stands suspended (R241) -/

theorem suspendFiring_firing {s : State} {t : TileId} {f g : Firing} (h : s.firing? t f.id = some g) :
    ∃ j, (suspendFiring s t f).firing? t f.id = some { f with
      st := .suspended, wait := .none, held := false, resv := none, reeval := j, fromDrain := f.fromDrain || decide (f.st = .draining) } := by
  refine ⟨_, State.firing?_setFiring (g := g) ?_⟩
  rw [State.firing?, dropResv_tile]
  split
  · rw [State.tile_setTile_self]; exact h
  · exact h

@[simp] theorem suspendFiring_queue (s : State) (t : TileId) (f : Firing) (q : QSel) : (suspendFiring s t f).queue q = s.queue q := by
  unfold suspendFiring
  dsimp only
  split <;> cases q <;> rfl

/-! ## The firing that is aborted (R239) -/

section Abort
variable (s : State) (t : TileId) (f : Firing) (c : FCode) (n : Nat)

theorem abortFiring_tile : (abortFiring s t f c n).tile t =
    let x := abortEngines (returnRecv (s.tile t) f) f
    { x with store := x.store.filter (fun e => e.owner != f.id)
             tagP := tabSet x.tagP f.node (tabGet 0 x.tagP f.node ||| f.cleared) }.setFiring
      { f.clean .aborted (.cause c) with retries := n, cleared := 0 } := by
  refine (State.tile_setTile_self _ t _).trans ?_
  simp only [dropAway_tile, dropResv_tile, dropRegs_tile]

theorem abortFiring_firing {g : Firing} (h : s.firing? t f.id = some g) :
    (abortFiring s t f c n).firing? t f.id = some { f.clean .aborted (.cause c) with retries := n, cleared := 0 } := by
  rw [State.firing?, abortFiring_tile]
  refine Tile.firing?_setFiring (g := g) ?_
  rw [← h]
  exact congrArg (List.find? _) (returnRecv_firings _ f)

theorem abortFiring_store : ∀ b ∈ ((abortFiring s t f c n).tile t).store, b.owner ≠ f.id := by
  rw [abortFiring_tile]
  intro b hb
  simpa using (List.mem_filter.1 hb).2

theorem abortFiring_regs (k : Nat) : ∀ r ∈ ((abortFiring s t f c n).stack k).regs, r.holder ≠ .firing t f.id := by
  intro r hr
  have he : (abortFiring s t f c n).stack k = (dropResv (dropRegs s t f.id) t f.id).stack k := by
    exact congrArg (fun l => tabGet ({} : Stack) l k) (dropAway_stks _ t (s.ctxOf f) f)
  rw [he, dropResv_regs, dropRegs_regs] at hr
  simpa using (List.mem_filter.1 hr).2

end Abort
end Sys2Proof.Machine
end

section
/-! The courses of a fault: suspended, aborted, or tried again (R238, R239, R241, R403): O41. -/

namespace Sys2Proof.Machine

/-! ## The courses (R238) -/

/-- The machine once a fault's record has been posted and its page is awaited (R238, R372). -/
def faultRecorded (s : State) (t : TileId) (f : Firing) (e : FInfo) (c : Course) (n : Nat) : State :=
  let s1 := dropGranted s f
  awaitPage (postFault s1 (s.ctxOf f) e (faultRecord s1 { tile := t, entry := some f.entry, ctx := s.ctxOf f } e (wordAt s1 t f.pc)
    f.pc f.node f.tag.toNat c n)) t f.id e.pull

/-- The firing of a fault, without what the word at its pc had asked for. -/
def Firing.faulted (f : Firing) (c : FCode) : Firing :=
  { f with granted := none, fetched := [], failed := none, spilled := [], unreached := none, cause := some c }

@[simp] theorem faultRecorded_tile (s : State) (t u : TileId) (f : Firing) (e : FInfo) (c : Course) (n : Nat) :
    (faultRecorded s t f e c n).tile u = s.tile u := by
  simp [faultRecorded]

theorem faultRecorded_firing {s : State} {t : TileId} {f g : Firing} (h : s.firing? t f.id = some g) (e : FInfo) (c : Course) (n : Nat) :
    (faultRecorded s t f e c n).firing? t f.id = some g := by
  rw [State.firing?, faultRecorded_tile]; exact h

section Courses
variable {s : State} {t : TileId} {f : Firing} {e : FInfo} (hp : e.poison = false)
include hp

theorem takeFault_program (hc : classOf e = .program) :
    takeFault s t f e = suspendFiring (faultRecorded s t f e .suspended 0) t (f.faulted e.code) := by
  simp only [takeFault, hp, hc]; rfl

theorem takeFault_waits (hc : classOf e = .waits) : takeFault s t f e =
    if f.committed then suspendFiring (faultRecorded s t f e .suspended 0) t (f.faulted e.code)
    else
      let s' := abortFiring (faultRecorded s t f e .aborted 0) t (f.faulted e.code) e.code f.retries
      if e.code = .winfull then s'.later (.requeue t f.id) else s' := by
  simp only [takeFault, hp, hc]; rfl

theorem takeFault_retries (hc : classOf e = .retries) : takeFault s t f e =
    if f.committed then
      if triedAgain (s.tile t) f e then suspendFiring (faultRecorded s t f e .suspended 1) t (f.faulted e.code)
      else tryAgain (dropResv (faultRecorded s t f e .retried 0) t f.id) t { f.faulted e.code with resv := none, cause := none } e
    else if 2 ≤ f.retries then suspendFiring (faultRecorded s t f e .suspended f.retries) t (f.faulted e.code)
    else (abortFiring (faultRecorded s t f e .aborted f.retries) t (f.faulted e.code) e.code (f.retries + 1)).later (.requeue t f.id) := by
  simp only [takeFault, hp, hc, Bool.false_eq_true, if_false, dropGranted_tile]; rfl

end Courses

/-! ## What each course leaves (R238, R239, R241) -/

/-- A machine in which the firing stands SUSPENDED at its word with what it had, but for its reservation (R241). -/
def SuspendedIn (s2 : State) (t : TileId) (f : Firing) : Prop :=
  ∃ g, s2.firing? t f.id = some g ∧ g.st = .suspended ∧ g.pc = f.pc ∧ g.slots = f.slots ∧ g.preds = f.preds ∧ g.wins = f.wins ∧
    g.frame = f.frame ∧ g.resv = none ∧ g.out = f.out

theorem SuspendedIn.stands {s2 : State} {t : TileId} {f : Firing} (h : SuspendedIn s2 t f) :
    ∃ g, s2.firing? t f.id = some g ∧ g.st = .suspended ∧ g.pc = f.pc ∧ g.slots = f.slots ∧ g.wins = f.wins := by
  obtain ⟨g, hg, hs, hpc, hsl, _, hw, _⟩ := h
  exact ⟨g, hg, hs, hpc, hsl, hw⟩

/-- A machine in which the firing is ABORTED: nothing of its work is left, and it keeps its inputs and output places (R239). -/
def AbortedIn (s2 : State) (t : TileId) (f : Firing) (n : Nat) : Prop :=
  (∃ g, s2.firing? t f.id = some g ∧ g.st = .aborted ∧ g.frame = 0 ∧ g.slots = [] ∧ g.wins = [] ∧
    g.out = [] ∧ g.resv = none ∧ g.committed = false ∧ g.inputs = f.inputs ∧ g.reserved = f.reserved ∧ g.retries = n) ∧
  (∀ b ∈ (s2.tile t).store, b.owner ≠ f.id) ∧ (∀ k, ∀ r ∈ (s2.stack k).regs, r.holder ≠ .firing t f.id)

section Outcomes
variable {s : State} {t : TileId} {f g : Firing} (h : s.firing? t f.id = some g)
include h

theorem suspendFiring_suspended (e : FInfo) (c : Course) (n : Nat) :
    SuspendedIn (suspendFiring (faultRecorded s t f e c n) t (f.faulted e.code)) t f := by
  obtain ⟨j, hj⟩ := suspendFiring_firing (f := f.faulted e.code) (faultRecorded_firing h e c n)
  exact ⟨_, hj, rfl, rfl, rfl, rfl, rfl, rfl, rfl, rfl⟩

theorem abortFiring_aborted (e : FInfo) (c : Course) (m n : Nat) :
    AbortedIn (abortFiring (faultRecorded s t f e c m) t (f.faulted e.code) e.code n) t f n :=
  ⟨⟨_, abortFiring_firing _ t (f.faulted e.code) _ n (faultRecorded_firing h e c m), rfl, rfl, rfl, rfl, rfl, rfl, rfl, rfl, rfl, rfl⟩,
    abortFiring_store _ t (f.faulted e.code) _ n, abortFiring_regs _ t (f.faulted e.code) _ n⟩

/-- What met the fault is made again: the firing goes on where it stood, and its word has used its retry where neither a command
nor an evaluation met it. -/
theorem tryAgain_firing (e : FInfo) (hr : f.resv = none) :
    ∃ g, (tryAgain s t f e).firing? t f.id = some g ∧ g.st = f.st ∧ g.pc = f.pc ∧ g.slots = f.slots ∧ g.resv = none ∧
      ((∀ c ∈ (s.tile t).cmds, c.owner = f.id → c.id ≠ e.cmd) → failedEval (s.tile t) f.id = none → g.retried = true) := by
  unfold tryAgain
  dsimp only
  split
  case h_1 c hc =>
    refine ⟨_, State.firing?_setFiring (g := g) ?_, rfl, rfl, rfl, hr, fun hn _ => ?_⟩
    · rw [State.firing?, State.tile_setTile_self]; exact h
    · have hid := List.find?_some hc
      simp only [Bool.and_eq_true, decide_eq_true_eq] at hid
      exact absurd hid.1 (hn c (List.mem_of_find?_eq_some hc) hid.2)
  case h_2 j _ hj =>
    refine ⟨_, State.firing?_setFiring (g := g) ?_, rfl, rfl, rfl, hr, fun _ hn => ?_⟩
    · rw [State.firing?, State.tile_setTile_self]; exact h
    · rw [hn] at hj; cases hj
  case h_3 => exact ⟨_, State.firing?_setFiring (g := g) h, rfl, rfl, rfl, rfl, fun _ _ => rfl⟩

end Outcomes

theorem Cmd.again_st (c : Cmd) : c.again.st ≠ .failed := by
  unfold Cmd.again
  dsimp only
  split <;> decide

/-- A command that failed in flight is made again, once. -/
theorem tryAgain_command {s : State} {t : TileId} {f : Firing} {e : FInfo} {c : Cmd}
    (hc : (s.tile t).cmds.find? (fun c => decide (c.id = e.cmd) && decide (c.owner = f.id)) = some c) :
    ∃ d ∈ ((tryAgain s t f e).tile t).cmds, d.id = c.id ∧ d.st ≠ .failed ∧ d.fault = none ∧ d.retried = true := by
  refine ⟨{ c.again with retried := true }, ?_, rfl, c.again_st, rfl, rfl⟩
  simp only [tryAgain, hc, State.setFiring, State.tile_setTile_self]
  exact List.mem_map.2 ⟨c, List.mem_of_find?_eq_some hc, if_pos rfl⟩

/-- The record of a program fault of a firing joins the event queue of its context, or the management queue (R238, R403). -/
theorem faultRecorded_record {s : State} {t : TileId} {f : Firing} {e : FInfo} (hc : classOf e = .program) (hv : e.hv = none)
    (hl : e.pull = none) (hp : e.poison = false) (c : Course) (n : Nat) :
    let q : QSel := if (s.queue (.ev (s.ctxOf f))).en then .ev (s.ctxOf f) else .mg
    ∃ b, ((faultRecorded s t f e c n).queue q).waiting = (s.queue q).waiting ++ [b] ∧ b.length = 64 ∧ leField b 0 1 = 1 ∧
      leField b 1 1 = e.code.num ∧ leField b 0x30 2 = f.pc % 2 ^ 16 ∧ leField b 0x38 1 = c.num := by
  have hcode : ¬ (e.code = .parity ∨ e.code = .residue) := by
    rintro (h | h) <;> simp [classOf, h, hp] at hc
  obtain ⟨w, hr⟩ : ∃ w, faultRecorded s t f e c n = (dropGranted s f).post (.ev (s.ctxOf f))
      (faultRecord (dropGranted s f) { tile := t, entry := some f.entry, ctx := s.ctxOf f } e w f.pc f.node f.tag.toNat c n) :=
    ⟨wordAt (dropGranted s f) t f.pc, by simp only [faultRecorded, postFault, hv, hl, startPull, awaitPage, hcode, if_false]⟩
  have hw := post_waiting (dropGranted s f) (.ev (s.ctxOf f))
    (faultRecord (dropGranted s f) { tile := t, entry := some f.entry, ctx := s.ctxOf f } e w f.pc f.node f.tag.toNat c n)
  simp only [dropGranted_queue, reduceCtorEq, or_false] at hw
  rw [hr]
  exact ⟨_, hw, bytesOf_length _ _, faultRecord_fields ..⟩

/-! ## The outcome of a fault by its class (R238) -/

section Classes
variable {s : State} {t : TileId} {f : Firing} {e : FInfo} (h : s.firing? t f.id = some f) (hp : e.poison = false)
include h hp

theorem programFault_suspends (hc : classOf e = .program) : SuspendedIn (takeFault s t f e) t f := by
  rw [takeFault_program hp hc]; exact suspendFiring_suspended h ..

theorem waitingFault_aborts (hc : classOf e = .waits) (hn : f.committed = false) : AbortedIn (takeFault s t f e) t f f.retries := by
  have ha := abortFiring_aborted h e .aborted 0 f.retries
  simp only [takeFault_waits hp hc, hn, Bool.false_eq_true, if_false]
  split
  · exact ha
  · exact ha

theorem waitingFault_suspends (hc : classOf e = .waits) (hn : f.committed = true) : SuspendedIn (takeFault s t f e) t f := by
  rw [takeFault_waits hp hc, if_pos hn]; exact suspendFiring_suspended h ..

theorem retriedFault_aborts (hc : classOf e = .retries) (hn : f.committed = false) (hr : f.retries < 2) :
    AbortedIn (takeFault s t f e) t f (f.retries + 1) ∧ .requeue t f.id ∈ (takeFault s t f e).acts := by
  rw [takeFault_retries hp hc, if_neg (by simp [hn]), if_neg (by omega)]
  exact ⟨abortFiring_aborted h e .aborted f.retries (f.retries + 1), List.mem_append_right _ (List.mem_singleton.2 rfl)⟩

theorem retriedFault_suspends_spent (hc : classOf e = .retries) (hn : f.committed = false) (hr : 2 ≤ f.retries) :
    SuspendedIn (takeFault s t f e) t f := by
  rw [takeFault_retries hp hc, if_neg (by simp [hn]), if_pos hr]; exact suspendFiring_suspended h ..

theorem retriedFault_suspends_again (hc : classOf e = .retries) (hn : f.committed = true) (ht : triedAgain (s.tile t) f e = true) :
    SuspendedIn (takeFault s t f e) t f := by
  rw [takeFault_retries hp hc, if_pos hn, if_pos ht]; exact suspendFiring_suspended h ..

theorem retriedFault_tries (hc : classOf e = .retries) (hn : f.committed = true) (ht : triedAgain (s.tile t) f e = false) :
    (∃ g, (takeFault s t f e).firing? t f.id = some g ∧ g.st = f.st ∧ g.pc = f.pc ∧ g.slots = f.slots ∧ g.resv = none ∧
      ((∀ c ∈ (s.tile t).cmds, c.owner = f.id → c.id ≠ e.cmd) → failedEval (s.tile t) f.id = none → g.retried = true)) ∧
    (∀ c, (s.tile t).cmds.find? (fun c => decide (c.id = e.cmd) && decide (c.owner = f.id)) = some c →
      ∃ d ∈ ((takeFault s t f e).tile t).cmds, d.id = c.id ∧ d.st ≠ .failed ∧ d.fault = none ∧ d.retried = true) := by
  rw [takeFault_retries hp hc, if_pos hn, if_neg (by simp [ht])]
  have htile : (dropResv (faultRecorded s t f e .retried 0) t f.id).tile t = s.tile t := faultRecorded_tile ..
  constructor
  · have hf := tryAgain_firing (s := dropResv (faultRecorded s t f e .retried 0) t f.id) (t := t) (g := f)
      (f := { f.faulted e.code with resv := none, cause := none }) (faultRecorded_firing h e .retried 0) e rfl
    rw [htile] at hf
    exact hf
  · intro c hf
    refine tryAgain_command ?_
    rw [htile]
    exact hf

end Classes

/-- Settles O41: every course of a fault by its class, and the record that a program fault leaves. -/
theorem faultsSuspendAbortOrRetry : Obligations.FaultsSuspendAbortOrRetry := by
  have mem : ∀ s t f e, (takeFault s t f e).mem = s.mem := fun s t f e => congrArg Prod.fst (takeFault_lasting s t f e)
  refine ⟨fun s t f e h hc hv hl hp => ⟨programFault_suspends h hp hc, mem s t f e, ?record⟩, fun s t f e h hp =>
    ⟨mem s t f e, fun hc => ⟨fun hn => waitingFault_aborts h hp hc hn, fun hn => (waitingFault_suspends h hp hc hn).stands⟩,
      fun hc => ⟨fun hn hr => retriedFault_aborts h hp hc hn hr, fun hn hr => (retriedFault_suspends_spent h hp hc hn hr).stands,
        fun hn ht => retriedFault_tries h hp hc hn ht, fun hn ht => (retriedFault_suspends_again h hp hc hn ht).stands⟩⟩⟩
  case record =>
    rw [takeFault_program hp hc, suspendFiring_queue]
    exact faultRecorded_record hc hv hl hp .suspended 0

end Sys2Proof.Machine
end

section
/-! SUPPORT. A firing from the rule that makes it to its retire (R227 to R231, R235, R236, R240). -/

namespace Sys2Proof.Machine

theorem exec_firingRule (t : TileId) (node tag : Nat) (s : State) : exec (.firingRule t node tag) s = .next (fireRule t node tag s) := rfl
theorem exec_sourceFire (t : TileId) (node tag : Nat) (s : State) : exec (.sourceFire t node tag) s = .next (fireSource t node tag s) := rfl
theorem exec_resourceGrant (t : TileId) (s : State) : exec (.resourceGrant t) s = .next (grantFiring t s) := rfl
theorem exec_stallWake (t : TileId) (fid : Nat) (s : State) : exec (.stallWake t fid) s = .next (wakeFiring t fid s) := rfl
theorem exec_retire (t : TileId) (fid : Nat) (s : State) : exec (.retire t fid) s = .next (retireFiring t fid s) := rfl
theorem exec_requeue (t : TileId) (fid : Nat) (s : State) : exec (.requeue t fid) s = .next (requeueFiring t fid s) := rfl

/-! ## The firing rule and sources (R227, R228) -/

theorem fireRule_enters {s : State} {t : TileId} {node tag i : Nat} {x' : Tile} {l : List (Nat × Token)} (hi : (s.tile t).inst = some i)
    (hs : (s.tile t).stopped = false) (ha : (s.tile t).isActor node = true) (hn : hdrNin ((s.tile t).header node) ≠ 0)
    (hm : mayFire s t node (BitVec.ofNat 32 tag) = true)
    (hp : assignPorts node ((s.tile t).header node) (BitVec.ofNat 32 tag) (hdrNin ((s.tile t).header node)) 0 (s.tile t) [] = some (x', l)) :
    fireRule t node tag s = enterWaiting s t node (BitVec.ofNat 32 tag) i x' l := by
  simp [fireRule, hi, hs, ha, hn, hm, hp]

theorem fireSource_enters {s : State} {t : TileId} {node tag : Nat} {i : Inst} {q : Nat × BitVec 32 × BitVec 8}
    (ht : (s.tile t).inst = some i.id) (hi : s.inst? i.id = some i) (har : i.armed = true) (hh : i.halting = false)
    (hs : (s.tile t).stopped = false)
    (hq : (s.tile t).sources.find? (fun q => decide (q.1 = node) && decide (q.2.1 = BitVec.ofNat 32 tag)) = some q)
    (ha : (s.tile t).isActor node = true) (hn : hdrNout ((s.tile t).header node) ≠ 0)
    (hm : mayFire s t node (BitVec.ofNat 32 tag) = true) :
    fireSource t node tag s = enterWaiting s t node (BitVec.ofNat 32 tag) i.id (s.tile t) [] := by
  simp only [fireSource, ht, Option.bind_some, hi, hq, hs, har, hh, ha, hm, hn]
  rfl

/-! ## The grant (R231, R232) -/

theorem setSlotsNat_frame (f : Firing) (d v k : Nat) : ∃ l, f.setSlotsNat d v k = { f with slots := l } := by
  induction k generalizing f d v with
  | zero => exact ⟨_, rfl⟩
  | succ k ih => exact ih (f.setSlot d (BitVec.ofNat 64 v)) (d + 1) (v / 2 ^ 64)

/-- Inputs that land change slots alone. -/
theorem landInputs_frame (n : Nat) (l : List (Nat × Token)) (f : Firing) : ∃ m, landInputs n l f = { f with slots := m } := by
  induction l generalizing n f with
  | nil => exact ⟨_, rfl⟩
  | cons p r ih =>
    obtain ⟨m, hm⟩ := setSlotsNat_frame f (8 * n) p.2.payload.toNat 8
    rw [landInputs, hm]
    exact ih (n + 1) { f with slots := m }

theorem handler_extract (x : Tile) (node : Nat) : recLit (x.rec_ node) % 4096 = ((tabGet 0 x.nodes node).extractLsb' 0 12).toNat := by
  simp only [recLit, Tile.rec_, BitVec.extractLsb'_toNat, Nat.shiftRight_zero]
  omega

/-- The oldest WAITING firing is READY at its first word, with an entry and its frame. -/
theorem grantFiring_grants {s : State} {t : TileId} {f : Firing} {e : Nat}
    (hf : (s.tile t).firings.find? (fun f => decide (f.st = .waiting)) = some f) (hs : (s.tile t).stopped = false)
    (he : freeEntry (s.tile t) = some e) (hg : granulesUsed (s.tile t) + hdrGranules ((s.tile t).header f.node) ≤ 512) :
    ∃ m, (grantFiring t s).firing? t f.id = some { f with
        st := .ready, entry := e, pc := ((tabGet 0 (s.tile t).nodes f.node).extractLsb' 0 12).toNat, age := s.nextAge
        count := tabGet 0 (s.tile t).counts f.node + 1, frame := 16 * hdrGranules ((s.tile t).header f.node), fpf := 0, ppr := 0, slots := m } ∧
      (grantFiring t s).mem = s.mem := by
  have hc : ((s.tile t).stopped || decide (512 < granulesUsed (s.tile t) + hdrGranules ((s.tile t).header f.node))) = false := by
    simp [hs, hg]
  obtain ⟨g, hw⟩ : ∃ g, (s.tile t).firing? f.id = some g :=
    Option.isSome_iff_exists.1 (List.find?_isSome.2 ⟨f, List.mem_of_find?_eq_some hf, by simp⟩)
  simp only [grantFiring, hf, he, hc, handler_extract, Bool.false_eq_true, if_false, State.firing?, progress_tile, progress_mem,
    State.tile_setTile_self]
  obtain ⟨m, hm⟩ := landInputs_frame 0 f.inputs { f with
    st := .ready, entry := e, pc := ((tabGet 0 (s.tile t).nodes f.node).extractLsb' 0 12).toNat, age := s.nextAge
    count := tabGet 0 (s.tile t).counts f.node + 1, frame := 16 * hdrGranules ((s.tile t).header f.node), fpf := 0, ppr := 0 }
  rw [hm]
  exact ⟨m, Tile.firing?_setFiring (g := g) hw, rfl⟩

/-! ## Waking (R235) -/

section Wake
variable {s : State} {t : TileId} {fid : Nat} {f : Firing} (hf : s.firing? t fid = some f) (hst : f.st = .stalled)
  (hs : (s.tile t).stopped = false)
include hf hst hs

theorem wakeFiring_tags {m : BitVec 16} (hw : f.wait = .tags m) :
    wakeFiring t fid s = if (s.tile t).tagPend f.node &&& m ≠ 0 then wokenAt s t f else s := by
  simp [wakeFiring, hf, hst, hs, hw]

theorem wakeFiring_bwait {d : BitVec 10} {n key : Nat} {target : Word} (hw : f.wait = .bwait d n key true false target)
    (ht : target.toNat ≤ (s.plane n).gseq.toNat) : wakeFiring t fid s = wokenAt s t (f.setSlot d.toNat (s.plane n).gseq) := by
  simp [wakeFiring, hf, hst, hs, hw, bwaitValue, ht, planeAcquire]

theorem wakeFiring_cwait {id : Option Nat} (hw : f.wait = .cwait id) (hd : ∀ c ∈ cwaitSet (s.tile t) f id, c.st = .done) :
    wakeFiring t fid s = wokenAt s t f := by
  simp [wakeFiring, hf, hst, hs, hw, copyState_met hd]

theorem wakeFiring_lwait {m : BitVec 8} (hw : f.wait = .lwait m) (hl : lwaitMet (s.tile t) m = true) :
    wakeFiring t fid s = wokenAt s t f := by
  simp [wakeFiring, hf, hst, hs, hw, hl]

end Wake

/-! ## Retire (R236) -/

/-- The firing is gone, its buffered lines with it, and what it held may be granted. -/
theorem retired_gone (s : State) (t : TileId) (f : Firing) : (retired s t f).firing? t f.id = none ∧
    .resourceGrant t ∈ (retired s t f).acts ∧ ∀ e ∈ ((retired s t f).tile t).store, e.owner ≠ f.id := by
  have htile : (retired s t f).tile t = { (s.tile t).dropFiring f.id with
      cmds := (s.tile t).cmds.filter (fun c => c.owner != f.id), store := (s.tile t).store.filter (fun e => e.owner != f.id) } := by
    refine (progress_tile _ _ t).trans ?_
    rw [State.tile_setTile_self, dropResv_tile]
  refine ⟨?_, ?_, fun e he => ?_⟩
  · rw [State.firing?, htile]
    refine List.find?_eq_none.2 fun g hg => ?_
    have := (List.mem_filter.1 hg).2
    simpa using this
  · simp [retired, State.later]
  · rw [htile] at he
    simpa using (List.mem_filter.1 he).2

/-- A DRAINING firing with nothing left to wait for, post or submit retires. -/
theorem retireFiring_retires {s : State} {t : TileId} {fid : Nat} {f g : Firing} (hf : s.firing? t fid = some f) (hst : f.st = .draining)
    (hs : (s.tile t).stopped = false) (hfail : f.failed = none) (ho : owedBy (s.tile t) fid = none) (hd : workDone (s.tile t) f = true)
    (hw : f.wins = []) (hr : f.rstep < 4 → relReady s t f = true)
    (hord : f.rstep < 4 → hdrOrd ((s.tile t).header f.node) = true →
      ∀ h ∈ (s.tile t).firings, h.node = f.node → f.tag.toNat ≤ h.tag.toNat)
    (hg : (if f.rstep < 4 then releaseTokens s t f else s).firing? t fid = some g) (hout : g.out = []) (hx : g.exitStatus = none) :
    let s1 := if f.rstep < 4 then releaseTokens s t f else s
    let h := { g with out := [], exitStatus := none, rstep := 5 }
    retireFiring t fid s = retired (s1.setTile t ((s1.tile t).setFiring h)) t h := by
  have hstop : ¬ (f.st ≠ .draining ∨ (s.tile t).stopped = true) := by simp [hst, hs]
  have hrel : ¬ (f.rstep < 4 ∧ relReady s t f = false) := fun ⟨h4, h⟩ => by simp [hr h4] at h
  have hturn : ¬ (f.rstep < 4 ∧ hdrOrd ((s.tile t).header f.node) = true ∧
      (s.tile t).firings.any (fun g => decide (g.node = f.node) && decide (g.tag.toNat < f.tag.toNat)) = true) := by
    rintro ⟨h4, ho, ha⟩
    obtain ⟨h, hm, hh⟩ := List.any_eq_true.1 ha
    simp only [Bool.and_eq_true, decide_eq_true_eq] at hh
    exact absurd (hord h4 ho h hm hh.1) (Nat.not_le.2 hh.2)
  simp only [retireFiring, hf, if_neg hstop, hfail, ho, hd, hw, hrel, hturn, hg, hout, hx, postEvents, submitHeld, List.isEmpty_nil,
    List.any_nil, Bool.not_true, Bool.false_eq_true, and_false, if_false, Option.isSome_none, false_and]
  rfl

/-! ## Re-queueing (R240) -/

theorem requeueFiring_waits {s : State} {t : TileId} {fid : Nat} {f : Firing} (hf : s.firing? t fid = some f) (hst : f.st = .aborted) :
    ((requeueFiring t fid s).tile t).firings = (s.tile t).firings.filter (fun h => h.id != fid) ++
      [{ f with st := .waiting, wait := .none, cleared := (s.tile t).tagPend f.node &&& (s.tile t).tagEn f.node }] ∧
    ((requeueFiring t fid s).tile t).tagPend f.node = (s.tile t).tagPend f.node &&& ~~~(s.tile t).tagEn f.node := by
  have htile : (requeueFiring t fid s).tile t = { s.tile t with
      firings := (s.tile t).firings.filter (fun h => h.id != fid) ++
        [{ f with st := .waiting, wait := .none, cleared := (s.tile t).tagPend f.node &&& (s.tile t).tagEn f.node }]
      tagP := tabSet (s.tile t).tagP f.node ((s.tile t).tagPend f.node &&& ~~~(s.tile t).tagEn f.node) } := by
    simp only [requeueFiring, hf, hst, ne_eq, not_true_eq_false, if_false]
    exact State.tile_setTile_self ..
  rw [htile]
  exact ⟨rfl, tabGet_tabSet_self ..⟩

end Sys2Proof.Machine
end

section
/-! SUPPORT. Firings that go on, launches that are killed, and instances from their start to their end (R224, R241, R243, R274, R327). -/

namespace Sys2Proof.Machine

theorem exec_resume (t : TileId) (fid : Nat) (s : State) : exec (.resume t fid) s = .next (resume t fid s) := rfl
theorem exec_kill (t : TileId) (fid : Nat) (s : State) : exec (.kill t fid) s = .next (killFiring t fid s) := rfl
theorem exec_instantiate (i : Nat) (s : State) : exec (.instantiate i) s = .next (instantiate i s) := rfl
theorem exec_endOfStream (i : Nat) (s : State) : exec (.endOfStream i) s = .next (endStream i s) := rfl
theorem exec_watchdogExpiry (i : Nat) (s : State) : exec (.watchdogExpiry i) s = .next (watchdog i s) := rfl

/-! ## A suspended firing goes on (R241) -/

/-- What is sent again leaves tiles and memory. -/
theorem resendOwed_keeps (s : State) (t : TileId) (fid : Nat) : (resendOwed s t fid).tiles = s.tiles ∧ (resendOwed s t fid).mem = s.mem := by
  unfold resendOwed
  exact List.foldlRecOn (motive := fun y : State => y.tiles = s.tiles ∧ y.mem = s.mem) _ _ ⟨rfl, rfl⟩ fun _ hy _ _ => hy
@[simp] theorem resendOwed_tile (s : State) (t u : TileId) (fid : Nat) : (resendOwed s t fid).tile u = s.tile u := by
  rw [State.tile, (resendOwed_keeps s t fid).1]; rfl
@[simp] theorem resendOwed_mem (s : State) (t : TileId) (fid : Nat) : (resendOwed s t fid).mem = s.mem := (resendOwed_keeps s t fid).2

/-- It is READY or DRAINING at the word where it stands, and none of its commands is failed. -/
theorem resumeFiring_goesOn {s : State} {t : TileId} {fid : Nat} {f : Firing} (hf : s.firing? t fid = some f) (hst : f.st = .suspended) :
    (resumeFiring t fid s).firing? t fid = some { f with
      st := if f.fromDrain then .draining else .ready, wait := .none, held := false, fromDrain := false
      failed := none, retried := false, reeval := none, cause := none, debug := false } ∧
    (resumeFiring t fid s).mem = s.mem ∧ ∀ c ∈ ((resumeFiring t fid s).tile t).cmds, c.owner = fid → c.st ≠ .failed := by
  obtain rfl := firing_id hf
  simp only [resumeFiring, hf, hst, ne_eq, not_true_eq_false, if_false]
  simp only [State.firing?, resendOwed_tile, resendOwed_mem, State.tile_setTile_self, State.setTile_mem, true_and]
  refine ⟨?firing, ?cmds⟩
  case firing => exact Tile.firing?_setFiring (g := f) hf
  case cmds =>
    intro c hc ho
    obtain ⟨d, _, rfl⟩ := List.mem_map.1 hc
    by_cases h : d.owner = f.id ∧ d.st = .failed
    · rw [if_pos h]; exact d.again_st
    · rw [if_neg h] at ho ⊢
      exact fun hd => h ⟨ho, hd⟩

/-- No registration of the firing lacks its pages. -/
theorem lacksPages_none {s : State} {t : TileId} {fid : Nat} {r : Reg} (h : r.holder = .firing t fid → r.area = [] ∨ r.pages ≠ []) :
    lacksPages s t fid r = false := by
  by_cases hh : r.holder = .firing t fid
  · rcases h hh with ha | hp
    · simp [lacksPages, ha]
    · simp [lacksPages, hp]
  · simp [lacksPages, hh]

theorem reRegister_none {s : State} {t : TileId} {fid : Nat} (h : ∀ p ∈ s.stks, ∀ r ∈ p.2.regs, lacksPages s t fid r = false) :
    reRegister s t fid = s := by
  have hl : s.stks.flatMap (fun p => p.2.regs.filter (lacksPages s t fid)) = [] :=
    List.flatMap_eq_nil_iff.2 fun p hp => List.filter_eq_nil_iff.2 fun r hr => by simp [h p hp r hr]
  simp [reRegister, hl]

theorem resume_goesOn {s : State} {t : TileId} {fid : Nat} {f : Firing} (hf : s.firing? t fid = some f) (hst : f.st = .suspended)
    (hw : f.wait = .none) (hr : ∀ p ∈ s.stks, ∀ r ∈ p.2.regs, r.holder = .firing t fid → r.area = [] ∨ r.pages ≠ []) :
    resume t fid s = resumeFiring t fid s := by
  have hl : ∀ p ∈ s.stks, ∀ r ∈ p.2.regs, lacksPages s t fid r = false := fun p hp r h => lacksPages_none (hr p hp r h)
  have hn : s.stks.any (fun p => p.2.regs.any (fun r => lacksPages s t fid r && !r.range)) = false :=
    List.any_eq_false.2 fun p hp => by
      rw [List.any_eq_true]
      rintro ⟨r, h, hh⟩
      simp [hl p hp r h] at hh
  simp [resume, reRegister_none hl, hf, hst, hw, hn]

theorem killFiring_discards {s : State} {t : TileId} {fid : Nat} {f : Firing} {i : Inst} {l : Launch} (hf : s.firing? t fid = some f)
    (hst : f.st = .suspended) (hi : s.inst? f.inst = some i) (hl : s.launch? i.ctx i.lid = some l) :
    killFiring t fid s = discardLaunch s l .killed := by
  simp [killFiring, hf, hst, hi, hl]

/-! ## How instances start (R224, R314, R344) -/

theorem beginInst_begins {s : State} {id : Nat} {j : Inst} (h : s.inst? id = some j) :
    beginInst s id =
      let s3 := match s.launch? j.ctx j.lid with | some l => writeShapes s j l | none => s
      let chans := instNodes s3 j (fun x n => x.isChan n && !(x.soOf n).bound)
      let owed := chans.length + (s3.remote.filter (fun r => r.who == .shapes id)).length
      armInst ((s3.setInst { j with binding := owed }).laterAll (chans.map (fun q => Act.chanBind q.1 q.2))) id := by
  simp only [beginInst, h] <;> rfl

theorem instantiate_begins {s : State} {i : Inst} {c : PlacedCfg} (hi : s.inst? i.id = some i) (ha : i.armed = false) (hv : i.saved = false)
    (hh : i.halting = false) (hp : ∀ u ∈ i.rect, (s.tile u).inst ≠ some i.id) (hc : instCfg s i = some c) :
    instantiate i.id s =
      let s1 := cacheTouch (placeTiles s i c) i.stk c.key
      beginInst ((instNodes s1 i (fun x n => x.isMport n 0 || x.isMport n 1)).foldl (fun s q => mpInit q.1 q.2 s) s1) i.id := by
  have hfree : i.rect.any (fun t => decide ((s.tile t).inst = some i.id)) = false :=
    List.any_eq_false.2 fun u hu => by simpa using hp u hu
  simp only [instantiate, hi, ha, hv, hh, hfree, hc, Bool.or_self, Bool.false_eq_true, if_false]

/-! ## How they end (R243, R274, R326) -/

theorem endStream_ended {s : State} {i : Inst} (hi : s.inst? i.id = some i) (he : instEnded s i = true) :
    endStream i.id s = leaveLaunch (dropInst s i) i .ok := by
  simp [endStream, hi, he]
theorem endStream_running {s : State} {i : Inst} (hi : s.inst? i.id = some i) (he : instEnded s i = false) : endStream i.id s = s := by
  simp [endStream, hi, he]

theorem watchdog_expires {s : State} {i : Inst} (hi : s.inst? i.id = some i) (he : instEnded s i = false) (ha : i.armed = true)
    (hh : i.halting = false) (hv : i.saved = false) (hr : i.resident = false) (hd : i.dhold = false)
    (hw : ∀ f ∈ liveFirings s i, waitHolds f = false) (hc : i.wd + 2 ^ (s.part i.part).wdlog.toNat ≤ s.cyc i.stk) :
    watchdog i.id s = takeDeadlock s i := by
  have hl : (liveFirings s i).any waitHolds = false := List.any_eq_false.2 fun f hf => by simp [hw f hf]
  have hp : wdPeriod s i ≤ s.cyc i.stk - i.wd := Nat.le_sub_of_add_le' hc
  have hdue : watchdogDue s i = true := by simp [watchdogDue, watchdogHeld, ha, hh, hv, hr, hd, hl, hp]
  simp [watchdog, hi, hdue, he]

theorem watchdog_early {s : State} {i : Inst} (hi : s.inst? i.id = some i) (hc : s.cyc i.stk < i.wd + 2 ^ (s.part i.part).wdlog.toNat) :
    watchdog i.id s = s := by
  have hp : ¬ wdPeriod s i ≤ s.cyc i.stk - i.wd := by
    have := Nat.two_pow_pos (s.part i.part).wdlog.toNat
    simp only [wdPeriod]
    omega
  have hdue : watchdogDue s i = false := by simp [watchdogDue, hp]
  simp [watchdog, hi, hdue]

end Sys2Proof.Machine
end

section
/-! The life of firings and instances: O48. -/

namespace Sys2Proof.Machine

/-- Settles O48: each step of the life of firings and of instances. -/
theorem firingsLiveFromRuleToRetire : Obligations.FiringsLiveFromRuleToRetire := by
  intro s t node tag fid i
  refine ⟨fun x' l hi hs ha hn hm hp => congrArg Host.Outcome.next (fireRule_enters hi hs ha hn hm hp),
    fun q ht hi har hh hs hq ha hn hm => congrArg Host.Outcome.next (fireSource_enters ht hi har hh hs hq ha hn hm),
    ?grant, ?wake, ?retire, ?requeue, fun f hf hst => ⟨?resume, fun l hi hl => congrArg Host.Outcome.next (killFiring_discards hf hst hi hl)⟩,
    fun hi => ⟨?start, fun he => congrArg Host.Outcome.next (endStream_ended hi he),
      fun he => ⟨congrArg Host.Outcome.next (endStream_running hi he),
        fun ha hh hv hr hd hw hc => congrArg Host.Outcome.next (watchdog_expires hi he ha hh hv hr hd hw hc),
        fun hc => congrArg Host.Outcome.next (watchdog_early hi hc)⟩⟩⟩
  case grant =>
    intro f e hf hs he hg
    obtain ⟨m, hm, hmem⟩ := grantFiring_grants hf hs he hg
    exact ⟨_, _, exec_resourceGrant t s, hm, rfl, rfl, rfl, rfl, rfl, rfl, rfl, rfl, rfl, hmem⟩
  case wake =>
    intro f hf hst hs
    refine ⟨fun m hw hm => ?_, fun m hw hm => ?_, fun d n key target hw ht => ?_, fun id hw hd => ?_, fun m hw hl => ?_⟩
    all_goals rw [exec_stallWake]
    · rw [wakeFiring_tags hf hst hs hw, if_pos hm]
    · rw [wakeFiring_tags hf hst hs hw, if_neg (not_not.2 hm)]
    · rw [wakeFiring_bwait hf hst hs hw ht]
    · rw [wakeFiring_cwait hf hst hs hw hd]
    · rw [wakeFiring_lwait hf hst hs hw ((lwaitMet_iff _ _).2 hl)]
  case retire =>
    intro f g hf hst hs hfail ho hd hw hr hord hg hout hx
    refine ⟨_, (exec_retire t fid s).trans (congrArg _ (retireFiring_retires hf hst hs hfail ho hd hw hr hord hg hout hx)), ?_⟩
    obtain rfl := firing_id hg
    exact retired_gone _ t _
  case requeue =>
    intro f hf hst
    obtain ⟨hfs, hp⟩ := requeueFiring_waits hf hst
    refine ⟨_, _, exec_requeue t fid s, ?_, ?_, ?_, hfs, hp⟩ <;> rfl
  case resume =>
    intro hw hr
    obtain ⟨hg, hmem, hc⟩ := resumeFiring_goesOn hf hst
    exact ⟨_, _, (exec_resume t fid s).trans (congrArg _ (resume_goesOn hf hst hw hr)), hg, rfl, rfl, rfl, rfl, rfl, rfl, hmem, hc⟩
  case start =>
    intro c j ha hv hh hp hc s1 s2 hj
    rw [exec_instantiate, instantiate_begins hi ha hv hh hp hc]
    exact congrArg Host.Outcome.next (beginInst_begins hj)

end Sys2Proof.Machine
end

section
/-! SUPPORT. Launches in the queues of their context, and their images at Utund (R315 to R317, R416). -/

namespace Sys2Proof.Machine

theorem exec_hostLaunch (ctx : Nat) (b : List Byte) (s : State) : exec (.hostLaunch ctx b) s = .next (hostLaunch ctx b s) := rfl

/-! ## The launches of a state -/

theorem State.launch?_key {s : State} {ctx lid : Nat} {l : Launch} (h : s.launch? ctx lid = some l) : l.ctx = ctx ∧ l.lid = lid := by
  simpa using List.find?_some h

/-- A launch is replaced where it stands. -/
theorem State.launch?_setLaunch {s : State} {x y : Launch} (h : s.launch? x.ctx x.lid = some y) :
    (s.setLaunch x).launch? x.ctx x.lid = some x := by
  simp only [State.launch?, State.setLaunch] at h ⊢
  revert h
  generalize s.launches = l
  induction l with
  | nil => simp
  | cons z r ih =>
    intro h
    by_cases hz : z.ctx = x.ctx ∧ z.lid = x.lid
    · simp [hz]
    · rw [List.find?_cons_of_neg (by simpa using hz)] at h
      rw [List.map_cons, if_neg hz, List.find?_cons_of_neg (by simpa using hz)]
      exact ih h

/-! ## The transport of a context (R316, R416) -/

theorem tabSet_tabSet_self {α : Type} (t : Tab α) (k : Nat) (v w : α) : tabSet (tabSet t k v) k w = tabSet t k w := by
  induction t with
  | nil => simp [tabSet]
  | cons q r ih =>
    obtain ⟨j, u⟩ := q
    rcases Nat.lt_trichotomy k j with h | rfl | h
    · simp [tabSet, h]
    · simp [tabSet]
    · have h1 : ¬ k < j := by omega
      have h2 : k ≠ j := by omega
      simp [tabSet, h1, h2, ih]
@[simp] theorem State.setCtx_setCtx_self (s : State) (c : Nat) (x y : Ctx) : (s.setCtx c x).setCtx c y = s.setCtx c y := by
  simp [State.setCtx, tabSet_tabSet_self]

theorem hostOpen_iff (s : State) (ctx : Nat) : hostOpen s ctx = true ↔
    (s.ctx ctx).part.isSome = true ∧ (s.ctx ctx).evq.en = true ∧ s.devid.getLsbD 12 = true ∧ s.boot = .running := by
  simp [hostOpen, and_assoc]

theorem hostLaunch_closed {s : State} {ctx : Nat} (b : List Byte) (h : hostOpen s ctx = false) :
    hostLaunch ctx b s = s.send (.host ctx 1 []) := by
  simp [hostLaunch, h]

/-- A record alone in the transport of a context. -/
def State.inTransport (s : State) (ctx : Nat) (b : List Byte) : State := s.setCtx ctx { s.ctx ctx with inbox := [b] }

@[simp] theorem State.inTransport_ctx (s : State) (ctx : Nat) (b : List Byte) :
    (s.inTransport ctx b).ctx ctx = { s.ctx ctx with inbox := [b] } := by
  simp [State.inTransport]
@[simp] theorem State.setCtx_inTransport (s : State) (ctx : Nat) (b : List Byte) (x : Ctx) :
    (s.inTransport ctx b).setCtx ctx x = s.setCtx ctx x := by
  simp [State.inTransport]
@[simp] theorem State.inTransport_launches (s : State) (ctx : Nat) (b : List Byte) : (s.inTransport ctx b).launches = s.launches := rfl
@[simp] theorem hostOpen_inTransport (s : State) (ctx : Nat) (b : List Byte) : hostOpen (s.inTransport ctx b) ctx = hostOpen s ctx := by
  simp only [hostOpen, State.inTransport_ctx]; rfl
@[simp] theorem queueLen_inTransport (s : State) (ctx q : Nat) (b : List Byte) : queueLen (s.inTransport ctx b) ctx q = queueLen s ctx q := by
  simp [queueLen]
@[simp] theorem launchRoom_inTransport (s : State) (ctx : Nat) (b c : List Byte) :
    launchRoom (s.inTransport ctx b) ctx c = launchRoom s ctx c := by
  simp [launchRoom]

@[simp] theorem takeInbox_zero (ctx : Nat) (s : State) : takeInbox ctx 0 s = s := rfl

/-- The first record that waits enters, or it stays with those behind it. -/
theorem takeInbox_first {s : State} {ctx : Nat} {b : List Byte} {r : List (List Byte)} (n : Nat) (hi : (s.ctx ctx).inbox = b :: r)
    (ho : hostOpen s ctx = true) :
    takeInbox ctx (n + 1) s = (enterLaunch s ctx b).elim s (fun s => takeInbox ctx n (s.setCtx ctx { s.ctx ctx with inbox := r })) := by
  change (match (s.ctx ctx).inbox with
    | [] => s
    | b :: r => if !hostOpen s ctx then _ else match enterLaunch s ctx b with | some s => _ | none => _) = _
  rw [hi]
  simp only [ho, Bool.not_true, Bool.false_eq_true, if_false]
  cases enterLaunch s ctx b <;> rfl

section Open
variable {s : State} {ctx : Nat} {b : List Byte} (ho : hostOpen s ctx = true) (hi : (s.ctx ctx).inbox = [])
include ho hi

/-- A record that comes alone is the first that the queue takes, and the only one. -/
theorem hostLaunch_alone : hostLaunch ctx b s = (enterLaunch (s.inTransport ctx b) ctx b).elim (s.inTransport ctx b)
    (fun s => s.setCtx ctx { s.ctx ctx with inbox := [] }) := by
  have h : hostLaunch ctx b s = takeInbox ctx 1 (s.inTransport ctx b) := by simp [hostLaunch, ho, hi, State.inTransport]
  rw [h, takeInbox_first (b := b) (r := []) 0 (by simp) (by simpa using ho)]
  rfl

theorem hostLaunch_waits (h : launchRoom s ctx b = false) : hostLaunch ctx b s = s.inTransport ctx b := by
  have hent : enterLaunch (s.inTransport ctx b) ctx b = none := by simp [enterLaunch, h]
  rw [hostLaunch_alone ho hi, hent]; rfl

theorem hostLaunch_enters (h : launchRoom s ctx b = true) (hr : ∀ l ∈ s.launches, l.ctx = ctx → l.record = false) :
    let s1 := s.setCtx ctx { s.ctx ctx with nextLid := (s.ctx ctx).nextLid + 1, inbox := [b] }
    let s2 := submitLaunch s1 ctx ((s.ctx ctx).nextLid % 2 ^ 32) b
    hostLaunch ctx b s = s2.setCtx ctx { s2.ctx ctx with inbox := [] } := by
  have hlog : s.launches.any (fun l => decide (l.ctx = ctx) && l.record) = false :=
    List.any_eq_false.2 fun l hl => by simpa using hr l hl
  have hent : enterLaunch (s.inTransport ctx b) ctx b = some (submitLaunch
      (s.setCtx ctx { s.ctx ctx with nextLid := (s.ctx ctx).nextLid + 1, inbox := [b] }) ctx ((s.ctx ctx).nextLid % 2 ^ 32) b) := by
    simp [enterLaunch, h, hlog]
  rw [hostLaunch_alone ho hi, hent]; rfl

end Open

theorem launchRoom_iff (s : State) (ctx : Nat) (b : List Byte) :
    launchRoom s ctx b = true ↔ (recordOk b = true → queueLen s ctx (byteAt b 3) < 64) := by
  simp [launchRoom, imp_iff_not_or]

theorem submitLaunch_lrec (s : State) (ctx lid : Nat) {b : List Byte} (h : recordOk b = false) :
    submitLaunch s ctx lid b = postCompletion s ctx lid (readLaunch ctx lid b).cevid 0 none .lrec := by
  simp [submitLaunch, h]

/-! ## The head of a queue (R315, R317) -/

section Head
variable {s : State} {ctx q lid : Nat} {l : Launch} (hi : (s.ctx ctx).inbox = []) (hq : (tabGet [] (s.ctx ctx).queues q).head? = some lid)
  (hl : s.launch? ctx lid = some l) (hst : l.st = .queued) (hd : l.devp = none)
include hi hq hl hst hd

theorem eligible_depfail (h : depState (s.ctx ctx) l.deps = .failed) : eligible ctx q s = completeLaunch s l .depfail := by
  simp [eligible, hi, hq, hl, hst, hd, h]
theorem eligible_waits (h : depState (s.ctx ctx) l.deps = .waiting) : eligible ctx q s = s := by
  simp [eligible, hi, hq, hl, hst, hd, h]
theorem eligible_disabled (h : depState (s.ctx ctx) l.deps = .met) (he : (s.ctx ctx).enabled = false) : eligible ctx q s = s := by
  simp [eligible, hi, hq, hl, hst, hd, h, he]
theorem eligible_reads (h : depState (s.ctx ctx) l.deps = .met) (he : (s.ctx ctx).enabled = true) {l1 : Launch}
    (h1 : l1 = { l with age := some (l.age.getD (s.cyc 0)) }) {b : List Byte} {s1 : State}
    (hr : launchRead (s.setLaunch l1) l1 l.imgp l.imglen = .got b s1) :
    eligible ctx q s = (s1.setLaunch { l1 with st := .eligible, lines := [], asked := [] }).later (.utundPlace lid ctx b) := by
  subst h1
  simp only [hst, hd] at hr
  simp [eligible, hi, hq, hl, hst, hd, h, he, hr]

end Head

/-! ## Utund (R315, R320) -/

section Place
variable {s : State} {ctx lid : Nat} {img : List Byte} {l : Launch} (hl : s.launch? ctx lid = some l) (hst : l.st = .eligible)
  (hp : l.placed = none)
include hl hst hp

theorem placeLaunch_hash (h : (sha512 img).take 32 ≠ l.ghash) : placeLaunch lid ctx img s = completeLaunch s l .hash := by
  simp [placeLaunch, hl, hst, hp, h]
theorem placeLaunch_refused (h : (sha512 img).take 32 = l.ghash) {e : LStatus} (he : utund img l.levels = .error e) :
    placeLaunch lid ctx img s = completeLaunch s l e := by
  simp [placeLaunch, hl, hst, hp, h, he]
theorem placeLaunch_places (h : (sha512 img).take 32 = l.ghash) {w k : Nat} {tiles : List TileCfg}
    (hu : utund img l.levels = .ok (w, k, tiles)) (hv : planeLevelsOk s l = true) :
    ∃ c : PlacedCfg, c.w = w ∧ c.h = k ∧ c.tiles = tiles ∧ c.hash = l.ghash ∧
      placeLaunch lid ctx img s = (s.setLaunch { l with placed := some c, image := img }).later .arbitrationPass := by
  let c : PlacedCfg := { key := cfgKey s 0 img w k, hash := l.ghash, w := w, h := k, tiles := tiles, loaded := 0 }
  exact ⟨c, rfl, rfl, rfl, rfl, by simp [placeLaunch, hl, hst, hp, h, hu, hv, c]⟩

end Place

end Sys2Proof.Machine
end

section
/-! SUPPORT. The pass of the region arbiter that admits its only candidate (R319, R321, R325, R328). -/

namespace Sys2Proof.Machine

theorem exec_arbitrationPass (s : State) : exec .arbitrationPass s = .next (arbitrate s) := rfl

/-! ## An admission leaves the partitions as they are -/

@[simp] theorem cacheInsert_parts (s : State) (k : Nat) (c : PlacedCfg) : (cacheInsert s k c).parts = s.parts := by
  obtain ⟨_, h⟩ := cacheInsert_cache s k c; rw [h]
@[simp] theorem convertBanks_parts (s : State) (k : Nat) (l : List Nat) (t : Option (Nat × Nat)) : (convertBanks s k l t).parts = s.parts := by
  unfold convertBanks
  cases t with
  | none => rfl
  | some q => dsimp only; split <;> rfl
@[simp] theorem leaveQueue_parts (s : State) (l : Launch) : (leaveQueue s l).parts = s.parts := rfl
@[simp] theorem admitNew_parts (s : State) (p : Nat) (l : Launch) (q : Fit) : (admitNew s p l q).parts = s.parts := by
  simp [admitNew, State.fresh]
theorem admitLaunch_parts {s : State} {l : Launch} (h : l.st ≠ .saved) (p : Nat) (places : List Fit) :
    (admitLaunch s p l places).parts = s.parts := by
  have hnew : (places.foldl (fun s q => admitNew s p l q) s).parts = s.parts :=
    List.foldlRecOn (motive := fun y : State => y.parts = s.parts) _ _ rfl fun y hy q _ => (admitNew_parts y p l q).trans hy
  cases hr : l.record <;> simp [admitLaunch, h, hr, hnew]

/-! ## The steps of a pass that find nothing to do -/

theorem clearReserved_none {s : State} (p : Nat) (h : ∀ l ∈ s.launches, l.reserved = [] ∧ l.chosen = [] ∧ l.st ≠ .reserved) :
    clearReserved s p = s := by
  have hsame : (clearReserved s p).launches = s.launches := by
    refine (List.map_congr_left (g := id) fun l hl => ?_).trans (List.map_id _)
    obtain ⟨hr, hc, hst⟩ := h l hl
    cases l
    simp_all
  have hset : clearReserved s p = { s with launches := (clearReserved s p).launches } := rfl
  rw [hset, hsame]

theorem fetchSaved_new {s : State} {q : Nat × Nat} {l : Launch} (p : Nat) (hl : s.launch? q.1 q.2 = some l) (h : l.st ≠ .saved) :
    fetchSaved p s q = s := by
  simp [fetchSaved, hl, h]

/-! ## The only launch -/

section Only
variable {s : State} {p : Nat} {l : Launch} {c : PlacedCfg} {places : List Fit} (hs : s.launches = [l]) (hc : candidates s p = [l])
  (hst : l.st = .eligible) (hp : l.placed = some c) (hk : l.cfg = c.key) (hne : c.key ≠ []) (hr : l.reserved = []) (hch : l.chosen = [])
  (hstk : stacksOf s p (asksOf s l c.w c.h) ≠ []) (ha : asksOf s l c.w c.h ≠ [])
  (hf : fitLaunch s p l (stacksOf s p (asksOf s l c.w c.h)) = some places)

include hs in
theorem launch?_only : s.launch? l.ctx l.lid = some l := by simp [State.launch?, hs]
include hs in
theorem setLaunch_only : s.setLaunch l = s := by
  simp only [State.setLaunch, hs, List.map_cons, List.map_nil, and_self, if_true]
  rw [← hs]

include hc in
theorem candidate_only : l ∈ s.launches ∧ s.partOfCtx l.ctx = p ∧ isCandidate s l = true := by
  have h : l ∈ candidates s p := by simp [hc]
  simpa [candidates, List.mem_mergeSort, List.mem_filter] using h

include hs hc hst hp hk hne hstk ha hf in
theorem considerOne_only : considerOne p (s, []) (l.ctx, l.lid) = (admitLaunch s p l places, []) := by
  obtain ⟨-, -, hcand⟩ := candidate_only hc
  have hsame : ({ l with st := .eligible, cfg := c.key, placed := some c } : Launch) = l := by rw [← hst, ← hp, ← hk]
  have hkey : l.cfg ≠ [] := hk ▸ hne
  obtain ⟨a, r, har⟩ := List.exists_cons_of_ne_nil ha
  have hnone : (a :: r).find? (fun _ => false) = none := by simp
  rw [har] at hstk hf
  simp [considerOne, launch?_only hs, hcand, hp, hsame, setLaunch_only hs, hst, hkey, har, hnone, hf, hstk]

include hs hc hst hp hk hne hr hch hstk ha hf in
theorem passOf_only : passOf s p = admitLaunch s p l places := by
  have hclear : clearReserved s p = s := clearReserved_none p (by simp [hs, hr, hch, hst])
  obtain ⟨-, hctx, hcand⟩ := candidate_only hc
  have hfetch : fetchSaved p s (l.ctx, l.lid) = s := fetchSaved_new p (launch?_only hs) (by simp [hst])
  have hhalt : (s.ctx l.ctx).halted = false ∧ (s.ctx l.ctx).halting = false := by
    simp only [isCandidate, Bool.and_eq_true, Bool.not_eq_true'] at hcand
    tauto
  simp [passOf, hclear, hs, hctx, hhalt, hfetch, hc, considerOne_only hs hc hst hp hk hne hstk ha hf]

end Only

/-! ## The only partition -/

theorem part_other {s : State} {p q : Nat} {P : Part} (h : s.parts = [(p, P)]) (hq : q ≠ p) : (s.part q).exist = false := by
  simp [State.part, h, tabGet, hq]

/-- Partitions that do not exist have no pass. -/
theorem passes_none {s : State} {L : List Nat} (h : ∀ q ∈ L, (s.part q).exist = false) :
    L.foldl (fun s p => if (s.part p).exist then passOf s p else s) s = s :=
  List.foldlRecOn (motive := fun y : State => y = s) _ _ rfl fun y hy q hq => by simp [hy, h q hq]

theorem arbitrate_only {s s0 : State} {p : Nat} {P : Part} (h : s.parts = [(p, P)]) (hp : p < 16) (he : P.exist = true)
    (h0 : s0 = { s with acts := s.acts.filter (fun a => a != .arbitrationPass) }) (hpass : (passOf s0 p).parts = s.parts) :
    arbitrate s = passOf s0 p := by
  have hparts : s0.parts = [(p, P)] := by rw [h0]; exact h
  have hexist : (s0.part p).exist = true := by simp [State.part, hparts, tabGet, he]
  obtain ⟨before, after, hrange⟩ := List.append_of_mem (List.mem_range.2 hp)
  have hnodup : (before ++ p :: after).Nodup := hrange ▸ List.nodup_range
  obtain ⟨hmem, -⟩ := List.nodup_cons.1 (List.nodup_middle.1 hnodup)
  have hne : ∀ q, q ∈ before ∨ q ∈ after → q ≠ p := fun q hq e => hmem (List.mem_append.2 (e ▸ hq))
  have hb : ∀ q ∈ before, (s0.part q).exist = false := fun q hq => part_other hparts (hne q (.inl hq))
  have ha : ∀ q ∈ after, ((passOf s0 p).part q).exist = false := fun q hq => part_other (hpass.trans h) (hne q (.inr hq))
  rw [arbitrate, ← h0, hrange, List.foldl_append, passes_none hb, List.foldl_cons, if_pos hexist, passes_none ha]

end Sys2Proof.Machine
end

section
/-! SUPPORT. Quanta, saves, restores and resizes of launches (R322, R330, R359, R366). -/

namespace Sys2Proof.Machine

theorem exec_quantumExpiry (lid ctx stk : Nat) (s : State) : exec (.quantumExpiry lid ctx stk) s = .next (quantumExpiry lid ctx stk s) := rfl
theorem exec_imageSave (ctx lid : Nat) (s : State) : exec (.imageSave ctx lid) s = .next (imageSave ctx lid s) := rfl
theorem exec_restore (ctx lid : Nat) (s : State) : exec (.restore ctx lid) s = .next (restoreStep ctx lid s) := rfl
theorem exec_resizeComplete (p : Nat) (s : State) : exec (.resizeComplete p) s = .next (resizeDone p s) := rfl

/-! ## Quanta (R322, R328) -/

/-- With no timer set, an expiry tests its own launch alone. -/
theorem quantumExpiry_alone {s : State} {ctx lid : Nat} {l : Launch} (stk : Nat) (ht : s.timers = []) (hl : s.launch? ctx lid = some l) :
    quantumExpiry lid ctx stk s = quantumTest s ctx lid stk := by
  obtain ⟨rfl, rfl⟩ := State.launch?_key hl
  have hs : { s with timers := [] } = s := by rw [← ht]
  simp [quantumExpiry, ht, hs, hl, List.eraseDups_cons]

section Quantum
variable {s : State} {ctx lid stk q : Nat} {l : Launch} {i : Inst} (hl : s.launch? ctx lid = some l) (hst : l.st = .running)
  (hq : quantumOf s l = some q)
  (hm : (launchInsts s l).filter (fun i => decide (i.stk = stk) && i.armed && !i.saved && !i.halting) = [i])
  (hi : s.inst? i.id = some i) (hd : i.dhold = false) (he : instEnded s i = false) (hc : i.qstart + q ≤ (s.stack stk).cyc)
include hl hst hq hm hi hd he hc

/-- The launch holds one configuration on the stack, and its quantum has passed. -/
theorem quantumTest_passed : quantumTest s ctx lid stk =
    if quantumWanted s i.part stk l.cls then preempt s ctx lid none
    else quantumTimer (s.setInst { i with qstart := (s.stack stk).cyc }) ctx lid stk ((s.stack stk).cyc + q) := by
  have hlt : ¬ (s.stack stk).cyc < i.qstart + q := Nat.not_lt.2 hc
  simp [quantumTest, hl, hq, hm, hst, hd, hlt, he, hi]

theorem quantumTest_wanted (hw : quantumWanted s i.part stk l.cls = true) : quantumTest s ctx lid stk = preempt s ctx lid none := by
  rw [quantumTest_passed hl hst hq hm hi hd he hc, if_pos hw]
theorem quantumTest_again (hw : quantumWanted s i.part stk l.cls = false) (ht : s.timers = []) : quantumTest s ctx lid stk =
    (s.setInst { i with qstart := (s.stack stk).cyc }).at_ stk ((s.stack stk).cyc + q) (.quantumExpiry lid ctx stk) := by
  rw [quantumTest_passed hl hst hq hm hi hd he hc, hw]
  simp [quantumTimer, ht]

end Quantum

/-! ## Saves (R359) -/

theorem imageSave_halted {s : State} {ctx lid : Nat} {l : Launch} (hh : (s.ctx ctx).halting = false) (hl : s.launch? ctx lid = some l)
    (hst : l.st = .halting) (hp : launchHalted s l = true) :
    let is_ := (launchInsts s l).filter (fun i => !i.saved)
    let stk := is_.foldl (fun m i => Nat.min m i.stk) 3
    let part := s.partOfCtx ctx
    let d := imageData s ctx part stk [l.nowSaved] (is_.map (snapshot s)) none
    is_ ≠ [] → imageSave ctx lid s = (carvPlace s part stk (imageBytes d).length).elim (partRecord s part stk ctx 1 lid) (fun a =>
      ((writeImage s stk a ctx lid d is_ (is_.map (fun i => i.id))).setLaunch l.nowSaved).later .arbitrationPass) := by
  intro is_ stk part d hne
  have hemp : is_.isEmpty = false := by simpa using hne
  simp only [is_] at hemp
  simp only [imageSave, hh, hl, hst, hp, hemp, ne_eq, not_true_eq_false, decide_false, Bool.not_true, Bool.or_self, Bool.false_eq_true, if_false]
  cases carvPlace s part stk (imageBytes d).length <;> rfl

/-! ## Restores (R366) -/

section Restore
variable {s : State} {ctx lid : Nat} {l : Launch} (h0 : lid ≠ 0) (hl : s.launch? ctx lid = some l) (hst : l.st = .admitted)

/-- The saved instances of a launch with what their images hold of them. -/
def savedParts (s : State) (l : Launch) : List (Inst × Nat × SavedInst) :=
  ((launchInsts s l).filter (fun i => i.saved)).filterMap (fun i => (savedOf s i).map (fun q => (i, q)))

include h0 hl hst in
theorem restoreStep_found (hne : (launchInsts s l).filter (fun i => i.saved) ≠ [])
    (hf : (savedParts s l).length = ((launchInsts s l).filter (fun i => i.saved)).length) :
    restoreStep ctx lid s = (restoreAll s (savedParts s l)).elim (pullFor s (savedParts s l)) (restoreGo ctx lid) := by
  cases hr : restoreAll s (savedParts s l)
  all_goals
    simp only [savedParts] at hf hr
    simp [restoreStep, h0, restoreLaunch, hl, hst, hne, hf, hr, savedParts]

include h0 hl hst in
theorem restoreStep_rebuilt (hne : (launchInsts s l).filter (fun i => i.saved) = []) : restoreStep ctx lid s = restoreGo ctx lid s := by
  simp [restoreStep, h0, restoreLaunch, hl, hst, hne]

theorem restoreAll_free {L : List (Inst × Nat × SavedInst)} :
    let free := L.foldl (fun s p => unparkRegs s p.1) s
    let claims := L.flatMap (fun p => winClaims free p.2.2 p.1)
    restorePulls claims = [] → restoreBlocked free claims = false → restoreAll s L =
      some (retrySaves (retryOpens (dropImages (L.foldl (fun s p => rebuild s p.2.1 p.2.2 (p.1.back s p.2.2)) free)))) := by
  intro free claims hp hb
  simp [restoreAll, free, claims, hp, hb]

theorem restoreAll_blocked {L : List (Inst × Nat × SavedInst)} :
    let free := L.foldl (fun s p => unparkRegs s p.1) s
    restoreBlocked free (L.flatMap (fun p => winClaims free p.2.2 p.1)) = true → restoreAll s L = none := by
  intro free hb
  simp [restoreAll, free, hb]

theorem pullFor_none {L : List (Inst × Nat × SavedInst)}
    (h : restorePulls (L.flatMap (fun p => winClaims (unparkRegs s p.1) p.2.2 p.1)) = []) : pullFor s L = s := by
  simp [pullFor, h]

/-- What is rebuilt goes on together, and the launch is RUNNING once all of it is armed. -/
theorem restoreGo_runs {l1 : Launch} :
    let back := s.insts.filter (fun i => decide (i.ctx = ctx) && decide (i.lid = lid) && i.comesBack s)
    back ≠ [] → (∀ i ∈ back, opensOut s i = false) → (back.foldl goOn s).launch? ctx lid = some l1 →
    (∀ i ∈ launchInsts (back.foldl goOn s) l1, i.armed = true) →
    (restoreGo ctx lid s).launch? ctx lid = some { l1 with st := .running } := by
  intro back hne ho hl1 harm
  have hemp : back.isEmpty = false := by simpa using hne
  have hout : back.any (opensOut s) = false := List.any_eq_false.2 fun i hi => by simp [ho i hi]
  have hall : (launchInsts (back.foldl goOn s) l1).all (fun i => i.armed) = true := List.all_eq_true.2 harm
  simp only [back] at hemp hout hl1 hall
  simp only [restoreGo, hemp, hout, hl1, hall, Bool.or_self, Bool.false_eq_true, if_false, if_true]
  obtain ⟨rfl, rfl⟩ := State.launch?_key hl1
  have hrun := State.launch?_setLaunch (x := { l1 with st := .running }) hl1
  split <;> exact hrun

end Restore

/-! ## Resizes (R330) -/

section Resize
variable {s : State} {p : Nat} {t : TileId} {fid n : Nat} {cols : BitVec 64} (hr : (s.part p).resizing = some (t, fid, n, cols))
include hr

theorem resizeDone_waits (h : leavers s p cols ≠ []) : resizeDone p s = s := by
  simp [resizeDone, hr, h]

theorem resizeDone_completes (h : leavers s p cols = []) :
    .arbitrationPass ∈ (resizeDone p s).acts ∧ (resizeDone p s).part p = { s.part p with cols := cols, resizing := none } := by
  simp only [resizeDone, hr, h, List.isEmpty_nil, Bool.not_true, Bool.false_eq_true, if_false]
  refine ⟨?acts, ?part⟩
  case acts => simp [State.later]
  case part =>
    split <;> exact State.part_setPart_self _ p _

end Resize

end Sys2Proof.Machine
end

section
/-! Launches: O53. -/

namespace Sys2Proof.Machine

/-- Settles O53: each step of a launch from its record to its completion, save and restore. -/
theorem launchesQueuePlaceRunAndRest : Obligations.LaunchesQueuePlaceRunAndRest := by
  intro s ctx lid
  refine ⟨?host, ?head, ?place, ?pass, ?quantum, ?save, ?restore, ?resized, ?resizing⟩
  case host =>
    intro b hb hd hp
    have hopen : (s.ctx ctx).evq.en = true → hostOpen s ctx = true := fun he => (hostOpen_iff s ctx).2 ⟨hp, he, hd, hb⟩
    refine ⟨fun he => ?closed, fun he hi hok hfull => ?full, fun he hi hrec => ⟨fun hok hroom => ?enters, fun hbad => ?refused⟩⟩
    all_goals rw [exec_hostLaunch]
    case closed =>
      have hno : hostOpen s ctx = false := Bool.eq_false_iff.2 fun h => by simp [((hostOpen_iff s ctx).1 h).2.1] at he
      rw [hostLaunch_closed b hno]
    case full =>
      have hno : launchRoom s ctx b = false := Bool.eq_false_iff.2 fun h => absurd ((launchRoom_iff s ctx b).1 h hok) (Nat.not_lt.2 hfull)
      rw [hostLaunch_waits (hopen he) hi hno, State.inTransport]
    case enters => rw [hostLaunch_enters (hopen he) hi ((launchRoom_iff s ctx b).2 fun _ => hroom) hrec]
    case refused =>
      rw [hostLaunch_enters (hopen he) hi ((launchRoom_iff s ctx b).2 fun h => by simp [hbad] at h) hrec, submitLaunch_lrec _ _ _ hbad]
  case head =>
    intro q l hi hq hl hst hd
    refine ⟨fun h => ?_, fun h => ?_, fun h he => ?_, fun h he b s1 => ?_⟩
    · exact congrArg _ (eligible_depfail hi hq hl hst hd h)
    · exact congrArg _ (eligible_waits hi hq hl hst hd h)
    · exact congrArg _ (eligible_disabled hi hq hl hst hd h he)
    · intro l1 hr
      exact congrArg Host.Outcome.next (eligible_reads hi hq hl hst hd h he rfl hr)
  case place =>
    intro img l hl hst hp
    refine ⟨fun h => ?_, fun h => ⟨fun e he => ?_, fun w k tiles hu hv => ?_⟩⟩
    · exact congrArg _ (placeLaunch_hash hl hst hp h)
    · exact congrArg _ (placeLaunch_refused hl hst hp h he)
    · obtain ⟨c, hw, hk, htiles, hhash, hrun⟩ := placeLaunch_places hl hst hp h hu hv
      exact ⟨c, hw, hk, htiles, hhash, congrArg _ hrun⟩
  case pass =>
    intro p P l c places s0 hparts hp he hs hc hst hpl hk hne hr hch hstk ha hf
    have hpass : passOf s0 p = admitLaunch s0 p l places := passOf_only hs hc hst hpl hk hne hr hch hstk ha hf
    have hkeep : (admitLaunch s0 p l places).parts = s.parts := admitLaunch_parts (by simp [hst]) p places
    rw [exec_arbitrationPass, arbitrate_only hparts hp he rfl (by rw [hpass, hkeep]), hpass]
  case quantum =>
    intro stk l i q hl hst ht hq hm hi hd _ _ he hc
    have hrun : exec (.quantumExpiry lid ctx stk) s = .next (quantumTest s ctx lid stk) := congrArg _ (quantumExpiry_alone stk ht hl)
    refine ⟨fun hw => ?wanted, fun hw => ?again⟩
    case wanted => rw [hrun, quantumTest_wanted hl hst hq hm hi hd he hc hw]
    case again =>
      rw [quantumTest_again hl hst hq hm hi hd he hc hw ht] at hrun
      exact ⟨_, hrun, rfl, by simp [State.at_, ht]⟩
  case save =>
    intro l a hh hl hst hp is_ stk part d place hne
    have hsave := imageSave_halted hh hl hst hp hne
    refine ⟨fun hpl => ?_, fun hpl => ?_⟩
    all_goals
      simp only [place] at hpl
      rw [exec_imageSave, hsave, hpl]
      rfl
  case restore =>
    intro l h0 hl hst is_ found free claims built back
    refine ⟨fun hne hf hp hb => ?rebuilt, fun hne hf hb hp => ?blocked, fun hno hne ho l1 hl1 harm => ⟨_, rfl, ?runs⟩⟩
    case rebuilt =>
      have hall : restoreAll s (savedParts s l) = some _ := restoreAll_free hp hb
      rw [exec_restore, restoreStep_found h0 hl hst hne hf, hall]
      rfl
    case blocked =>
      have hall : restoreAll s (savedParts s l) = none := restoreAll_blocked hb
      rw [exec_restore, restoreStep_found h0 hl hst hne hf, hall]
      exact congrArg _ (pullFor_none hp)
    case runs =>
      rw [restoreStep_rebuilt h0 hl hst hno]
      exact restoreGo_runs hne ho hl1 harm
  case resized =>
    intro p t fid n cols hr h
    obtain ⟨ha, hp⟩ := resizeDone_completes hr h
    exact ⟨_, exec_resizeComplete p s, ha, by rw [hp], by rw [hp]⟩
  case resizing => exact fun p t fid n cols hr h => congrArg _ (resizeDone_waits hr h)

end Sys2Proof.Machine
end
